-- ==== Sys2Proof/Word.lean ====
section
/-! DEFINITION. The register word (R11: every register is 32 bits wide) and the byte. -/

namespace Sys2Proof

/-- A register of the control window (R11). -/
abbrev Word := BitVec 32

/-- One byte of memory, of an image or of a record. -/
abbrev Byte := BitVec 8

end Sys2Proof
end

