-- ==== Sys2Proof/Machine/Bits.lean ====
section
/-! DEFINITION. Bit fields, byte order and list slices. Fields of registers, op descriptors, records and images are
read as natural numbers; multi-byte fields are little-endian unless a table says otherwise (R12). -/

namespace Sys2Proof.Machine

/-- Bits [hi:lo] of a number (the notation of R11). -/
def bits (w hi lo : Nat) : Nat := (w >>> lo) % 2 ^ (hi + 1 - lo)

/-- One bit of a number. -/
def bit (w i : Nat) : Bool := (w >>> i) % 2 == 1

/-- The number with its field [hi:lo] replaced by v (cut to the field's width). -/
def setBits (w hi lo v : Nat) : Nat :=
  w - (bits w hi lo) * 2 ^ lo + (v % 2 ^ (hi + 1 - lo)) * 2 ^ lo

/-- The number with bit i set to b. -/
def setBit (w i : Nat) (b : Bool) : Nat := setBits w i i (if b then 1 else 0)

/-- A byte list read as a little-endian number (R12). -/
def leNat : List Byte → Nat
  | [] => 0
  | b :: r => b.toNat + 256 * leNat r

/-- A byte list read as a big-endian number (R52, R477: signatures and keys). -/
def beNat (l : List Byte) : Nat := leNat l.reverse

/-- The n low bytes of v, little-endian (R12). -/
def toLe : Nat → Nat → List Byte
  | 0, _ => []
  | n + 1, v => BitVec.ofNat 8 v :: toLe n (v / 256)

/-- n bytes of l from offset o, short if l ends. -/
def slice (l : List Byte) (o n : Nat) : List Byte := (l.drop o).take n

/-- The little-endian field of n bytes at offset o of l. -/
def le (l : List Byte) (o n : Nat) : Nat := leNat (slice l o n)

/-- The byte at offset o of l as a number; 0 past its end. -/
def byteAt (l : List Byte) (o : Nat) : Nat := ((l.drop o).head?.getD 0).toNat

/-- l cut or zero-filled to exactly n bytes. -/
def padTo (n : Nat) (l : List Byte) : List Byte := (l ++ List.replicate (n - l.length) 0).take n

/-- n zero bytes. -/
def zeros (n : Nat) : List Byte := List.replicate n 0

/-- l with the bytes of d written at offset o. -/
def overlay (l : List Byte) (o : Nat) (d : List Byte) : List Byte :=
  l.take o ++ d ++ l.drop (o + d.length)

/-- Sign extension of an n-bit field to an integer. -/
def sext (n v : Nat) : Int := if v % 2 ^ n < 2 ^ (n - 1) then (v % 2 ^ n : Nat) else (v % 2 ^ n : Nat) - (2 ^ n : Nat)

/-- An integer as an n-bit two's complement field. -/
def wrapInt (n : Nat) (i : Int) : Nat := (i % (2 ^ n : Nat)).toNat

/-- 32-bit wrap of a counter (R41). -/
def w32 (v : Nat) : Nat := v % 2 ^ 32

/-- A Bool as a field value. -/
def flagNat (b : Bool) : Nat := if b then 1 else 0

/-- The number of set bits among the low n bits. -/
def popCount (n w : Nat) : Nat := ((List.range n).filter (fun i => bit w i)).length

/-- The set bits among the low n bits, ascending. -/
def bitsOf (n w : Nat) : List Nat := (List.range n).filter (fun i => bit w i)

/-- The mask with the listed bits set. -/
def maskOf (l : List Nat) : Nat := l.foldl (fun m i => m ||| (1 <<< i)) 0

/-- Element i of a list, or a default. -/
def nth {α : Type} (d : α) (l : List α) (i : Nat) : α := (l.drop i).head?.getD d

/-- The list with element i changed by f. -/
def modNth {α : Type} (f : α → α) : Nat → List α → List α
  | _, [] => []
  | 0, a :: r => f a :: r
  | n + 1, a :: r => a :: modNth f n r

/-- The position of the first element that satisfies p. -/
def findIdx {α : Type} (p : α → Bool) : List α → Option Nat
  | [] => none
  | a :: r => if p a then some 0 else (findIdx p r).map (· + 1)

/-- Ceiling of a division. -/
def cdiv (a b : Nat) : Nat := (a + b - 1) / b

/-- Round a up to a multiple of b. -/
def upTo (a b : Nat) : Nat := cdiv a b * b

/-- The least number of a list, if it has one. -/
def minNat : List Nat → Option Nat
  | [] => none
  | a :: r => some (r.foldl min a)

end Sys2Proof.Machine
end

