-- ==== Sys2Proof/Machine/Sparse.lean ====
section
/-! DEFINITION. Sparse data by key in one canonical form: a list of (key, value) pairs, keys strictly rising, no entry equal
to what an unlisted key reads as. Memories (lists of Host.Cell), the register file and the tables of the block are all kept so:
equal contents are equal lists. -/

namespace Sys2Proof.Machine

/-- A sparse table: (key, value) pairs, keys strictly rising. -/
abbrev Sparse (α : Type) := List (Nat × α)

/-- The value at a key; d where no entry lists it. -/
def Sparse.get {α : Type} (d : α) : Sparse α → Nat → α
  | [], _ => d
  | (k', v) :: r, k => if k = k' then v else Sparse.get d r k

/-- An entry put in front of the first with a greater key, unless it says what an unlisted key reads as. -/
def Sparse.put {α : Type} [DecidableEq α] (d : α) : Sparse α → Nat → α → Sparse α
  | [], k, v => if v = d then [] else [(k, v)]
  | (k', v') :: r, k, v =>
    if k < k' then (if v = d then (k', v') :: r else (k, v) :: (k', v') :: r) else (k', v') :: Sparse.put d r k v

/-- The table without key k. -/
def Sparse.erase {α : Type} : Sparse α → Nat → Sparse α
  | [], _ => []
  | (k', v') :: r, k => if k = k' then Sparse.erase r k else (k', v') :: Sparse.erase r k

/-- The table with key k set to v. Writing the default removes the entry. -/
def Sparse.set {α : Type} [DecidableEq α] (d : α) (m : Sparse α) (k : Nat) (v : α) : Sparse α :=
  Sparse.put d (Sparse.erase m k) k v

/-- The table with the value at k changed by f. -/
def Sparse.upd {α : Type} [DecidableEq α] (d : α) (m : Sparse α) (k : Nat) (f : α → α) : Sparse α :=
  Sparse.set d m k (f (Sparse.get d m k))

/-- Every key of the table lies above b. -/
def Sparse.above {α : Type} (b : Nat) : Sparse α → Bool
  | [] => true
  | (k, _) :: _ => b < k

/-- The canonical form: keys strictly rising and no entry equal to the default d. -/
def Sparse.wf {α : Type} [DecidableEq α] (d : α) : Sparse α → Bool
  | [] => true
  | (k, v) :: r => Sparse.above k r && (decide (v ≠ d) && Sparse.wf d r)

/-- The keys in [lo, hi) removed. -/
def Sparse.clearRange {α : Type} (m : Sparse α) (lo hi : Nat) : Sparse α :=
  m.filter (fun e => e.1 < lo || hi ≤ e.1)

/-- A sorted list of keys: a set without repeats. -/
abbrev NatSet := List Nat

/-- Membership. -/
def NatSet.has (m : NatSet) (k : Nat) : Bool := m.contains k

/-- The set with k added. -/
def NatSet.ins : NatSet → Nat → NatSet
  | [], k => [k]
  | a :: r, k => if k < a then k :: a :: r else if k = a then a :: r else a :: NatSet.ins r k

/-- The set with k removed. -/
def NatSet.del (m : NatSet) (k : Nat) : NatSet := m.filter (fun a => a ≠ k)

/-- A byte memory: cells of (address, byte), in canonical form for the byte 0 that an unlisted address reads as
(DESIGN CHOICE, log entry 3). -/
abbrev Memory := List Host.Cell

/-- What an unlisted byte of HBM or of Core Store reads as: the spec gives volatile memories no power-on contents
(R490, R503); DESIGN CHOICE 0, log entry 3, unsafe. -/
def Memory.unlisted : Byte := 0

/-- The canonical form of a memory. -/
abbrev Memory.wf (m : Memory) : Bool := Sparse.wf (α := Byte) Memory.unlisted m

/-- One byte read. -/
def Memory.read (m : Memory) (a : Nat) : Byte := Sparse.get (α := Byte) Memory.unlisted m a

/-- One byte written. -/
def Memory.write (m : Memory) (a : Nat) (b : Byte) : Memory := Sparse.set (α := Byte) Memory.unlisted m a b

/-- n bytes read from address a up. -/
def Memory.readN (m : Memory) (a : Nat) : Nat → List Byte
  | 0 => []
  | n + 1 => Memory.read m a :: Memory.readN m (a + 1) n

/-- Bytes written from address a up. -/
def Memory.writeN (m : Memory) (a : Nat) : List Byte → Memory
  | [] => m
  | b :: r => Memory.writeN (Memory.write m a b) (a + 1) r

end Sys2Proof.Machine
end

