-- ==== Sys2Proof/Machine/CtlState.lean ====
section
/-! DEFINITION. The control part of the state: supply, pins and test port (Power, Connectors and Mechanical Data), module flash,
boot and margins (Bring-up, Ageing and Margin Re-planning), the Trail Map and its load (Trail Map: the Structure Image), owner keys
and attestation (Identity, Signing and Protected Regions). -/

namespace Sys2Proof.Machine

/-- A FACETS entry (Table 2.4). -/
structure Facet where
  id : Nat := 0
  ports : Nat := 0
  cores : Nat := 0
  chanFirst : Nat := 0
  chanCount : Nat := 1
  asFirst : Nat := 0
  asCount : Nat := 1
  clientFirst : Nat := 0
  clientCount : Nat := 1
  queueFirst : Nat := 0
  queueCount : Nat := 0
  syncFirst : Nat := 0
  syncCount : Nat := 1
  deriving DecidableEq, Repr

/-- A MARGIN entry (R62). -/
structure Margin where
  vOff : Nat := 0
  vCeil : Nat := 0
  fBin : Nat := 0
  deriving DecidableEq, Repr

/-- The TWIN section (Table 2.5). -/
structure TwinCfg where
  enable : Bool := false
  role : Nat := 0
  pairId : Nat := 0
  period : Nat := 0
  lossCount : Nat := 0
  digest : List Byte := []
  deriving DecidableEq, Repr

/-- A HOST_ACCESS entry (R64). -/
structure HostAccess where
  fn : Nat := 0
  facets : Nat := 0
  blocks : Nat := 0
  deriving DecidableEq, Repr

/-- The TORUS section (R58); lists hold the x, y and z values in that order. -/
structure Torus where
  pos : List Nat := [0, 0, 0]
  dim : List Nat := [1, 1, 1]
  dateline : List Nat := [0, 0, 0]
  ports : Nat := 0
  deriving DecidableEq, Repr

/-- A Trail Map, read out of its image (R46). chan holds the 384 channel bytes of R56; ways holds the MSC_PART masks at
16 * slice + facet. -/
structure TrailMap where
  image : List Byte := []
  generation : Nat := 0
  facets : List Facet := []
  coreMap : List Nat := []
  retired : Nat := 0
  chan : List Nat := []
  hash : List (Nat × Nat) := []
  relayStart : Nat := 0
  relayDir : Nat := 0
  torus : Torus := {}
  twin : Option TwinCfg := none
  ways : List Nat := []
  margin : List Margin := []
  cap : Nat := 1200
  peak : Nat := 1500
  excursion : Nat := 20
  share : List Nat := []
  access : List HostAccess := []
  deriving DecidableEq, Repr

/-- The state of a facet (R73, Table 2.6). -/
inductive FacetState where
  | running | draining | drained | absent
  deriving DecidableEq, Repr

/-- The phase of a Trail Map load (R509): the image is being read, its checks run, it is written to flash, it is applied. -/
inductive LoadPhase where
  | reading | checking | flashWrite | applying
  deriving DecidableEq, Repr

/-- An owner key slot (R481). The counter outlives a revocation (R482). -/
structure OwnerKey where
  key : Option (List Byte) := none
  rights : Nat := 0
  counter : Nat := 0
  deriving DecidableEq, Repr

/-- A Trail Map load in progress. keys holds the slots as they stood when it started (R483). -/
structure TmLoad where
  phase : LoadPhase := .reading
  fromHost : Bool := true
  persist : Bool := false
  bank : Nat := 0
  image : List Byte := []
  /-- For a load from flash: which banks could be read. -/
  banks : List Bool := [true, true]
  keys : List OwnerKey := []
  deriving DecidableEq, Repr

/-- A record of the ageing history ring (Table 16.3). -/
structure HistRecord where
  hours : Nat := 0
  cause : Nat := 1
  generation : Nat := 0
  d : List Nat := []
  slack : List Nat := []
  margin : List Margin := []
  deriving DecidableEq, Repr

/-- Module flash (R68, R442, R445, R450, R481): Trail Map banks, which of them and of the firmware banks cannot be read now, the two floor copies (none: the copy fails its check value),
firmware banks, margin overlay by physical core, history ring newest first, power-on hours, owner key slots 1 to 8. -/
structure Flash where
  bank : List (List Byte) := [[], []]
  unread : List Bool := [false, false]
  fwUnread : List Bool := [false, false]
  floor : List (Option Nat) := [some 0, some 0]
  fwBank : List (List Byte) := [[], []]
  overlay : Sparse Margin := []
  history : List HistRecord := []
  hours : Nat := 0
  keys : List OwnerKey := List.replicate 8 {}
  deriving DecidableEq, Repr

/-- The stage of Ranger's boot (BU_BOOT.stage). -/
inductive BootStage where
  | rom | romWait | firmware
  deriving DecidableEq, Repr

/-- The instruction register of the test port (R506). -/
inductive TapInstr where
  | bypass | samplePreload | extest | extestPulse | extestTrain
  deriving DecidableEq, Repr

/-- What started a measurement (R444). -/
inductive MeasCause where
  | periodic | command | step
  deriving DecidableEq, Repr

/-- A measurement in progress: its cause and the physical cores it measures. -/
structure Measure where
  cause : MeasCause := .periodic
  cores : List Nat := []
  deriving DecidableEq, Repr

/-- The margin of one physical core in effect (AG_CORE, Table 16.6). -/
structure CoreMargin where
  vOff : Nat := 0
  vCeil : Nat := 0
  fBin : Nat := 0
  pending : Option Nat := none
  propose : Bool := false
  relock : Bool := false
  deriving DecidableEq, Repr

/-- The progress of a key command (R482). -/
inductive KeyPhase where
  | idle | waiting | reading
  | writing (slot : Nat) (entry : OwnerKey)
  deriving DecidableEq, Repr

/-- Supply, pins and the test port: what the sideband controller sees. -/
structure Power where
  /-- The input lies within its range, for R436 (R490). -/
  inputOk : Bool := true
  /-- The input lies in the operating range of Table 19.1 (SMBus STATUS bit 5). -/
  inOperating : Bool := true
  /-- Power good of rails 0 to 5 (Table 16.1). -/
  rails : List Bool := List.replicate 6 true
  railMv : List Nat := List.replicate 6 0
  /-- The trip cause kept by the sideband controller (Table 19.2). -/
  trip : Nat := 0
  /-- MOD_RST_N high. -/
  rstN : Bool := true
  /-- REFCLK present and stable (refclk_ok). -/
  refclk : Bool := true
  tap : TapInstr := .bypass
  /-- Logic out of reset (R503). -/
  running : Bool := true
  thermalHold : Bool := false
  tj : Nat := 0
  tcase : Nat := 0
  vin : Nat := 0
  iin : Nat := 0
  pin : Nat := 0
  /-- Input energy in nJ since the input was applied (SMBus ENERGY). -/
  energy : Nat := 0
  deriving DecidableEq, Repr

/-- The control part of the state. -/
structure Ctl where
  power : Power := {}
  flash : Flash := {}
  /-- Ranger's boot stage, the firmware bank accepted, the last firmware refusal code (R442). -/
  stage : BootStage := .rom
  fwBank : Nat := 0
  fwCode : Nat := 0
  /-- BU_BOOT.fw_load: a firmware image is being read from host memory. -/
  fwLoad : Bool := false
  /-- The running firmware image; its embedded vendor key is signer 0 (R480). -/
  firmware : List Byte := []
  /-- BIST has run since reset; physical cores that failed their last BIST (R441). -/
  bistDone : Bool := false
  bistFail : Nat := 0
  /-- Step 5 of Table 16.2 has ended: walker, front end and MSC slices are ready. -/
  blocksReady : Bool := false
  /-- The Trail Map in effect and the flash bank that holds it. -/
  map : Option TrailMap := none
  mapBank : Option Nat := none
  load : Option TmLoad := none
  /-- Code and fault offset of the last refusal (Table 2.7). -/
  refuseCode : Nat := 0
  faultOffset : Nat := 0
  facetState : List FacetState := List.replicate 16 .absent
  /-- Facets with a resume bit that waits for a load to end (R78). -/
  resumeWait : NatSet := []
  margins : List CoreMargin := List.replicate 132 {}
  slack : List Nat := List.replicate 132 0
  minSlack : List Nat := List.replicate 132 0xFF
  ro : List Nat := List.replicate 512 0
  measure : Option Measure := none
  /-- Cores whose margin step fell due while a load was in progress (R451). -/
  stepDue : NatSet := []
  histIndex : Nat := 0
  histWord : Nat := 0
  /-- The epoch of each facet's AES-256-XTS key pair (R485): a new pair per increment. -/
  keyEpoch : List Nat := List.replicate 16 0
  keyPhase : KeyPhase := .idle
  secCode : Nat := 0
  /-- A report is being built; reports signed since module reset (R484). -/
  attesting : Bool := false
  reports : Nat := 0
  deriving DecidableEq, Repr

end Sys2Proof.Machine
end

