-- ==== Sys2Proof/Machine/DevState.lean ====
section
/-! DEFINITION. State of the chip-level blocks that run work: memory system (HBM4, Point Path and Memory-Side Cache), translation
(Address Translation, Faults and Migration), front end, launches and device queues (Commands, Task Programs and Sync Objects;
Serving Schedule and Preemption), the violation log, quarantine and the Trip Log (Violations, Recovery, Replay and Guarantees). -/

namespace Sys2Proof.Machine

/-- A byte with the poison of the granule that it came from (R288, R290). -/
abbrev PByte := Byte × Bool

/-- Who asked for an access, an op or a record: the command (channel, index of its first slot) and the task number within its
launch, `none` for the command itself. -/
structure Owner where
  ch : Nat := 0
  seq : Nat := 0
  task : Option Nat := none
  deriving DecidableEq, Repr

/-! ### Memory system -/

/-- What error correction says of a granule of HBM, or of the words of a granule in an array of the chip (R286, R287). -/
inductive Ecc where
  | clean | corrected | uncorrectable
  deriving DecidableEq, Repr

/-- A 64 B sector of an MSC line (R281). -/
structure Sector where
  valid : Bool := false
  dirty : Bool := false
  poison : Bool := false
  data : List Byte := []
  deriving DecidableEq, Repr

/-- The state of an MSC line (R281). -/
inductive LineState where
  | invalid | keep | last
  deriving DecidableEq, Repr

/-- An MSC line: one 256 B stream granule of one channel, with the attribute with which it was filled (R486). -/
structure Line where
  state : LineState := .invalid
  ch : Nat := 0
  gran : Nat := 0
  facet : Nat := 0
  prot : Bool := false
  /-- Stamp of the last use: the least recently used line has the least stamp. -/
  used : Nat := 0
  sectors : List Sector := List.replicate 4 {}
  deriving DecidableEq, Repr

/-- The key and tweak under which a granule of HBM is stored (R485): facet, key epoch, granule number. -/
structure CryptTag where
  facet : Nat
  epoch : Nat
  tweak : Nat
  deriving DecidableEq, Repr

/-- The state of a channel (Table 10.1). -/
inductive ChanState where
  | down | ready | mappedOut | failed
  deriving DecidableEq, Repr

/-- A request waiting in a channel's point queue (R279): class 0 walk, 1 Row Directory, 2 row, 3 scrub (R291). snap: the granule as it stood before a write
that the slice accepted after the request (R278), or as a merged read has found it; merged: that read has served the request. -/
structure PointReq where
  pa : Nat := 0
  cls : Nat := 0
  hint : Nat := 0
  facet : Nat := 0
  aged : Bool := false
  snap : Option (List Byte × Bool) := none
  merged : Bool := false
  deriving DecidableEq, Repr

/-- A memory channel. lost: the number of the free contents that it holds since it was mapped out (R79, R276); written: the granules (channel-local
address / 64) written since. waiting: requests that a full queue has not accepted yet. -/
structure Chan where
  state : ChanState := .down
  queue : List PointReq := []
  scrubPos : Nat := 0
  waiting : List PointReq := []
  lost : Option Nat := none
  written : NatSet := []
  deriving DecidableEq, Repr

/-- Device memory behind the slices: HBM keyed channel * 2^31 + local address, poisoned granules (key / 64), the tags of granules
stored under a protection key (R485), MSC lines keyed slice * 65,536 + set * 16 + way, channels. bad: granules of HBM (key / 64) that error
correction cannot correct (R286). visited: the sets that a flush or unkeep in progress has visited, as ((slice * 16 + facet) * 2 + unkeep) * 4,096 + set
(R285). -/
structure Mem where
  hbm : Memory := []
  poison : NatSet := []
  bad : NatSet := []
  visited : NatSet := []
  tags : Sparse (Option CryptTag) := []
  lines : Sparse Line := []
  clock : Nat := 0
  chans : Sparse Chan := []
  deriving DecidableEq, Repr

/-! ### Translation -/

/-- A TLB entry (R304): level of the leaf (1 to 3), page base and leaf bits [5:2]; scout marks an unused scout entry. -/
structure TlbEntry where
  as : Nat := 0
  level : Nat := 3
  page : Nat := 0
  pa : Nat := 0
  bits : Nat := 0
  scout : Bool := false
  deriving DecidableEq, Repr

/-- A walk in a slot of the walker (R307). Waiters are (4 * core + engine, va, write). scouts: the cores that the scout walks for. -/
structure Walk where
  as : Nat := 0
  va : Nat := 0
  level : Nat := 0
  table : Nat := 0
  waiters : List (Nat × Nat × Bool) := []
  scouts : List Nat := []
  restart : Bool := false
  deriving DecidableEq, Repr

/-- A fault entry (Table 11.6). Waiters are (4 * core + engine, va, write); access is the union of their directions. -/
structure FaultEntry where
  kind : Nat := 0
  level : Nat := 0
  as : Nat := 0
  access : Nat := 0
  region : Nat := 0
  firstVa : Nat := 0
  entry : Nat := 0
  opened : Nat := 0
  first : Nat := 0
  waiters : List (Nat × Nat × Bool) := []
  deriving DecidableEq, Repr

/-- A walk cache entry (R307): the table pointer found at a level for a virtual prefix. -/
structure WalkCacheEntry where
  as : Nat := 0
  level : Nat := 0
  pfx : Nat := 0
  table : Nat := 0
  deriving DecidableEq, Repr

/-- An outstanding invalidation (R319, R320). block: still in BLOCK; waits: accesses that DRAIN waits for; cmd: the INVALIDATE
command it serves. -/
structure Inval where
  kind : Nat := 0
  as : Nat := 0
  va : Nat := 0
  pages : Nat := 0
  facet : Nat := 0
  syncEn : Bool := false
  sync : Nat := 0
  block : Bool := true
  waits : NatSet := []
  cmd : Option Owner := none
  deriving DecidableEq, Repr

/-- A hot-page counter (R325), keyed by address space and 64 KiB virtual page; the list is in order of use, newest first. -/
structure HotCount where
  as : Nat := 0
  page : Nat := 0
  count : Nat := 0
  wrote : Bool := false
  notified : Bool := false
  deriving DecidableEq, Repr

/-- A fault that waits for a free entry of the fault table (R315): its requester (4 * core + engine), the access, and what the entry will say. -/
structure PendFault where
  who : Nat := 0
  as : Nat := 0
  va : Nat := 0
  write : Bool := false
  kind : Nat := 0
  level : Nat := 0
  entry : Nat := 0
  deriving DecidableEq, Repr

/-- A translation that an access in progress has obtained: requester, address space, address, direction, physical address, leaf bits. -/
structure GotVa where
  who : Nat := 0
  as : Nat := 0
  va : Nat := 0
  write : Bool := false
  pa : Nat := 0
  bits : Nat := 0
  deriving DecidableEq, Repr

/-- Translation state. aborted: what ABORT has ended of accesses in progress, as (4 * core + engine, address space, base, size). tableWait: faults that
wait for a free entry. got: translations of accesses in progress. faultTop: how many entries of the fault table have ever been opened. scouted: pages for which the scout
has walked, as (4 * core + engine, address space, 64 KiB page). -/
structure Xlate where
  walks : List Walk := []
  wcache : List WalkCacheEntry := []
  rwcache : List (Nat × Nat × List Byte × Bool) := []
  faults : Sparse (Option FaultEntry) := []
  aborted : List (Nat × Nat × Nat × Nat) := []
  tableWait : List PendFault := []
  got : List GotVa := []
  faultTop : Nat := 0
  scouted : List (Nat × Nat × Nat) := []
  invs : List Inval := []
  hot : List HotCount := []
  deriving DecidableEq, Repr

/-! ### Sync objects, launches, channels -/

/-- A sync object (R362, R363). -/
structure SyncObj where
  value : Nat := 0
  owner : Option Nat := none
  mirror : Bool := false
  poison : Bool := false
  deriving DecidableEq, Repr

/-- A violation on its way to the log (Table 17.2). -/
structure Violation where
  kind : Nat := 0
  block : Nat := 0
  code : Nat := 0
  reqKind : Nat := 0
  addrKind : Nat := 0
  facet : Nat := 0xFF
  requester : Nat := 0
  address : Nat := 0
  aux : Nat := 0
  deriving DecidableEq, Repr

/-- The state of a task (R349): owner, address space, level, generation, program counter, counters, predicates, ops retired. -/
structure Task where
  own : Owner := {}
  as : Nat := 0
  level : Nat := 0
  gen : Nat := 0
  pc : Nat := 0
  c : List Nat := List.replicate 8 0
  p : Nat := 0
  ops : Nat := 0
  /-- The device queue the task came from. -/
  queue : Option Nat := none
  /-- The core that the task names; 0xFF for any (R376). -/
  named : Nat := 0xFF
  /-- The status with which the task will end (0 OK so far), set by a refusal, an abort or a poisoned fetch. -/
  status : Nat := 0
  ending : Bool := false
  placed : Nat := 0
  /-- The task that enqueued it; 2^32 - 1 for a root task. -/
  parent : Nat := 2 ^ 32 - 1
  deriving DecidableEq, Repr

/-- A ready task (R376): oldest first in the list of the dispatcher. -/
structure Ready where
  task : Task := {}
  facet : Nat := 0
  core : Nat := 0xFF
  /-- Its preemption request is outstanding (R377). -/
  asked : Bool := false
  deriving DecidableEq, Repr

/-- What a launch carries while it runs (R345, R346). resv: (queue, entries, use); roots: root tasks that wait for the argument write;
live: tasks that have not ended; epochs: (table, epoch) bound (R92), 0 for none. -/
structure Launch where
  graph : Nat := 0
  revision : Nat := 0
  imagePa : Nat := 0
  level : Nat := 0
  as : Nat := 0
  resv : List (Nat × Nat × Nat) := []
  live : Nat := 0
  nextTask : Nat := 0
  epochs : List (Nat × Nat) := []
  /-- Tables without an epoch in the list are unbound (R92): the registry has been replaced since the launch started. -/
  closed : Bool := false
  /-- Tables whose binding has been used. -/
  noted : NatSet := []
  roots : List Ready := []
  begun : Bool := false
  deriving DecidableEq, Repr

/-- The progress of a command of a channel. -/
inductive CmdPhase where
  | accepted | started | running | done
  deriving DecidableEq, Repr

/-- A command read from a ring (Table 12.2) and what its completion record will say (Table 12.10). -/
structure Cmd where
  seq : Nat := 0
  slots : Nat := 1
  pa : Nat := 0
  /-- Its slots as read. -/
  raw : List Byte := []
  inlined : List Byte := []
  phase : CmdPhase := .accepted
  bad : Option Violation := none
  status : Nat := 0
  cflags : Nat := 0
  errEngine : Nat := 0xFF
  errCode : Nat := 0
  tasks : Nat := 0
  special : Nat := 0
  resvWaited : Bool := false
  /-- The client of its channel when it was consumed (R386). -/
  client : Nat := 0
  core : Nat := 0xFF
  launch : Option Launch := none
  /-- Sub-ops still to run for BATCH: index of the next descriptor. -/
  next : Nat := 0
  /-- A Trip Log record of it was lost (R467). -/
  lostRec : Bool := false
  deriving DecidableEq, Repr

/-- A completion record on its way (R365): its bytes, whether it asks for an interrupt, the address of a failed write (R368). -/
structure CmplRec where
  bytes : List Byte := []
  irq : Bool := false
  failedPa : Nat := 0
  deriving DecidableEq, Repr

/-- A submission channel (R332 to R341, R365 to R369). slots: the slots of the command being read, oldest first, as read; fin: completed
commands whose records are still to be built, in the order of their completion; record: the record being written; readback: its read-back
is out (R424). -/
structure Channel where
  await : Bool := false
  held : Bool := false
  prod : Nat := 0
  cons : Nat := 0
  rereads : Nat := 0
  retrying : Bool := false
  slots : List (List Byte) := []
  cmds : List Cmd := []
  fin : List Nat := []
  record : Option CmplRec := none
  readback : Bool := false
  cmplProd : Nat := 0
  aborting : Bool := false
  /-- The commands that had started when the abort under way was written (R354). -/
  abortSeqs : List Nat := []
  deriving DecidableEq, Repr

/-- Per-client accounts (R386). -/
structure Client where
  completed : Nat := 0
  outstanding : Nat := 0
  deriving DecidableEq, Repr

/-- A device queue's use (R358, R360). -/
structure DevQueue where
  reserved : Nat := 0
  occupancy : Nat := 0
  tail : Nat := 0
  deriving DecidableEq, Repr

/-! ### Violations, quarantine, Trip Log -/

/-- The phase of a core's quarantine (RG_QUAR_CORE, Table 17.12). -/
inductive QuarPhase where
  | none | isolating | releasing | quarantined | testing
  deriving DecidableEq, Repr

/-- Quarantine state of a logical core. -/
structure Quar where
  cause : Nat := 0
  phase : QuarPhase := .none
  released : Nat := 0
  deriving DecidableEq, Repr

/-- A channel's Trip Log ring: byte counts as the GX12 keeps them, records lost since the last LOSS record. -/
structure TripRing where
  prod : Nat := 0
  cons : Nat := 0
  lost : Nat := 0
  lostSince : Nat := 0
  deriving DecidableEq, Repr

/-- Replay of a facet (R468 to R470, TL_REPLAY). pos: consumed bytes per channel;
used: the last trip number taken by (channel, launch, task). -/
structure Replay where
  state : Nat := 0
  code : Nat := 0
  forced : Nat := 0
  divChannel : Nat := 0
  divTrip : Nat := 0
  pos : Sparse Nat := []
  used : List (Nat × Nat × Nat × Nat) := []
  stopping : Bool := false
  deriving DecidableEq, Repr

/-! ### Governor -/

/-- An exact fraction num / den of a power in mW (R493: the attributed powers sum to the measured power exactly). -/
structure Frac where
  num : Int := 0
  den : Nat := 1
  deriving DecidableEq, Repr

/-- The governor's account of a facet (R493 to R495). hist: the last samples, newest first, at most 6,250. below: consecutive samples below
0.95 of the continuous limit; low: consecutive samples at or below it. -/
structure GovFacet where
  level : Nat := 0
  effective : Nat := 0
  sample : Frac := {}
  hist : List Frac := []
  excCount : Nat := 0
  below : Nat := 0
  low : Nat := 0
  deriving DecidableEq, Repr

/-- The answer to the last register read, SMBus read, read of a granule or host request. merged: how many further requests for the granule the same read
answers (R279). -/
structure Reply where
  merged : Nat := 0
  data : Nat := 0
  error : Bool := false
  bytes : List Byte := []
  deriving DecidableEq, Repr

end Sys2Proof.Machine
end

