-- ==== Sys2Proof/Machine/Numbers.lean ====
section
/-! DEFINITION. The number formats and their arithmetic (Number Formats, Scaling and Quantisation): exact dyadic values, decoding
and narrowing of every format of Table 4.1, the rounding of R139 with Table 4.7 and the flushes of R143. Arithmetic is exact on
`Num` and rounds only where a rule says so. -/

namespace Sys2Proof.Machine

/-- A number as the arithmetic sees it: NaN, an infinity, or (-1)^neg * m * 2^e exactly (m = 0 is a signed zero). -/
inductive Num where
  | nan
  | inf (neg : Bool)
  | fin (neg : Bool) (m : Nat) (e : Int)
  deriving DecidableEq, Repr

/-- The formats of Table 4.1. -/
inductive Fmt where
  | fp32 | fp16 | bf16 | e4m3 | e5m2 | int8 | int4 | code2 | code3 | code4
  deriving DecidableEq, Repr

/-- The format of a 4-bit format code (R120); none for a reserved code. -/
def fmtOf (code : Nat) : Option Fmt :=
  match code with
  | 0 => some .fp32 | 1 => some .fp16 | 2 => some .bf16 | 3 => some .e4m3 | 4 => some .e5m2
  | 5 => some .int8 | 6 => some .int4 | 7 => some .code2 | 8 => some .code3 | 9 => some .code4
  | _ => none

/-- Width in bits (Table 4.1). -/
def Fmt.width : Fmt → Nat
  | .fp32 => 32 | .fp16 => 16 | .bf16 => 16 | .e4m3 => 8 | .e5m2 => 8 | .int8 => 8
  | .int4 => 4 | .code2 => 2 | .code3 => 3 | .code4 => 4

/-- Mantissa width, exponent width, bias (Table 4.2); zeros for integers and codes. -/
def Fmt.layout : Fmt → Nat × Nat × Nat
  | .fp32 => (23, 8, 127) | .fp16 => (10, 5, 15) | .bf16 => (7, 8, 127) | .e4m3 => (3, 4, 7) | .e5m2 => (2, 5, 15)
  | _ => (0, 0, 0)

/-- Formats narrower than a byte: INT4 and the codes. -/
def Fmt.subByte : Fmt → Bool
  | .int4 | .code2 | .code3 | .code4 => true
  | _ => false

/-- Is it a floating-point format? -/
def Fmt.isFloat (f : Fmt) : Bool := f.layout.2.1 ≠ 0

/-- The canonical quiet NaN (Table 4.3). -/
def Fmt.nan : Fmt → Nat
  | .fp32 => 0x7FC00000 | .fp16 => 0x7E00 | .bf16 => 0x7FC0 | .e4m3 => 0x7F | .e5m2 => 0x7E
  | _ => 0

/-- Integer n as an exact number; zero is +0. -/
def Num.ofInt (n : Int) : Num := .fin (n < 0) n.natAbs 0

/-- The value of an encoding (R122, R123, R125). Codes read as two's complement integers of their width (R127). -/
def Fmt.decode (f : Fmt) (w : Nat) : Num :=
  let (mb, eb, bias) := f.layout
  if eb = 0 then Num.ofInt (sext f.width w)
  else
    let s := bit w (mb + eb)
    let e := bits w (mb + eb - 1) mb
    let m := w % 2 ^ mb
    if f = .e4m3 && e = 15 && m = 7 then .nan
    else if f ≠ .e4m3 && e = 2 ^ eb - 1 then (if m = 0 then .inf s else .nan)
    else if e = 0 then .fin s m (1 - (bias : Int) - mb)
    else .fin s (2 ^ mb + m) ((e : Int) - bias - mb)

/-- An operand as it enters arithmetic: FP16 and BF16 subnormals are zero of their sign (R143). -/
def Fmt.decodeIn (f : Fmt) (w : Nat) : Num :=
  if (f = .fp16 || f = .bf16) && bits w (f.layout.1 + f.layout.2.1 - 1) f.layout.1 = 0 then .fin (bit w 15) 0 0
  else f.decode w

/-- m / 2^k rounded to nearest, ties to even. -/
def rneShift (m k : Nat) : Nat :=
  let q := m / 2 ^ k
  let r := 2 * (m % 2 ^ k)
  if 2 ^ k < r || (r = 2 ^ k && q % 2 = 1) then q + 1 else q

/-- m * 2^e as an integer count of 2^q, to nearest, ties to even. -/
def quantize (m : Nat) (e q : Int) : Nat :=
  if q ≤ e then m * 2 ^ (e - q).toNat else rneShift m (q - e).toNat

/-- The encoding of a number narrowed to a floating-point format (R139, Table 4.7). -/
def Fmt.narrowFloat (f : Fmt) (x : Num) : Nat :=
  let (mb, eb, bias) := f.layout
  let sign := fun (n : Bool) => (if n then 2 ^ (mb + eb) else 0)
  let infE := (2 ^ eb - 1) * 2 ^ mb
  match x with
  | .nan => f.nan
  | .inf n => if f = .e4m3 then f.nan else sign n + infE
  | .fin n 0 _ => sign n
  | .fin n m e =>
    let emin : Int := 1 - bias
    let top : Int := (Nat.log2 m : Int) + e
    let flush := f = .fp16 || f = .bf16
    let q : Int := if flush then top - mb else max (top - mb) (emin - mb)
    let k := quantize m e q
    let (k, q) := if k = 2 ^ (mb + 1) then (2 ^ mb, q + 1) else (k, q)
    if k < 2 ^ mb then sign n + k
    else
      let ef : Int := q + mb + bias
      if ef < 1 then sign n
      else if f = .e4m3 then (if 15 < ef || (ef = 15 && k = 15) then sign n + 0x7E else sign n + ef.toNat * 8 + (k - 8))
      else if (2 ^ eb - 1 : Nat) ≤ ef then sign n + infE
      else sign n + ef.toNat * 2 ^ mb + (k - 2 ^ mb)

/-- Round to nearest integer, ties to even. -/
def Num.rne : Num → Option Int
  | .nan => none
  | .inf _ => none
  | .fin n m e =>
    let k := quantize m e 0
    some (if n then -(k : Int) else k)

/-- An integer clamped to [lo, hi]. -/
def clampInt (lo hi i : Int) : Int := if i < lo then lo else if hi < i then hi else i

/-- A number narrowed to a format with an output zero point (R133, R139): the encoding and whether the element is special
(NaN, or an infinity of the output format, R145). kind: 0 none, 1 NaN, 2 +infinity, 3 -infinity (Table 4.10). -/
def Fmt.narrow (f : Fmt) (zo : Int) (x : Num) : Nat × Nat :=
  if f.isFloat then
    let w := f.narrowFloat x
    let (mb, eb, _) := f.layout
    let k := match f.decode w with
      | .nan => 1
      | .inf n => if n then 3 else 2
      | .fin .. => 0
    (w % 2 ^ (mb + eb + 1), k)
  else match x with
    | .nan => (0, 1)
    | .inf n => (wrapInt 8 (if n then -128 else 127), 0)
    | .fin .. => (wrapInt 8 (clampInt (-128) 127 (x.rne.getD 0 + zo)), 0)

/-- round_fp32 (R139). -/
def Num.r32 (x : Num) : Num := Fmt.fp32.decode (Fmt.fp32.narrowFloat x)

/-- round_fp16 of a product-table entry (R148): a tiny entry is zero. -/
def Num.r16 (x : Num) : Num := Fmt.fp16.decode (Fmt.fp16.narrowFloat x)

/-- Is it zero? -/
def Num.isZero : Num → Bool
  | .fin _ 0 _ => true
  | _ => false

/-- The sign. -/
def Num.neg : Num → Bool
  | .nan => false
  | .inf n => n
  | .fin n _ _ => n

/-- -x; a NaN stays NaN. -/
def Num.negate : Num → Num
  | .nan => .nan
  | .inf n => .inf (!n)
  | .fin n m e => .fin (!n) m e

/-- |x|. -/
def Num.abs : Num → Num
  | .nan => .nan
  | .inf _ => .inf false
  | .fin _ m e => .fin false m e

/-- The exact product, with the special cases of R140. -/
def Num.mul : Num → Num → Num
  | .nan, _ => .nan
  | _, .nan => .nan
  | .inf a, .inf b => .inf (a != b)
  | .inf a, .fin b m _ => if m = 0 then .nan else .inf (a != b)
  | .fin a m _, .inf b => if m = 0 then .nan else .inf (a != b)
  | .fin a m e, .fin b k f => .fin (a != b) (m * k) (e + f)

/-- The signed mantissa of a finite number at a common exponent q not above its own. -/
def Num.atExp (q : Int) : Num → Int
  | .fin n m e => let k : Int := m * 2 ^ (e - q).toNat; if n then -k else k
  | _ => 0

/-- The exponent of a finite number. -/
def Num.exp : Num → Int
  | .fin _ 0 _ => 0
  | .fin _ _ e => e
  | _ => 0

/-- The exact sum of a list (R130): NaN for a NaN term or infinities of both signs; a zero sum is +0 unless every term is -0. -/
def Num.sum (l : List Num) : Num :=
  if l.contains .nan then .nan
  else
    let p := l.contains (.inf false)
    let n := l.contains (.inf true)
    if p && n then .nan else if p then .inf false else if n then .inf true
    else
      let q : Int := l.foldl (fun a x => if x.isZero then a else min a x.exp) 1024
      let s : Int := l.foldl (fun a x => if x.isZero then a else a + x.atExp q) 0
      if s = 0 then .fin (!l.isEmpty && l.all (fun x => x.isZero && x.neg)) 0 0 else .fin (s < 0) s.natAbs q

/-- The sum of integer products as a number: an integer zero is +0 (R129). -/
def Num.intZero (x : Num) : Num := if x.isZero then .fin false 0 0 else x

/-- The exact sum of two numbers under IEEE 754 (R140). -/
def Num.add (a b : Num) : Num := Num.sum [a, b]

/-- x * 2^k exactly. -/
def Num.scale (k : Int) : Num → Num
  | .fin n m e => .fin n m (e + k)
  | x => x

/-- a < b in IEEE order; false with a NaN. -/
def Num.lt (a b : Num) : Bool :=
  match a, b with
  | .nan, _ => false
  | _, .nan => false
  | .inf n, .inf m => n && !m
  | .inf n, .fin .. => n
  | .fin .., .inf m => !m
  | x, y => match Num.sum [x, y.negate] with
    | .fin n m _ => n && m ≠ 0
    | _ => false

/-- Equality in IEEE order (zeros of both signs are equal); false with a NaN. -/
def Num.eqv (a b : Num) : Bool :=
  match a, b with
  | .nan, _ => false
  | _, .nan => false
  | a, b => !a.lt b && !b.lt a

/-- One accumulation step of R130: round_fp32(acc + p). -/
def accStep (acc p : Num) : Num := (acc.add p).r32

/-- The factor of a block exponent byte (Table 4.4): none for a zero block. -/
def blockExp (b : Nat) : Option Int := if b = 0x80 then none else some (sext 8 b)

/-- The block sum with its exponent (R126, R130): a zero block gives +0. -/
def blockTerm (products : List Num) (ex : Option Nat) : Num :=
  match ex with
  | none => Num.sum products
  | some b => match blockExp b with
    | none => .fin false 0 0
    | some k => (Num.sum products).scale k

/-- The accumulator of R130 over blocks in ascending K: each block gives its products and its exponent byte, if any. -/
def accumulate (blocks : List (List Num × Option Nat)) : Num :=
  blocks.foldl (fun acc b => accStep acc (blockTerm b.1 b.2)) (.fin false 0 0)

/-- The scaling equation of R136 before narrowing: t2 = round(round(A * s) * S). -/
def scaled (a s t : Num) : Num := ((a.mul s).r32.mul t).r32

end Sys2Proof.Machine
end

