-- ==== Sys2Proof/Machine/Layout.lean ====
section
/-! DEFINITION. Tensor descriptors and the address of every element (Tensor Layout and Descriptors). -/

namespace Sys2Proof.Machine

/-- A level entry (Table 9.2). -/
structure LevelEntry where
  er : Nat := 1
  ec : Nat := 1
  sr : Nat := 0
  sc : Nat := 0
  deriving DecidableEq, Repr

/-- A tensor descriptor (Table 9.1), read whole as 128 B (R258). -/
structure Desc where
  at_ : Nat := 0
  base : Nat := 0
  space : Nat := 0
  fmtCode : Nat := 0
  coding : Nat := 0
  levels : List LevelEntry := []
  reportOob : Bool := false
  rowZero : Bool := false
  colZero : Bool := false
  rows : Nat := 0
  cols : Nat := 0
  fill : Nat := 0
  deriving DecidableEq, Repr

/-- Level entry l of a descriptor's bytes. -/
def levelAt (b : List Byte) (l : Nat) : LevelEntry :=
  let o := 0x20 + 16 * (l - 1)
  ⟨le b o 2, le b (o + 2) 2, le b (o + 8) 4, le b (o + 12) 4⟩

/-- The descriptor that 128 B hold. -/
def parseDesc (addr : Nat) (b : List Byte) : Desc where
  at_ := addr
  base := le b 0 8 % 2 ^ 52
  space := byteAt b 8 % 4
  fmtCode := byteAt b 9 % 16
  coding := byteAt b 10
  levels := (List.range (byteAt b 11)).map (fun i => levelAt b (i + 1))
  reportOob := bit (byteAt b 12) 0
  rowZero := bit (byteAt b 12) 1
  colZero := bit (byteAt b 12) 2
  rows := le b 0x10 4
  cols := le b 0x14 4
  fill := le b 0x18 4

/-- The format of a descriptor (FP32 where the code is reserved, which BAD_DESC has refused). -/
def Desc.fmt (d : Desc) : Fmt := (fmtOf d.fmtCode).getD .fp32

/-- Columns of an element tile (Table 9.4). -/
def Fmt.tc (f : Fmt) : Nat := if f = .fp32 then 16 else 32

/-- Element size in bytes of the 8, 16 and 32-bit formats. -/
def Fmt.bytes (f : Fmt) : Nat := f.width / 8

/-- Bytes of one column of codes in a sub-byte tile (R261). -/
def Fmt.colBytes (f : Fmt) : Nat := 4 * f.width

/-- Footprint of an element tile, with the reductions of Table 9.5. -/
def Desc.fb (d : Desc) : Nat :=
  let f := d.fmt
  if f.subByte then 32 * (f.colBytes + 1) + 32
  else match d.rowZero, d.colZero with
    | false, false => 32 * f.tc * f.bytes
    | true, false => f.tc * f.bytes
    | false, true => 32 * f.bytes
    | true, true => f.bytes

/-- Element bytes of a tile (Table 9.4, TB). -/
def Fmt.tileBytes (f : Fmt) : Nat := 32 * f.tc * f.width / 8

/-- Product of the extents. -/
def Desc.tileRows (d : Desc) : Nat := d.levels.foldl (fun p l => p * l.er) 1
def Desc.tileCols (d : Desc) : Nat := d.levels.foldl (fun p l => p * l.ec) 1

/-- The highest byte of a PLAIN footprint (R263). -/
def Desc.top (d : Desc) : Nat :=
  d.base + 64 * (d.levels.foldl (fun s l => s + (l.er - 1) * l.sr + (l.ec - 1) * l.sc) 0) + d.fb - 1

/-- A descriptor's bytes are valid for a use (R270): the spaces and codings the use admits, and whether it is written or
accumulated into. The checks on poison and on lying within Core Store are the reader's. -/
def descOk (b : List Byte) (spaces codings : List Nat) (write : Bool) : Bool :=
  let d := parseDesc 0 b
  let n := byteAt b 11
  let f := d.fmt
  le b 0 8 < 2 ^ 52 && byteAt b 8 < 4 && byteAt b 9 < 16 && byteAt b 12 < 8 && le b 13 3 == 0 && le b 0x1C 4 == 0 &&
  le b 0x70 16 == 0 && n ≤ 5 && (List.range 5).all (fun i =>
    if i < n then le b (0x24 + 16 * i) 4 == 0 else le b (0x20 + 16 * i) 16 == 0) &&
  d.space < 3 && (fmtOf d.fmtCode).isSome && d.coding < 2 && spaces.contains d.space && codings.contains d.coding &&
  (d.space ≠ 2 || d.base == 0) && d.levels.all (fun l => 1 ≤ l.er && 1 ≤ l.ec) && d.fill < 2 ^ f.width &&
  !(f.subByte && (d.rowZero || d.colZero)) && d.rows ≤ 32 * d.tileRows && d.cols ≤ f.tc * d.tileCols && d.base % 64 == 0 &&
  (d.coding ≠ 0 || (if d.space = 0 then d.top ≤ 0x5FFFFF else d.top < 2 ^ 52)) &&
  (d.coding ≠ 1 || d.levels.all (fun l => l.sr == 0 && l.sc == 0)) &&
  (!write || (!d.rowZero && !d.colZero && d.levels.all (fun l => (l.er ≤ 1 || l.sr ≠ 0) && (l.ec ≤ 1 || l.sc ≠ 0))))

/-- The tile address of R262 for tile coordinates. -/
def tileAddr : List LevelEntry → Nat → Nat → Nat
  | [], _, _ => 0
  | l :: r, tr, tc => (tr % l.er) * l.sr * 64 + (tc % l.ec) * l.sc * 64 + tileAddr r (tr / l.er) (tc / l.ec)

/-- The address of element (r, c) of a PLAIN tensor in an 8, 16 or 32-bit format (R262, Table 9.5). -/
def Desc.addr (d : Desc) (r c : Nat) : Nat :=
  let f := d.fmt
  d.base + tileAddr d.levels (r / 32) (c / f.tc) +
    (if d.rowZero then 0 else (r % 32) * (if d.colZero then f.bytes else f.tc * f.bytes)) +
    (if d.colZero then 0 else (c % f.tc) * f.bytes)

/-- The address of the block (R261) that holds element (r, c) of a sub-byte PLAIN tensor; its exponent byte follows the codes. -/
def Desc.blockAddr (d : Desc) (r c : Nat) : Nat :=
  d.base + tileAddr d.levels (r / 32) (c / 32) + (c % 32) * (d.fmt.colBytes + 1)

/-- In bounds (R263). -/
def Desc.inBounds (d : Desc) (r c : Nat) : Bool := r < d.rows && c < d.cols

/-- The element of a tile of a PLAIN tensor that holds byte a, if one does: the tile is that of element (r0, c0) (R261, R262). -/
def Desc.elemAt (d : Desc) (r0 c0 a : Nat) : Option (Nat × Nat) :=
  let f := d.fmt
  let b := d.base + tileAddr d.levels (r0 / 32) (c0 / f.tc)
  if b ≤ a && a < b + f.tileBytes then
    some (r0 / 32 * 32 + (a - b) / (f.tc * f.bytes), c0 / f.tc * f.tc + (a - b) % (f.tc * f.bytes) / f.bytes)
  else none

/-- Byte a lies in an in-bounds element of a region of rows and columns, each (first, count), that `done` picks: what an op that writes
through the descriptor has written before (R266). -/
def Desc.wrote (d : Desc) (rows cols : Nat × Nat) (done : Nat → Nat → Bool) (a : Nat) : Bool :=
  (List.range (cdiv rows.2 32 + 1)).any (fun i => (List.range (cdiv cols.2 d.fmt.tc + 1)).any (fun j =>
    match d.elemAt (rows.1 + 32 * i) (cols.1 + d.fmt.tc * j) a with
    | some (r, c) => d.inBounds r c && (rows.1 ≤ r && (r < rows.1 + rows.2 && (cols.1 ≤ c && (c < cols.1 + cols.2 && done r c))))
    | none => false))

/-- The digits of tile coordinates, level L first: the key of tile-digit order (R269). -/
def tileIndex : List LevelEntry → Nat → Nat → Nat
  | [], _, _ => 0
  | l :: r, tr, tc =>
    let inner := (tr % l.er) * l.ec + tc % l.ec
    inner + l.er * l.ec * tileIndex r (tr / l.er) (tc / l.ec)

/-- The number of element tiles of a footprint. -/
def Desc.tiles (d : Desc) : Nat := d.tileRows * d.tileCols

/-- Element bytes of the whole stream of a coded tensor (R269). -/
def Desc.elementBytes (d : Desc) : Nat := d.tiles * d.fmt.tileBytes

end Sys2Proof.Machine
end

