-- ==== Sys2Proof/Machine/EngState.lean ====
section
/-! DEFINITION. State of the Matrix Engine, the Matrix-Vector Path, the Expander, the DMA engine and the core sequencer (Matrix
Engine; Matrix-Vector Path and Product Tables; Delta Compression and the Expander; Commands, Task Programs and Sync Objects). -/

namespace Sys2Proof.Machine

/-- An op in an engine queue: its number among the core's ops, its 32 B as a little-endian number (R12), its virtual address,
who issued it and in which address space. -/
structure QOp where
  id : Nat := 0
  op : Nat := 0
  va : Nat := 0
  own : Owner := {}
  as : Nat := 0
  deriving DecidableEq, Repr

/-- The engines that take ops, as the engine mask of R351 numbers them. -/
inductive Eng where
  | me | mv | ve | ge | dma | xp
  deriving DecidableEq, Repr

/-- An op issued and not completed. -/
structure Outst where
  id : Nat := 0
  eng : Eng := .me
  own : Owner := {}
  deriving DecidableEq, Repr

/-- A sub-array of a weight set as loaded (R164): the ME_LOAD that filled it (the load record of R178), extents, weight format,
weights by channel then K (kept weights when sparse), exponent bytes by channel then block, sparse positions, poison. -/
structure SubArr where
  load : QOp := {}
  k : Nat := 0
  n : Nat := 0
  wfmt : Nat := 0
  w : List (List Nat) := []
  ex : List (List Nat) := []
  pos : List (List Nat) := []
  poison : Bool := false
  deriving DecidableEq, Repr

/-- A weight set (R151, R153): shape (unset when none), sparse bit, valid sub-arrays by number. -/
structure MeSet where
  shape : Option Nat := none
  sparse : Bool := false
  subs : Sparse (Option SubArr) := []
  deriving DecidableEq, Repr

/-- A member of an issuing or draining group (R154, R161): the op, the sub-array it uses, latched scale registers (FP32 bits,
poison), the two descriptors, rows still to write from `row`, rows below `out` issued or skipped (R159), ordinal of its tile. -/
structure MeMember where
  op : QOp := {}
  sub : SubArr := {}
  sparse : Bool := false
  scales : List (Nat × Bool) := []
  adesc : Desc := {}
  odesc : Desc := {}
  row : Nat := 0
  out : Nat := 0
  tile : Nat := 0
  wrotePoison : Bool := false
  special : Option (Nat × Nat × Nat) := none
  dropped : Option (Nat × Nat) := none
  deriving DecidableEq, Repr

/-- An ME_LOAD that has started: its op, the descriptor as read, the kept positions of sparse weights by channel, their poison. -/
structure MeLoadRun where
  op : QOp := {}
  desc : Desc := {}
  pos : List (List Nat) := []
  poison : Bool := false
  deriving DecidableEq, Repr

/-- The Matrix Engine. level and held: the current level and the cycles it has been held (R170 to R173); gap: the gap cycle count;
period: the period p of the newest group (R159); tile: ordinal of the next output tile of the task; issues: ME ops issued so far; reload: the load record that the sets are to be rebuilt
from before the next ME op (R178). -/
structure Me where
  queue : List QOp := []
  started : List MeLoadRun := []
  active : MeSet := {}
  shadow : MeSet := {}
  groups : List (List MeMember) := []
  level : Nat := 0
  held : Nat := 0
  gap : Nat := 0
  period : Nat := 1
  tile : Nat := 0
  scalePoison : NatSet := []
  issues : Nat := 0
  reload : Option (MeSet × MeSet) := none
  deriving DecidableEq, Repr

/-- An MV_MM in progress (R184, R189, R191): the op, latched scale registers and level set, descriptors; built: chunks whose tables have been
built; banks: of those, the activations of the chunks not looked up yet, by row and element (format bits, poison), at most two; looked: chunks
looked up; acc: the accumulators so far by row and channel, with poison. -/
structure MvRun where
  op : QOp := {}
  scales : List (Nat × Bool) := []
  levels : List Nat := []
  levelPoison : Bool := false
  adesc : Desc := {}
  odesc : Desc := {}
  wdesc : Desc := {}
  built : Nat := 0
  banks : List (List (List (Nat × Bool))) := []
  looked : Nat := 0
  acc : List (List (Num × Bool)) := []
  deriving DecidableEq, Repr

/-- The Matrix-Vector Path. run: the op that builds and looks up; drain: the op before it, whose outputs drain from the other accumulator bank
(R190). -/
structure Mv where
  queue : List QOp := []
  run : Option MvRun := none
  drain : Option MvRun := none
  tile : Nat := 0
  scalePoison : NatSet := []
  deriving DecidableEq, Repr

/-- A decode table slot (R242, R243): the image as loaded, its version, the reference count and the mirror object. -/
structure XpSlot where
  image : List Byte := []
  version : Nat := 0
  valid : Bool := false
  refs : Nat := 0
  mirror : Bool := false
  refSync : Nat := 0
  deriving DecidableEq, Repr

/-- A stream header as read (Table 8.1). -/
structure StreamHdr where
  wfmt : Nat := 0
  delta : Bool := false
  blocks : Nat := 0
  elementBytes : Nat := 0
  index : Nat := 0
  base : Nat := 0
  origin : Nat := 0
  deriving DecidableEq, Repr

/-- A block read ahead (R249): number, coding, slot, payload, exponent bytes, poison; at_: the address of its header; blind: a header or index
entry of it was read poisoned, so that its coding is not known; base: its base block's coding, slot, payload, exponent bytes and header
address. -/
structure XpBlock where
  num : Nat := 0
  coding : Nat := 1
  slot : Nat := 0
  span : Nat := 0
  payload : List Byte := []
  exps : List Byte := []
  poison : Bool := false
  refs : List Nat := []
  at_ : Nat := 0
  blind : Bool := false
  base : Option (Nat × Nat × List Byte × List Byte × Nat) := none
  deriving DecidableEq, Repr

/-- A decoded block as delivered: number, span bytes, exponent bytes, poison. -/
structure XpOut where
  num : Nat := 0
  bytes : List Byte := []
  exps : List Byte := []
  poison : Bool := false
  deriving DecidableEq, Repr

/-- The stream of one client (R249): the op and its weight descriptor (its space 0 is Core Store, 1 virtual, 2 the landing ring), the MSC
hint of reads, the headers once read, blocks still to read, blocks read ahead, blocks delivered. -/
structure XpSess where
  op : QOp := {}
  desc : Desc := {}
  hint : Nat := 0
  hdr : Option StreamHdr := none
  baseHdr : Option StreamHdr := none
  todo : List Nat := []
  ahead : List XpBlock := []
  out : List XpOut := []
  poisoned : Bool := false
  deriving DecidableEq, Repr

/-- The Expander. cur: the client whose block it decodes (true: the ME), none while it is idle (R250). -/
structure Xp where
  queue : List QOp := []
  slots : List XpSlot := List.replicate 16 {}
  me : Option XpSess := none
  mv : Option XpSess := none
  cur : Option Bool := none
  deriving DecidableEq, Repr

/-- A relay transfer at this core (R357): the core and op that send it, the bytes that have come and not landed, how many units of 64 B
are still to land here, the cores of the run that follow this one. -/
structure Landing where
  src : Nat := 0
  id : Nat := 0
  data : List PByte := []
  left : Nat := 0
  next : List Nat := []
  deriving DecidableEq, Repr

/-- The progress of a DMA op that has started (R355 to R357, R378): the op's number; the descriptors of a DMA_TENSOR as read at its start (R258);
pos: source bytes (elements for a DMA_TENSOR) issued; moving: a unit of 4 KiB has begun and waits for a read or a translation; issued: all bytes
have been issued; aborted: ABORT has ended an access of it; relay: the cores at which a transfer is still to land. -/
structure DmaRun where
  id : Nat := 0
  descs : Option (Desc × Desc) := none
  pos : Nat := 0
  moving : Bool := false
  issued : Bool := false
  aborted : Bool := false
  relay : List Nat := []
  deriving DecidableEq, Repr

/-- The DMA engine: its queue, and the progress of the ops in it that have started. -/
structure Dma where
  queue : List QOp := []
  runs : List DmaRun := []
  deriving DecidableEq, Repr

/-- A deferred SIGNAL (R351): it acts once no op of the masked engines with a number below `before` is outstanding. -/
structure Deferred where
  own : Owner := {}
  set : Bool := false
  mask : Nat := 0
  sync : Nat := 0
  operand : Nat := 0
  before : Nat := 0
  deriving DecidableEq, Repr

/-- What the sequencer waits for. -/
inductive SqWait where
  | none
  | sync (obj : Nat) (eq : Bool) (v : Nat)
  | fence (mask : Nat) (before : Nat)
  deriving DecidableEq, Repr

/-- The sequencer waits on a sync object (WAIT). -/
def SqWait.isSync : SqWait → Bool
  | .sync _ _ _ => true
  | _ => false

/-- The core sequencer: the running task, the burst of ops fetched for it as (address, op, poison), what it waits for, its
deferred SIGNALs, the number of the next op, and whether a preemption has stopped issue (R378). -/
structure Seq where
  task : Option Task := none
  buf : List (Nat × Nat) := []
  stopping : Bool := false
  wait : SqWait := .none
  deferred : List Deferred := []
  nextId : Nat := 0
  outst : List Outst := []
  deriving DecidableEq, Repr

end Sys2Proof.Machine
end

