-- ==== Sys2Proof/Machine/NetState.lean ====
section
/-! DEFINITION. State of the Vector Engine, the Gather Engine and the Row Directory Cache, the fabric ports and the twin port, and the
host port (Vector Engine and Fused Chains; Embedding Tables, Baskets and Owner Pooling; Maelsol Fabric and Twinned Pairs; Eokeska
Link and the Host Adapter). -/

namespace Sys2Proof.Machine

/-- A task's open merge tile (R228): elements written so far, the first special one (position, kind). -/
structure MergeTile where
  own : Owner := {}
  n : Nat := 0
  special : Option (Nat × Nat) := none
  deriving DecidableEq, Repr

/-- The Vector Engine (R202, R204, R217, R229). regs: the word of register t, row r, column c at 1024 * t + 32 * r + c;
regPoison: poisoned rows at 32 * t + r; tile: ordinal of the next output tile of the task; merges: the open merge tiles, by task; running: the op at the head has started; turn: the
cycles of delivery passes since an op ended or the ring was empty (R226). -/
structure Ve where
  queue : List QOp := []
  regs : Sparse Nat := []
  regPoison : NatSet := []
  live : Nat := 0
  tile : Nat := 0
  merges : List MergeTile := []
  running : Bool := false
  turn : Nat := 0
  deriving DecidableEq, Repr

/-! ### Gather Engine -/

/-- A basket as other cores and modules name it: coordinate of the requesting module, its core, the basket's number there. -/
structure BasketRef where
  coord : Nat := 0
  core : Nat := 0
  num : Nat := 0
  deriving DecidableEq, Repr

/-- A reference group (R93): row, bag, references, FP32 weight sum, entry positions for unpooled rows, poison of its entries. -/
structure Group where
  table : Nat := 0
  index : Nat := 0
  sample : Nat := 0
  bag : Nat := 0
  refs : Nat := 0
  wsum : Nat := 0
  pos : List Nat := []
  poison : Bool := false
  deriving DecidableEq, Repr

/-- What an index list or a forward carries besides its groups: basket, address space, facet, mode, reference mode, MSC hint, pool
chain number, epochs bound by table, whether it is a forward (with its number and the core that waits for its acknowledgement). -/
structure ListHdr where
  bk : BasketRef := {}
  as : Nat := 0
  facet : Nat := 0
  unpooled : Bool := false
  refMode : Nat := 0
  hint : Nat := 0
  pool : Nat := 0
  epochs : List (Nat × Nat) := []
  fwd : Option (Nat × BasketRef) := none
  deriving DecidableEq, Repr

/-- Table 3.8: a delivery record. -/
structure Rec where
  sample : Nat := 0
  bag : Nat := 0
  count : Nat := 0
  wsum : Nat := 0
  kind : Nat := 1
  flags : Nat := 0
  data : List Byte := []
  deriving DecidableEq, Repr

/-- A record in a core's delivery ring: of an inbound list (by its number) or of a basket of this core; where it begins in the ring and the bytes of its
data. Its own bytes stand in Core Store. -/
structure RingRec where
  ofList : Bool := true
  num : Nat := 0
  pos : Nat := 0
  len : Nat := 0
  deriving DecidableEq, Repr

/-- A row that a forward carries: its groups with the shard and slot that hold it. -/
structure FwdRow where
  table : Nat := 0
  epoch : Nat := 0
  index : Nat := 0
  shard : Nat := 0
  slot : Nat := 0
  groups : List Group := []
  deriving DecidableEq, Repr

/-- A put or move on its way to, or at, the home owner (R108, R113): its number there, its op, who is to be answered. phase 0 queued,
1 writing the row, 2 swapped. before: rounds with a smaller number must end first. acked: what came of the row's write, once known. -/
structure PutJob where
  id : Nat := 0
  op : Nat := 0
  origin : BasketRef := {}
  mirrored : Bool := false
  as : Nat := 0
  table : Nat := 0
  epoch : Nat := 0
  index : Nat := 0
  shard : Nat := 0
  slot : Nat := 0
  data : List Byte := []
  phase : Nat := 0
  old : Nat := 0
  before : Nat := 0
  acked : Option Bool := none
  /-- Its put data were read poisoned. -/
  poison : Bool := false
  deriving DecidableEq, Repr

/-- A message between Gather Engines, of one module over the mesh or of two over the fabric. error, code, err: the code of Table 14.4 of an error response, 0
where it is none; poison of a row: of each 64 B of it (R397). -/
inductive GeMsg where
  | list (h : ListHdr) (groups : List Group) (last : Bool)
  | forward (h : ListHdr) (rows : List FwdRow)
  | forwardAck (rcv : BasketRef) (num : Nat) (error : Nat) (counts : List Nat)
  | listError (bk : BasketRef) (owner ownerCore code : Nat)
  | partialRec (bk : BasketRef) (r : Rec)
  | flagged (bk : BasketRef) (r : Rec)
  | listEnd (bk : BasketRef) (owner ownerCore : Nat) (counts : List Nat)
  | row (bk : BasketRef) (bags : NatSet) (pos : List Nat) (data : List Byte) (poison : List Bool)
  | put (j : PutJob)
  | putDone (rcv : BasketRef) (old status : Nat) (abort : Bool) (err : Nat)
  | rowData (src : BasketRef) (as table epoch shard slot : Nat) (data : List Byte)
  | rowAck (rcv : BasketRef) (err : Nat)
  deriving DecidableEq, Repr

/-- A message held for a core, with the port on which it came (none: the mesh). -/
structure InMsg where
  port : Option Nat := none
  m : GeMsg
  deriving DecidableEq, Repr

/-- A distinct row of a round: where it lies, its groups not yet delivered, its row entry read poisoned, the row once fetched. -/
structure RowWork where
  table : Nat := 0
  epoch : Nat := 0
  index : Nat := 0
  shard : Nat := 0
  slot : Nat := 0
  va : Nat := 0
  width : Nat := 0
  poison : Bool := false
  groups : List Group := []
  got : Option (List (Byte × Bool)) := none
  deriving DecidableEq, Repr

/-- A bag's accumulator in GE_ACC (R99, R223): count, flags, FP32 elements. -/
structure Acc where
  sample : Nat := 0
  bag : Nat := 0
  count : Nat := 0
  wsum : Nat := 0
  flags : Nat := 0
  elems : List Nat := []
  deriving DecidableEq, Repr

/-- An inbound index list (R95 to R102). todo: groups not yet in a round; fwdRows: rows of a forward not yet in a round; rows: rows
of the round still to fetch; fwds: forwards of the round not acknowledged; round: number of the running round; counts: distinct
fetches, rounds, forwards, absent rows; stats: per (table, epoch, shard) references, fetches, bytes, forwards of
the round; chain: the pool chain as read (bytes, poisoned); lost: what cannot be served, by (sample, bag), with flags and references (R102); dead: the owner
refuses the whole list. -/
structure InList where
  num : Nat := 0
  port : Option Nat := none
  h : ListHdr := {}
  todo : List Group := []
  fwdRows : List FwdRow := []
  ended : Bool := false
  round : Option Nat := none
  rows : List RowWork := []
  fwds : List (Nat × List FwdRow) := []
  counts : List Nat := [0, 0, 0, 0]
  stats : List (Nat × Nat × Nat × List Nat) := []
  chain : Option (List Byte × Bool) := none
  accs : List Acc := []
  lost : List (Nat × Nat × Nat × Nat) := []
  dead : Bool := false
  deriving DecidableEq, Repr

/-- A version record (Table 3.2). -/
structure Ver where
  rowUnits : Nat := 0
  shards : Nat := 1
  rows : Nat := 1
  epoch : Nat := 0
  map : Nat := 0
  base : Nat := 0
  dir : Nat := 0
  deriving DecidableEq, Repr

/-- What the intake of a basket has read (R93): the entries' bytes so far, how many entries have been handled, the bound tables met (epoch, version slot with
its record, registry entry read poisoned), the groups of each owner's open packet (newest last), the owners to whom nothing can be sent, what could not be sent,
by owner (none: no owner is known) and flag, whether the last entry's group may take the next one, and the owner of that group. -/
structure Reading where
  bytes : List PByte := []
  n : Nat := 0
  vers : List (Nat × Nat × Option (Nat × Ver) × Bool) := []
  packets : List ((Nat × Nat) × List Group) := []
  cut : List (Nat × Nat) := []
  lost : List (Option (Nat × Nat) × Nat × List Group) := []
  last : Option (Option (Nat × Nat) × Nat × Group) := none
  deriving DecidableEq, Repr

/-- A basket outstanding at its requester (R92 to R103). reading: its intake, while entries are left. open_: owners (module, core) whose list-end is
due, with the bags of their lists; counts: the report's fields from entries_read to forwards; the sets hold bags as sample * 1024 + bag; first: bags that
have received a partial. -/
structure Basket where
  num : Nat := 0
  op : QOp := {}
  facet : Nat := 0
  open_ : List (Nat × Nat × NatSet) := []
  counts : List Nat := [0, 0, 0, 0, 0, 0, 0, 0, 0]
  poisonBags : NatSet := []
  epochMiss : NatSet := []
  chainMissing : NatSet := []
  ownerError : NatSet := []
  satBags : NatSet := []
  truncated : Nat := 0
  zeroed : Bool := false
  first : NatSet := []
  chain : Option (List Byte × Bool) := none
  reading : Option Reading := none
  deriving DecidableEq, Repr

/-- A maintenance op in flight at its requesting core (R94): waiting for the home owner's answer, or holding it; the put record as read. mirror:
the number of the mirror record that it applies (R409). -/
structure Maint where
  op : QOp := {}
  facet : Nat := 0
  mirror : Option Nat := none
  putRec : List Byte := []
  answer : Option (Nat × Nat) := none
  deriving DecidableEq, Repr

/-- The Gather Engine. ringPos: where the next record of the delivery ring begins; nextList, nextRound, nextFwd: numbers of the next inbound list, round
and forward. -/
structure Ge where
  queue : List QOp := []
  baskets : List Basket := []
  maint : List Maint := []
  inbox : List InMsg := []
  lists : List InList := []
  ring : List RingRec := []
  ringPos : Nat := 0
  puts : List PutJob := []
  nextList : Nat := 0
  nextRound : Nat := 0
  nextFwd : Nat := 0
  deriving DecidableEq, Repr

/-- An entry of the Row Directory Cache (R88): address space, table, version slot (0 A, 1 B), entry kind (0 shard, 1 row), key. The
cache lists its entries newest use first. -/
structure RdEntry where
  as : Nat := 0
  table : Nat := 0
  slot : Nat := 0
  kind : Nat := 0
  key : Nat := 0
  value : Nat := 0
  facet : Nat := 0
  deriving DecidableEq, Repr

/-- What the module keeps of a RETIRING version beside its registry entry (R104, R105): the sync object of the cutover and of the
latest release. -/
structure Retiring where
  as : Nat := 0
  table : Nat := 0
  epoch : Nat := 0
  facet : Nat := 0
  sync : Option Nat := none
  keepOld : Bool := false
  release : Option Nat := none
  deriving DecidableEq, Repr

/-! ### Fabric and twin -/

/-- A port's state (Table 14.1). -/
inductive PortState where
  | disabled | training | up | mismatch | down
  deriving DecidableEq, Repr

/-- A remote-window access at its target or its answer (R327, R328, R398). id: the requester's number. -/
inductive RemoteBody where
  | read (id imp off len facet : Nat)
  | write (id imp off : Nat) (mask : List Bool) (data : List Byte) (poison : List Bool) (facet : Nat)
  | readData (id : Nat) (data : List Byte) (poison : List Bool)
  | writeAck (id : Nat)
  | error (id code : Nat)
  deriving DecidableEq, Repr

/-- What the members of a twinned pair tell each other (R406, R409): a heartbeat with its count and the last applied numbers by facet; a mirror record packet
with facet, number, offset, total length and bytes (a restart record has total length 0, R411); an acknowledgement with facet, number and status. -/
inductive TwinMsg where
  | heartbeat (count : Nat) (applied : List Nat)
  | record (facet seq off total : Nat) (bytes : List Byte) (poison : Bool)
  | ack (facet seq status : Nat)
  deriving DecidableEq, Repr

/-- What a packet carries (Table 14.3). geLead: the first bytes of a message of the Gather Engine that takes more than one packet; the last of its packets
is `ge`. -/
inductive PktBody where
  | ge (rcv : Nat) (m : GeMsg)
  | geLead (rcv : Nat) (m : GeMsg)
  | remote (b : RemoteBody)
  | twin (m : TwinMsg)
  deriving DecidableEq, Repr

/-- A traffic class (R397). -/
inductive PktClass where
  | request | response | bulk | control
  deriving DecidableEq, Repr

/-- A packet (R397): coordinates x in [11:8], y in [7:4], z in [3:0]; class, virtual channel, age, flits, body. -/
structure Pkt where
  dst : Nat := 0
  src : Nat := 0
  cls : PktClass := .request
  vc : Nat := 0
  age : Nat := 0
  flits : Nat := 1
  body : PktBody
  deriving DecidableEq, Repr

/-- A fabric port: its state; lanes trained and the identity flit sent; flight: the packets sent on it for which the next router has not yet returned all
credits, oldest first, with the flits still without one (R399). -/
structure Port where
  state : PortState := .disabled
  trained : Bool := false
  flight : List (Pkt × Nat) := []
  deriving DecidableEq, Repr

/-- A packet that waits in the router (R399, R400): the input at which it stands (a port, or 7 for the mesh), for one of the mesh the port on which it leaves,
and the local time at which it came. -/
structure Waiting where
  inp : Nat := 7
  out : Nat := 0
  since : Nat := 0
  pkt : Pkt
  deriving DecidableEq, Repr

/-- A record of the mirror ring (R408): its number, where it begins in the ring, its bytes. -/
structure MirrorRec where
  seq : Nat := 0
  pos : Nat := 0
  room : Nat := 64
  deriving DecidableEq, Repr

/-- A mirror record that has come from the partner (R409): number, address space, op descriptor, data, poison. -/
structure MirrorOp where
  seq : Nat := 0
  as : Nat := 0
  op : Nat := 0
  data : List Byte := []
  poison : Bool := false
  deriving DecidableEq, Repr

/-- A facet's mirror (R407 to R412). recs: unacknowledged records, oldest first; sent: the last number sent, with the bytes of the
next record already sent; pos: where the next record begins in the ring; restarted: a restart record has been sent since PAIRED was entered, before the first
heartbeat; parts: the record being reassembled (number, total, bytes, poison). state 0 OFF, 1 RUNNING, 2 STOPPED. -/
structure Mirror where
  state : Nat := 0
  cause : Nat := 0
  next : Nat := 1
  acked : Nat := 0
  applied : Nat := 0
  divSeq : Nat := 0
  divStatus : Nat := 0
  lost : Nat := 0
  recs : List MirrorRec := []
  sent : Nat := 0
  sentBytes : Nat := 0
  pos : Nat := 0
  restartDue : Bool := false
  restarted : Bool := false
  parts : Option (Nat × Nat × List Byte × Bool) := none
  ready : List MirrorOp := []
  deriving DecidableEq, Repr

/-- The twin (R405, R406). state as TW_STATUS: 0 UNPAIRED, 1 SEEKING, 2 PAIRED, 3 LOST, 4 MISMATCH. heard: a heartbeat has come
since PAIRED was entered; lastHb: local time of the last one received; challenge: what the partner is asked to sign while T trains. -/
structure Twin where
  state : Nat := 0
  cause : Nat := 0
  hbCount : Nat := 0
  heard : Bool := false
  lastHb : Option Nat := none
  challenge : List Byte := []
  mirrors : List Mirror := List.replicate 16 {}
  deriving DecidableEq, Repr

/-- An access of a core's requester that left the module (R322, R324, R327): who (4 * core + engine), address space, granule virtual
address, whether it is a write, whose op it serves, and for a read the answer. -/
structure ExtAccess where
  id : Nat := 0
  who : Nat := 0
  as : Nat := 0
  va : Nat := 0
  host : Bool := true
  write : Bool := false
  own : Option Owner := none
  addr : Nat := 0
  len : Nat := 64
  answer : Option (List PByte) := none
  deriving DecidableEq, Repr

/-- The host port (R428 to R434). state 0 DETACHED, 1 ATTACHING, 2 ATTACHED. flush: identity of the last write covered by the flush
read in flight; pend: pending interrupt sources; failed: commands (channel, first slot) with a failed flush or remote write. -/
structure HostPort where
  state : Nat := 0
  fn : Nat := 0
  echo : Nat := 0
  session : Nat := 0
  eklUp : Bool := false
  pcieUp : Bool := false
  armed : Bool := false
  pend : NatSet := []
  nextId : Nat := 0
  ext : List ExtAccess := []
  flush : Option Nat := none
  flushedTo : Nat := 0
  failed : List (Nat × Nat) := []
  deriving DecidableEq, Repr

/-! ### Cores -/

/-- A saved task of a core (R378 to R382): the task, its registers, the ops withdrawn from each queue, its deferred SIGNALs, what it
waits for, the cores at which its stopped relay transfer is still to land, the load record of the ME (R178). Its ops that are
outstanding stay in the sequencer's list. -/
structure Saved where
  level : Nat := 0
  task : Task := {}
  live : Nat := 0
  regs : Sparse Nat := []
  regPoison : NatSet := []
  ops : List (Eng × QOp) := []
  deferred : List Deferred := []
  wait : SqWait := .none
  dma : List DmaRun := []
  meActive : MeSet := {}
  meShadow : MeSet := {}
  meIssues : Nat := 0
  meStale : Bool := false
  meTile : Nat := 0
  mvTile : Nat := 0
  veTile : Nat := 0
  deriving DecidableEq, Repr

/-- A logical core: Core Store with its poisoned 64 B granules, engines, TLB (most recent use first), landing ring positions (R359, in 64 B units),
saved tasks, quarantine. -/
structure Core where
  store : Memory := []
  poison : NatSet := []
  seq : Seq := {}
  me : Me := {}
  mv : Mv := {}
  ve : Ve := {}
  xp : Xp := {}
  ge : Ge := {}
  dma : Dma := {}
  tlb : List TlbEntry := []
  arrived : Nat := 0
  readPos : Nat := 0
  freed : Nat := 0
  landing : List Landing := []
  saved : List Saved := []
  quar : Quar := {}
  deriving DecidableEq, Repr

/-! ### What leaves the module -/

/-- What the host, a peer or the twin partner sees leave the module. -/
inductive Out where
  /-- A posted write to a host address (R423), with its EP bit (R510) and Relaxed Ordering. -/
  | hostWrite (id : Nat) (addr : Nat) (data : List Byte) (ep relaxed : Bool)
  /-- A read request to a host address. -/
  | hostRead (id : Nat) (addr : Nat) (len : Nat)
  /-- A zero-length flush read (R420). -/
  | flushRead (id : Nat)
  /-- An MSI-X message of an interrupt source (R434). -/
  | msix (source : Nat) (fn : Nat) (vector : Nat)
  /-- A packet sent on a port. -/
  | packet (port : Nat) (p : Pkt)
  /-- An identity flit sent on a port (R391). -/
  | identity (port coord : Nat) (dim dateline : List Nat)
  /-- Credits returned to the router that sends on a port, for a class and virtual channel (R399). -/
  | credit (port : Nat) (cls : PktClass) (vc flits : Nat)
  /-- What this module sends on T to be paired (R405): its TWIN values, its public key, a fresh challenge. -/
  | pairing (pairId role period lossCount : Nat) (key challenge : List Byte)
  /-- The signature of the partner's challenge (R405). -/
  | pairingSig (sig : List Byte)
  deriving DecidableEq, Repr

end Sys2Proof.Machine
end

