-- ==== Sys2Proof/Machine/Operands.lean ====
section
/-! DEFINITION. The operands of the commands and events: what an event brings with it from outside the block. -/

namespace Sys2Proof.Machine

/-- Idle cycles of an engine op, by cause, as the engine's gap and idle counters take them (R192, R222). both: the cycles of xp in which the ME
counted ME_GAP_XP too (R251). -/
structure Gaps where
  port : Nat := 0
  xp : Nat := 0
  governor : Nat := 0
  both : Nat := 0
  idle : Nat := 0
  deriving DecidableEq, Repr

/-- A client of the Expander (R249). -/
inductive XpClient where
  | me | mv
  deriving DecidableEq, Repr

/-- A turn of the Expander as an event brings it: its client, and the MVP's gap cycles since they were last counted. -/
structure XpAsk where
  client : XpClient
  gaps : Gaps := {}
  deriving DecidableEq, Repr

/-- An MSC hint (Table 10.2). -/
inductive Hint where
  | stream | keep | last
  deriving DecidableEq, Repr

/-- A class of point-path request (R279). -/
inductive PointClass where
  | walk | directory | row
  deriving DecidableEq, Repr

/-- The translating requesters of a core (R303): sequencer, DMA engine, Gather Engine, Expander. -/
inductive TrEngine where
  | sq | dma | ge | xp
  deriving DecidableEq, Repr

/-- Who misses its TLB, and in which address space (R303, R296). -/
structure Requester where
  eng : TrEngine
  as : Fin 1024 := 0
  deriving DecidableEq, Repr

/-- The host function that sends a request, and the PCI Express requester ID that the request carries (R427). -/
structure HostId where
  fn : Fin 16
  rid : BitVec 16 := 0
  deriving DecidableEq, Repr

/-- How a read asks for its granule: with the protected attribute or not (R486); and what error correction says of the line's words (R287). -/
structure ReadHow where
  prot : Bool := false
  ecc : Ecc := .clean
  deriving DecidableEq, Repr

/-- What the EHA4 answers to a read of host memory: bytes with the EP bit, or a failure (R419, R510). -/
inductive HostData where
  | data (bytes : List Byte) (ep : Bool)
  | failed
  deriving DecidableEq, Repr

/-- An identity flit (R391): coordinate, dimensions, datelines (x, y, z), number of the sending port. -/
structure Identity where
  coord : Nat := 0
  dim : List Nat := [1, 1, 1]
  dateline : List Nat := [0, 0, 0]
  port : Nat := 0
  deriving DecidableEq, Repr

/-- What the twin partner sends for pairing (R405): its TWIN values, its public key, its own challenge to this module, and its signature of this module's
challenge. -/
structure TwinIdentity where
  pairId : Nat := 0
  role : Nat := 0
  period : Nat := 0
  lossCount : Nat := 0
  key : List Byte := []
  challenge : List Byte := []
  sig : List Byte := []
  deriving DecidableEq, Repr

/-- A mirror record packet (R409): facet, number, byte offset of the part, total length, the part's bytes and their poison. A restart record
(R411) has total length 0. -/
structure MirrorPart where
  facet : Nat := 0
  seq : Nat := 0
  off : Nat := 0
  total : Nat := 0
  bytes : List Byte := []
  poison : Bool := false
  deriving DecidableEq, Repr

/-- A packet at a port (R397). -/
abbrev Packet := Pkt

/-- A hardware trip cause (Table 19.2). -/
inductive TripCause where
  | thermal | overPower | overCurrent
  | railFault (rail : Fin 6)
  deriving DecidableEq, Repr

/-- A governor sample (R493): mean input power in mW, voltage in mV and current in mA, activity estimate of each facet in mW. -/
structure PowerSample where
  power : Nat := 0
  vin : Nat := 0
  iin : Nat := 0
  estimate : List Nat := []
  tj : BitVec 8 := 0
  tcase : BitVec 8 := 0
  deriving DecidableEq, Repr

/-- The number of a hint in op fields (0 STREAM, 1 KEEP, 2 LAST). -/
def Hint.num : Hint → Nat
  | .stream => 0
  | .keep => 1
  | .last => 2

/-- The number of a point class: 0 walk, 1 Row Directory, 2 row. -/
def PointClass.num : PointClass → Nat
  | .walk => 0
  | .directory => 1
  | .row => 2

/-- The number of a translating requester within its core. -/
def TrEngine.num : TrEngine → Nat
  | .sq => 0
  | .dma => 1
  | .ge => 2
  | .xp => 3

/-- The code of a trip cause (Table 19.2). -/
def TripCause.code : TripCause → Nat
  | .thermal => 1
  | .overPower => 2
  | .overCurrent => 3
  | .railFault _ => 4

end Sys2Proof.Machine
end

