-- ==== Sys2Proof/Syntax.lean ====
section
/-! DEFINITION. The commands and events of the block: one constructor per row of the table of operations and events, with what the
command carries. `fn` is the host function that sends a control window access, `who` the function with its requester ID; `core`, `ch`, `f` name a logical core, a channel, a
facet. -/

open Sys2Proof.Machine

namespace Sys2Proof

/-- A command or event. -/
inductive Instr where
  /-- REGISTER_WRITE (R39). -/
  | registerWrite (who : HostId) (off : Nat) (width : Nat) (val : BitVec 64)
  /-- LATCHED_HALF_READ (R28). -/
  | latchedHalfRead (fn : Fin 16) (off : Nat)
  /-- RC_FIELD_READ (R44). -/
  | rcFieldRead (fn : Fin 16) (off : Nat)
  /-- SYNC_OBJECT_WRITE (R36). -/
  | syncObjectWrite (fn : Fin 16) (obj : Fin 131072) (val : BitVec 64)
  /-- LOAD (R69). -/
  | load (fn : Fin 16) (val : Word)
  /-- TM_IMAGE_READ_DONE (R69). -/
  | tmImageReadDone (ok : Bool) (image : List Byte)
  /-- TM_CHECKS_END (R71). -/
  | tmChecksEnd
  /-- TM_FLASH_WRITE_DONE (R68). -/
  | tmFlashWriteDone (ok : Bool)
  /-- TM_APPLY_DONE (R79). -/
  | tmApplyDone
  /-- BOOT_TRAIL_MAP_LOAD (R68). -/
  | bootTrailMapLoad
  /-- FACET_DRAIN (R73). -/
  | facetDrain (fn : Fin 16) (bits : BitVec 16)
  /-- FACET_RESUME (R73). -/
  | facetResume (fn : Fin 16) (bits : BitVec 16)
  /-- DRAINED (R74). -/
  | drained (f : Fin 16)
  /-- GE_BASKET (R91). -/
  | geBasket (core : Fin 128)
  /-- BASKET_START (R94). -/
  | basketStart (core : Fin 128)
  /-- INDEX_LIST_ARRIVAL (R95). -/
  | indexListArrival (core : Fin 128)
  /-- OWNER_ROUND_START (R95). -/
  | ownerRoundStart (core : Fin 128)
  /-- ROW_FETCH_COMPLETE (R96). -/
  | rowFetchComplete (core : Fin 128) (n : Nat)
  /-- FORWARD_ARRIVAL (R98). -/
  | forwardArrival (core : Fin 128)
  /-- FORWARD_ACK_ARRIVAL (R98). -/
  | forwardAckArrival (core : Fin 128)
  /-- OWNER_ROUND_END (R95). -/
  | ownerRoundEnd (core : Fin 128)
  /-- PARTIAL_ARRIVAL (R100). -/
  | partialArrival (core : Fin 128)
  /-- FLAGGED_RECORD_ARRIVAL (R102). -/
  | flaggedRecordArrival (core : Fin 128)
  /-- LIST_END_RECORD_ARRIVAL (R99). -/
  | listEndRecordArrival (core : Fin 128)
  /-- UNPOOLED_ROW_ARRIVAL (R101). -/
  | unpooledRowArrival (core : Fin 128)
  /-- BASKET_COMPLETE (R103). -/
  | basketComplete (core : Fin 128)
  /-- ROW_PUT (R108). -/
  | rowPut (core : Fin 128)
  /-- ROW_MOVE (R113). -/
  | rowMove (core : Fin 128)
  /-- SHARD_SET (R114). -/
  | shardSet (core : Fin 128)
  /-- TABLE_STAGE (R84). -/
  | tableStage (core : Fin 128)
  /-- TABLE_CUTOVER (R104). -/
  | tableCutover (core : Fin 128)
  /-- TABLE_RELEASE (R105). -/
  | tableRelease (core : Fin 128)
  /-- ROW_WRITE_ACK (R108). -/
  | rowWriteAck (core : Fin 128)
  /-- PUT_ROUNDS_ENDED (R108). -/
  | putRoundsEnded (core : Fin 128)
  /-- VERSION_RETIRE (R105). -/
  | versionRetire (asp : Fin 1024) (table : Fin 4096)
  /-- FLUSH_AS (R118). -/
  | flushAs (fn : Fin 16)
  /-- FLUSH_ALL (R118). -/
  | flushAll (fn : Fin 16)
  /-- RD_TREG_WRITE (R118). -/
  | rdTregWrite (fn : Fin 16) (asp : Fin 1024) (high : Bool) (val : Word)
  /-- GE_AREA_WRITE (R117). -/
  | geAreaWrite (fn : Fin 16) (core : Fin 128) (area : Fin 4) (val : Word)
  /-- ME_LOAD (R164). -/
  | meLoad (core : Fin 128)
  /-- ME_SWAP (R152). -/
  | meSwap (core : Fin 128)
  /-- ME_MM (R166). -/
  | meMm (core : Fin 128)
  /-- ME_INVAL (R165). -/
  | meInval (core : Fin 128)
  /-- ME_SCALES (R167). -/
  | meScales (core : Fin 128)
  /-- ME_LOAD_COMPLETE (R169). -/
  | meLoadComplete (core : Fin 128)
  /-- ME_GROUP_ISSUE (R159). -/
  | meGroupIssue (core : Fin 128)
  /-- ME_ROW_WRITE (R160). -/
  | meRowWrite (core : Fin 128)
  /-- ME_LEVEL_STEP (R172). -/
  | meLevelStep (core : Fin 128) (portReady : Bool)
  /-- MV_MM (R182). -/
  | mvMm (core : Fin 128)
  /-- MV_SCALES (R195). -/
  | mvScales (core : Fin 128)
  /-- MV_LEAD_IN (R189). -/
  | mvLeadIn (core : Fin 128)
  /-- MV_CHUNK_BUILD_DONE (R184). -/
  | mvChunkBuildDone (core : Fin 128)
  /-- MV_OP_COMPLETE (R190). -/
  | mvOpComplete (core : Fin 128) (gaps : Gaps)
  /-- VE_CHAIN (R217). -/
  | veChain (core : Fin 128)
  /-- VE_LOAD (R218). -/
  | veLoad (core : Fin 128)
  /-- VE_STORE (R218). -/
  | veStore (core : Fin 128)
  /-- VE_FILL (R218). -/
  | veFill (core : Fin 128)
  /-- VE_LIVE (R218). -/
  | veLive (core : Fin 128)
  /-- VE_OP_COMPLETE (R217). -/
  | veOpComplete (core : Fin 128) (gaps : Gaps)
  /-- POOL_PASS (R223). -/
  | poolPass (core : Fin 128)
  /-- MERGE_PASS (R224). -/
  | mergePass (core : Fin 128)
  /-- XP_TLOAD (R256). -/
  | xpTload (core : Fin 128)
  /-- XP_TFREE (R245). -/
  | xpTfree (core : Fin 128)
  /-- XP_HEADER_READ (R243). -/
  | xpHeaderRead (core : Fin 128) (ask : XpAsk)
  /-- XP_BLOCK_DECODED (R249). -/
  | xpBlockDecoded (core : Fin 128) (client : XpClient) (gaps : Gaps)
  /-- SLICE_READ (R278). -/
  | sliceRead (facet : Fin 16) (pa : Nat) (hint : Hint) (how : ReadHow)
  /-- SLICE_WRITE (R277). -/
  | sliceWrite (facet : Fin 16) (pa : Nat) (mask : BitVec 64) (data : List Byte) (hint : Hint) (prot : Bool) (poison : Bool)
  /-- POINT_READ_REQUEST (R279). -/
  | pointReadRequest (facet : Fin 16) (pa : Nat) (cls : PointClass) (hint : Hint)
  /-- POINT_REQUEST_AGED (R279). -/
  | pointRequestAged (ch : Fin 384) (n : Nat)
  /-- HBM_READ_COMPLETE (R286). -/
  | hbmReadComplete (ch : Fin 384) (ecc : Ecc) (age : Nat)
  /-- MS_FLUSH (R285). -/
  | msFlush (fn : Fin 16) (slice : Fin 16) (bits : BitVec 16)
  /-- MS_UNKEEP (R285). -/
  | msUnkeep (fn : Fin 16) (slice : Fin 16) (bits : BitVec 16)
  /-- MS_FLUSH_DONE (R285). -/
  | msFlushDone (slice : Fin 16) (f : Fin 16) (unkeep : Bool)
  /-- SCRUB_READ (R291). -/
  | scrubRead (ch : Fin 384) (n : Fin 4) (ecc : Ecc)
  /-- CHANNEL_FAILED (R276). -/
  | channelFailed (ch : Fin 384)
  /-- CHANNEL_TRAINING_END (R276). -/
  | channelTrainingEnd (ch : Fin 384) (ok : Bool)
  /-- TLB_MISS (R306). -/
  | tlbMiss (core : Fin 128) (who : Requester) (va : Nat) (write : Bool)
  /-- WALK_LEVEL_READ_DONE (R307). -/
  | walkLevelReadDone (slot : Fin 64)
  /-- SCOUT_WALK (R309). -/
  | scoutWalk (core : Fin 128) (eng : TrEngine) (n : Nat)
  /-- RETRY (R316). -/
  | retry (fn : Fin 16) (entry : Fin 256)
  /-- ABORT (R316). -/
  | abort (fn : Fin 16) (entry : Fin 256)
  /-- RANGE (R319). -/
  | range (fn : Fin 16) (val : Word)
  /-- ASPACE (R319). -/
  | aspace (fn : Fin 16) (val : Word)
  /-- FACET (R319). -/
  | facet (fn : Fin 16) (val : Word)
  /-- INV_BLOCK_END (R320). -/
  | invBlockEnd
  /-- INV_DONE (R320). -/
  | invDone
  /-- TR_CORE_FLUSH (R331). -/
  | trCoreFlush (fn : Fin 16) (core : Fin 128)
  /-- CLEAR (R329). -/
  | clear (fn : Fin 16) (f : Fin 16)
  /-- HOST_WINDOW_ACCESS (R324). -/
  | hostWindowAccess (core : Fin 128) (eng : TrEngine) (asp : Fin 1024) (va : Nat) (pa : Nat) (len : Nat) (data : Option (List Byte)) (counted : Bool) (poison : Bool)
  /-- REMOTE_WINDOW_ACCESS (R327). -/
  | remoteWindowAccess (core : Fin 128) (eng : TrEngine) (asp : Fin 1024) (pa : Nat) (len : Nat) (data : Option (List Byte)) (poison : Bool)
  /-- IMPORT_ACCESS (R328). -/
  | importAccess
  /-- CONTEXT_WRITE (R298). -/
  | contextWrite (fn : Fin 16) (asp : Fin 1024) (word : Fin 5) (val : Word)
  /-- HOST_WINDOW_ENTRY_WRITE (R324). -/
  | hostWindowEntryWrite (fn : Fin 16) (w : Fin 1024) (word : Fin 4) (val : Word)
  /-- IMPORT_ENTRY_WRITE (R328). -/
  | importEntryWrite (fn : Fin 16) (k : Fin 4096) (word : Fin 4) (val : Word)
  /-- FE_CH_CFG_WRITE (R333). -/
  | feChCfgWrite (fn : Fin 16) (ch : Fin 4096) (word : Fin 5) (val : Word)
  /-- DOORBELL (R339). -/
  | doorbell (fn : Fin 16) (ch : Fin 4096) (val : Word)
  /-- SLOT_READ (R340). -/
  | slotRead (ch : Fin 4096) (host : HostData)
  /-- SLOT_REREAD (R340). -/
  | slotReread (ch : Fin 4096) (host : HostData)
  /-- COMMAND_START (R341). -/
  | commandStart (ch : Fin 4096)
  /-- LAUNCH (R345). -/
  | launch (ch : Fin 4096)
  /-- COPY (R342). -/
  | copy (ch : Fin 4096) (core : Fin 128)
  /-- BATCH (R342). -/
  | batch (ch : Fin 4096) (core : Fin 128)
  /-- SYNC (R362). -/
  | sync (ch : Fin 4096)
  /-- INVALIDATE (R319). -/
  | invalidate (ch : Fin 4096)
  /-- GRAPH_STORE (R347). -/
  | graphStore (ch : Fin 4096)
  /-- GRAPH_PATCH (R347). -/
  | graphPatch (ch : Fin 4096)
  /-- GRAPH_RETIRE (R346). -/
  | graphRetire (ch : Fin 4096)
  /-- NOP (R342). -/
  | nop (ch : Fin 4096)
  /-- LAUNCH_START (R345). -/
  | launchStart (ch : Fin 4096)
  /-- LAUNCH_ARG_WRITE_DONE (R345). -/
  | launchArgWriteDone (core : Fin 128)
  /-- LAUNCH_END (R346). -/
  | launchEnd (ch : Fin 4096)
  /-- COMPLETION_RECORD_WRITE (R365). -/
  | completionRecordWrite (ch : Fin 4096)
  /-- COMPLETION_READBACK_DONE (R424). -/
  | completionReadbackDone (ch : Fin 4096) (ok : Bool)
  /-- FE_CH_ABORT (R354). -/
  | feChAbort (fn : Fin 16) (ch : Fin 4096)
  /-- RELEASE_HOLD (R369). -/
  | releaseHold (fn : Fin 16) (ch : Fin 4096)
  /-- FE_GREG_WRITE (R343). -/
  | feGregWrite (fn : Fin 16) (asp : Fin 1024) (high : Bool) (val : Word)
  /-- DEVICE_QUEUE_CONFIG_WRITE (R358). -/
  | deviceQueueConfigWrite (fn : Fin 16) (q : Fin 256) (word : Fin 3) (val : Word)
  /-- OP_FETCH (R350). -/
  | opFetch (core : Fin 128)
  /-- END (R352). -/
  | endOp (core : Fin 128)
  /-- SETC (R352). -/
  | setc (core : Fin 128)
  /-- ADDC (R352). -/
  | addc (core : Fin 128)
  /-- LDC (R351). -/
  | ldc (core : Fin 128)
  /-- BR (R352). -/
  | br (core : Fin 128)
  /-- BRC (R352). -/
  | brc (core : Fin 128)
  /-- LOOP (R352). -/
  | loop (core : Fin 128)
  /-- FENCE (R351). -/
  | fence (core : Fin 128)
  /-- FENCE_RELEASE (R351). -/
  | fenceRelease (core : Fin 128)
  /-- WAIT (R352). -/
  | wait (core : Fin 128)
  /-- SIGNAL (R351). -/
  | signal (core : Fin 128)
  /-- SIGNAL_DEFERRED_ACT (R351). -/
  | signalDeferredAct (core : Fin 128)
  /-- OWN (R363). -/
  | own (core : Fin 128)
  /-- ENQUEUE (R361). -/
  | enqueue (core : Fin 128)
  /-- RELAY_RING (R359). -/
  | relayRing (core : Fin 128)
  /-- DMA_COPY (R355). -/
  | dmaCopy (core : Fin 128)
  /-- DMA_TENSOR (R356). -/
  | dmaTensor (core : Fin 128)
  /-- DMA_RELAY (R357). -/
  | dmaRelay (core : Fin 128)
  /-- DMA_OP_COMPLETE (R355). -/
  | dmaOpComplete (core : Fin 128)
  /-- RELAY_LAND (R357). -/
  | relayLand (core : Fin 128)
  /-- TASK_END (R352). -/
  | taskEnd (core : Fin 128)
  /-- SQ_RELAY_WRITE (R359). -/
  | sqRelayWrite (fn : Fin 16) (core : Fin 128) (val : Word)
  /-- SQ_SAVE_WRITE (R379). -/
  | sqSaveWrite (fn : Fin 16) (core : Fin 128) (val : Word)
  /-- TASK_PLACE (R376). -/
  | taskPlace (core : Fin 128)
  /-- PREEMPT_REQUEST (R377). -/
  | preemptRequest (n : Nat)
  /-- PREEMPT_SAVE (R378). -/
  | preemptSave (core : Fin 128) (latency : Nat)
  /-- TASK_RESUME (R382). -/
  | taskResume (core : Fin 128)
  /-- PORT_LANES_TRAINED (R391). -/
  | portLanesTrained (p : Fin 7)
  /-- IDENTITY_FLIT_ARRIVAL (R391). -/
  | identityFlitArrival (p : Fin 6) (peer : Identity)
  /-- LANE_FAILURE (R389). -/
  | laneFailure (p : Fin 7)
  /-- REPLAY_FAILURE (R390). -/
  | replayFailure (p : Fin 7)
  /-- PORT_RETRAIN_TIMER (R391). -/
  | portRetrainTimer (p : Fin 7)
  /-- RETRAIN (R391). -/
  | retrain (fn : Fin 16) (p : Fin 7)
  /-- PACKET_ARRIVAL (R392). -/
  | packetArrival (p : Fin 7) (pkt : Packet)
  /-- REMOTE_RESPONSE_ARRIVAL (R403). -/
  | remoteResponseArrival
  /-- TWIN_PAIRING (R405). -/
  | twinPairing (peer : TwinIdentity)
  /-- HEARTBEAT_SEND (R406). -/
  | heartbeatSend
  /-- HEARTBEAT_ARRIVAL (R406). -/
  | heartbeatArrival (applied : List Nat)
  /-- PARTNER_LOST (R406). -/
  | partnerLost
  /-- MIRROR_RECORD_SEND (R409). -/
  | mirrorRecordSend (f : Fin 16)
  /-- MIRROR_RECORD_ARRIVAL (R409). -/
  | mirrorRecordArrival (part : MirrorPart)
  /-- MIRROR_ACK_ARRIVAL (R409). -/
  | mirrorAckArrival (f : Fin 16) (seq : Nat) (status : BitVec 16)
  /-- TW_MIRROR_CFG_WRITE (R407). -/
  | twMirrorCfgWrite (fn : Fin 16) (f : Fin 16) (word : Fin 4) (val : Word)
  /-- RESTART (R411). -/
  | restart (fn : Fin 16) (f : Fin 16)
  /-- EKL_LINK_UP (R415). -/
  | eklLinkUp
  /-- EKL_LINK_DOWN (R428). -/
  | eklLinkDown
  /-- PCIE_LINK_DOWN (R427). -/
  | pcieLinkDown
  /-- FUNCTION_LEVEL_RESET (R416). -/
  | functionLevelReset (fn : Fin 16)
  /-- APERTURE_ACCESS (R418). -/
  | apertureAccess (who : HostId) (off : Nat) (len : Nat) (data : Option (List Byte)) (ep : Bool)
  /-- REQUEST (R430). -/
  | request (fn : Fin 16) (token : BitVec 16)
  /-- COMPLETE (R432). -/
  | complete (fn : Fin 16)
  /-- DETACH (R428). -/
  | detach (fn : Fin 16)
  /-- HL_HOST_RID_WRITE (R427). -/
  | hlHostRidWrite (fn : Fin 16) (val : Word)
  /-- FLUSH_READ_ISSUE (R420). -/
  | flushReadIssue
  /-- FLUSH_READ_DONE (R420). -/
  | flushReadDone (ok : Bool)
  /-- HOST_WINDOW_READ_RESPONSE (R419). -/
  | hostWindowReadResponse (n : Nat) (host : HostData)
  /-- COMPLETION_TIMEOUT (R419). -/
  | completionTimeout (n : Nat)
  /-- MSIX_MESSAGE (R434). -/
  | msixMessage (src : Fin 4160) (masked : Bool)
  /-- INPUT_IN_RANGE (R490). -/
  | inputInRange
  /-- INPUT_STOP (R490). -/
  | inputStop
  /-- VIN_OUT (R490). -/
  | vinOut
  /-- RAIL_POWER_GOOD (R436). -/
  | railPowerGood (mv : BitVec 16)
  /-- TRIP (R491). -/
  | trip (cause : TripCause)
  /-- MOD_RST_N_ASSERT (R503). -/
  | modRstNAssert
  /-- RESET_RELEASE (R503). -/
  | resetRelease
  /-- REFCLK_LOSS (R502). -/
  | refclkLoss
  /-- FIRMWARE_BANK_VERIFY (R442). -/
  | firmwareBankVerify
  /-- FW_LOAD (R442). -/
  | fwLoad (fn : Fin 16) (ok : Bool) (image : List Byte)
  /-- BIST_END (R438). -/
  | bistEnd (failed : BitVec 132) (slack : List (BitVec 8))
  /-- PERIODIC_MEASUREMENT (R444). -/
  | periodicMeasurement
  /-- MEASURE (R444). -/
  | measure (fn : Fin 16)
  /-- MEASUREMENT_END (R446). -/
  | measurementEnd (slack : List (BitVec 8)) (ro : List (BitVec 16))
  /-- CLOCK_RELOCK_END (R448). -/
  | clockRelockEnd (p : Fin 132)
  /-- AG_HIST_INDEX_WRITE (R445). -/
  | agHistIndexWrite (fn : Fin 16) (val : Word)
  /-- AG_HIST_DATA_READ (R445). -/
  | agHistDataRead (fn : Fin 16)
  /-- VIOLATION_LOG_WRITE (R458). -/
  | violationLogWrite
  /-- QUARANTINE (R460). -/
  | quarantine (fn : Fin 16) (core : Fin 128)
  /-- MACHINE_CHECK (R460). -/
  | machineCheck (core : Fin 128)
  /-- RELEASE (R464). -/
  | release (fn : Fin 16) (core : Fin 128)
  /-- RELEASE_BIST_END (R464). -/
  | releaseBistEnd (core : Fin 128) (ok : Bool)
  /-- TL_CH_WRITE (R465). -/
  | tlChWrite (fn : Fin 16) (ch : Fin 4096) (high : Bool) (val : Word)
  /-- GO (R468). -/
  | go (fn : Fin 16) (f : Fin 16)
  /-- STOP (R470). -/
  | stop (fn : Fin 16) (f : Fin 16)
  /-- KEY_COMMAND (R482). -/
  | keyCommand (fn : Fin 16)
  /-- KEY_RECORD_READ_DONE (R482). -/
  | keyRecordReadDone (ok : Bool) (record : List Byte)
  /-- KEY_SLOT_WRITE_DONE (R482). -/
  | keySlotWriteDone (ok : Bool)
  /-- ATTEST (R484). -/
  | attest (fn : Fin 16)
  /-- ATTEST_NONCE_READ_DONE (R484). -/
  | attestNonceReadDone (nonce : List Byte)
  /-- GOVERNOR_SAMPLE (R493). -/
  | governorSample (sample : PowerSample)
  /-- GOVERNOR_WINDOW (R495). -/
  | governorWindow
  /-- THERMAL_HOLD_START (R496). -/
  | thermalHoldStart (tj : BitVec 8) (tcase : BitVec 8)
  /-- THERMAL_HOLD_END (R496). -/
  | thermalHoldEnd (tj : BitVec 8) (tcase : BitVec 8)
  /-- IDENT (R505). -/
  | ident
  /-- STATUS (R505). -/
  | status
  /-- TRIP_CAUSE (R505). -/
  | tripCause
  /-- VIN (R505). -/
  | vin (mean : BitVec 16)
  /-- IIN (R505). -/
  | iin (mean : BitVec 16)
  /-- PIN (R505). -/
  | pin (mean : BitVec 16)
  /-- TJ (R505). -/
  | tj (now : BitVec 8)
  /-- TCASE (R505). -/
  | tcase (now : BitVec 8)
  /-- RAILS (R505). -/
  | rails
  /-- ENERGY (R505). -/
  | energy
  /-- SMBUS_WRITE (R505). -/
  | smbusWrite (code : BitVec 8)
  /-- BYPASS (R506). -/
  | bypass
  /-- SAMPLE_PRELOAD (R506). -/
  | samplePreload
  /-- EXTEST (R506). -/
  | extest
  /-- EXTEST_PULSE (R506). -/
  | extestPulse
  /-- EXTEST_TRAIN (R506). -/
  | extestTrain
  /-- TRST_N_ASSERT (R506). -/
  | trstNAssert
  /-- HOME_OWNER_PUT_ARRIVAL (R110). -/
  | homeOwnerPutArrival (core : Fin 128)
  /-- REMOTE_SHARD_ROW_DATA_ARRIVAL (R108). -/
  | remoteShardRowDataArrival (core : Fin 128)
  /-- CONTROL_WINDOW_READ (R37). -/
  | controlWindowRead (who : HostId) (off : Nat) (width : Nat)
  /-- PCIE_LINK_UP (R428). -/
  | pcieLinkUp
  /-- PORT_TRAINING_FAILED (R391). -/
  | portTrainingFailed (p : Fin 7)
  /-- POWER_ON_HOUR (R445). -/
  | powerOnHour
  deriving DecidableEq, Repr

end Sys2Proof
end

