-- ==== Sys2Proof/Decode.lean ====
section
/-! DEFINITION. The command that a word spells. The table of operations and events gives no row any bits: a command of this block is not
a word of an instruction memory, and no word spells one. -/

namespace Sys2Proof

/-- The command that the nbits low bits of w spell by the table; no row has bits, so none. -/
def decodeTableWord (_nbits _w : Nat) : Option Instr := none

end Sys2Proof
end

