-- ==== Sys2Proof/Config.lean ====
section
/-! DEFINITION. What an ordering variant, a part or an implementation fixes, and the free values: constants with no body, of which
nothing can be proved but that they have a value. -/

namespace Sys2Proof.Config

/-- The ordering variant: true for GX12-W, false for GX12-S (R4). -/
opaque wide : Bool

/-- The public key of the module's identity, X then Y (R477). -/
opaque identityKey : List Byte

/-- The SHA-256 hash of the vendor root key, fused (R479). -/
opaque rootHash : List Byte

/-- The fused least security version number of firmware (R478). -/
opaque minSvn : Nat

/-- The module's ECDSA signature of a message with its identity key (R484); the nonce of the signature is the part's own. -/
opaque sign : List Byte → List Byte

/-- The serial number that the attestation report carries (Table 18.3). -/
opaque serial : List Byte

/-- A value that the spec leaves open, by its number: the state's counter `freeCtr` gives each use a number of its own. -/
opaque freeValue : Nat → BitVec 64

/-- The undefined contents of a channel that a map has taken out of service and another brings back (R79, R276): 64 B and their poison, by the number
of the use of the free value and the granule. -/
opaque lostGranule : Nat → Nat → List Byte × Bool

/-- The result of a lookup-table op of the Vector Engine before it is brought within the accuracy of Table 7.6. -/
opaque lut : Nat → Nat → Nat

/-- The order-dependent FP32 sum of weights of R96: a choice among the orders, for the weights in arrival order. -/
opaque weightOrder : List Nat → List Nat

/-- The bytes that HBM holds for 64 B of plain text under the key of a facet's epoch, for granule number t (R485). -/
opaque xtsEnc : Nat → Nat → Nat → List Byte → List Byte

/-- The bytes that a read decrypts 64 B of HBM to under the key of a facet's epoch, for granule number t (R485). -/
opaque xtsDec : Nat → Nat → Nat → List Byte → List Byte

end Sys2Proof.Config
end

