-- ==== Sys2Proof/Machine/RegTable.lean ====
section
/-! DEFINITION. The register tables of the spec as data: one row per field of Tables 0.2, 1.3, 2.6, 3.14, 3.15, 5.8, 6.10, 7.13,
8.10, 9.6, 10.4, 10.5, 11.12 to 11.14, 12.13 to 12.15, 13.4, 13.5, 14.8 to 14.10, 15.7, 16.5, 16.6, 17.12, 17.13, 18.4 and 19.4,
with its offset in the control window (R34, R35), its place in arrays, its bits, its access type (R39) and its reset value (R40).
A reset of "per map", "from flash" or "per variant" is a value that the read computes (Views.lean); the row lists 0. -/

namespace Sys2Proof.Machine

/-- The register access types of Table 1.7. -/
inductive Access where
  | ro | rw | w1c | w1s | wo | rc
  deriving DecidableEq, Repr

/-- One field of a register or of an array of registers: copy (i, j), i < n1, j < n2, lies at base + i * s1 + j * s2. -/
structure RegField where
  name : String
  base : Nat
  s1 : Nat
  n1 : Nat
  s2 : Nat
  n2 : Nat
  hi : Nat
  lo : Nat
  acc : Access
  reset : Nat
  deriving DecidableEq, Repr

/-- Fields of block BU (Tables 0.2, 1.3, 16.5). -/
def regsBU0 : List RegField := [
  ⟨"part_id", 0x0, 0x2000000, 1, 0x4, 1, 31, 16, .ro, 0x12⟩,
  ⟨"variant", 0x0, 0x2000000, 1, 0x4, 1, 15, 12, .ro, 0x0⟩,
  ⟨"step_letter", 0x0, 0x2000000, 1, 0x4, 1, 11, 8, .ro, 0x2⟩,
  ⟨"step_number", 0x0, 0x2000000, 1, 0x4, 1, 7, 4, .ro, 0x1⟩,
  ⟨"vlanes_code", 0x0, 0x2000000, 1, 0x4, 1, 3, 0, .ro, 0x0⟩,
  ⟨"ltc_lo", 0x10, 0x2000000, 1, 0x4, 1, 31, 0, .ro, 0x0⟩,
  ⟨"ltc_hi", 0x14, 0x2000000, 1, 0x4, 1, 31, 0, .ro, 0x0⟩,
  ⟨"twin", 0x20, 0x2000000, 1, 0x4, 1, 12, 12, .ro, 0x0⟩,
  ⟨"port", 0x20, 0x2000000, 1, 0x4, 1, 11, 6, .ro, 0x0⟩,
  ⟨"front_end", 0x20, 0x2000000, 1, 0x4, 1, 5, 5, .ro, 0x0⟩,
  ⟨"walker", 0x20, 0x2000000, 1, 0x4, 1, 4, 4, .ro, 0x0⟩,
  ⟨"trail_map", 0x20, 0x2000000, 1, 0x4, 1, 3, 3, .ro, 0x0⟩,
  ⟨"ranger", 0x20, 0x2000000, 1, 0x4, 1, 2, 2, .ro, 0x0⟩,
  ⟨"host_link", 0x20, 0x2000000, 1, 0x4, 1, 1, 1, .ro, 0x0⟩,
  ⟨"core", 0x30, 0x2000000, 1, 0x4, 4, 31, 0, .ro, 0x0⟩,
  ⟨"msc", 0x40, 0x2000000, 1, 0x4, 1, 15, 0, .ro, 0x0⟩,
  ⟨"chan", 0x60, 0x2000000, 1, 0x4, 12, 31, 0, .ro, 0x0⟩,
  ⟨"fail", 0xA0, 0x2000000, 1, 0x4, 5, 31, 0, .ro, 0x0⟩,
  ⟨"stage", 0xC0, 0x2000000, 1, 0x4, 1, 31, 28, .ro, 0x0⟩,
  ⟨"code", 0xC0, 0x2000000, 1, 0x4, 1, 23, 16, .ro, 0x0⟩,
  ⟨"bank", 0xC0, 0x2000000, 1, 0x4, 1, 1, 1, .ro, 0x0⟩,
  ⟨"fw_load", 0xC0, 0x2000000, 1, 0x4, 1, 0, 0, .w1s, 0x0⟩,
  ⟨"src_lo", 0xC4, 0x2000000, 1, 0x4, 1, 31, 12, .rw, 0x0⟩,
  ⟨"src_hi", 0xC8, 0x2000000, 1, 0x4, 1, 31, 0, .rw, 0x0⟩,
  ⟨"ready_lost", 0xD0, 0x2000000, 1, 0x4, 1, 0, 0, .w1c, 0x0⟩,
  ⟨"ready_lost_count", 0xD4, 0x2000000, 1, 0x4, 1, 31, 0, .ro, 0x0⟩,
  ⟨"early_access", 0xD8, 0x2000000, 1, 0x4, 1, 31, 0, .ro, 0x0⟩]

/-- Fields of block RG (Tables 2.6, 17.12, 18.4). -/
def regsRG0 : List RegField := [
  ⟨"persist", 0x20100, 0x2000000, 1, 0x4, 1, 2, 2, .rw, 0x0⟩,
  ⟨"source", 0x20100, 0x2000000, 1, 0x4, 1, 1, 1, .rw, 0x0⟩,
  ⟨"load", 0x20100, 0x2000000, 1, 0x4, 1, 0, 0, .w1s, 0x0⟩,
  ⟨"src_lo", 0x20104, 0x2000000, 1, 0x4, 1, 31, 12, .rw, 0x0⟩,
  ⟨"src_hi", 0x20108, 0x2000000, 1, 0x4, 1, 31, 0, .rw, 0x0⟩,
  ⟨"code", 0x2010C, 0x2000000, 1, 0x4, 1, 23, 16, .ro, 0x0⟩,
  ⟨"state", 0x2010C, 0x2000000, 1, 0x4, 1, 3, 0, .ro, 0x0⟩,
  ⟨"fault_offset", 0x20110, 0x2000000, 1, 0x4, 1, 31, 0, .ro, 0x0⟩,
  ⟨"gen_lo", 0x20114, 0x2000000, 1, 0x4, 1, 31, 0, .ro, 0x0⟩,
  ⟨"gen_hi", 0x20118, 0x2000000, 1, 0x4, 1, 31, 0, .ro, 0x0⟩,
  ⟨"refused", 0x2011C, 0x2000000, 1, 0x4, 1, 1, 1, .w1c, 0x0⟩,
  ⟨"accepted", 0x2011C, 0x2000000, 1, 0x4, 1, 0, 0, .w1c, 0x0⟩,
  ⟨"accept_count", 0x20120, 0x2000000, 1, 0x4, 1, 31, 0, .ro, 0x0⟩,
  ⟨"refuse_count", 0x20124, 0x2000000, 1, 0x4, 1, 31, 0, .ro, 0x0⟩,
  ⟨"drain", 0x20128, 0x2000000, 1, 0x4, 1, 15, 0, .w1s, 0x0⟩,
  ⟨"resume", 0x2012C, 0x2000000, 1, 0x4, 1, 15, 0, .w1s, 0x0⟩,
  ⟨"state", 0x20130, 0x2000000, 1, 0x4, 1, 31, 0, .ro, 0x0⟩,
  ⟨"floor_lo", 0x20134, 0x2000000, 1, 0x4, 1, 31, 0, .ro, 0x0⟩,
  ⟨"floor_hi", 0x20138, 0x2000000, 1, 0x4, 1, 31, 0, .ro, 0x0⟩,
  ⟨"quarantine", 0x20000, 0x2000000, 1, 0x4, 1, 1, 1, .w1c, 0x0⟩,
  ⟨"violation", 0x20000, 0x2000000, 1, 0x4, 1, 0, 0, .w1c, 0x0⟩,
  ⟨"violation_count", 0x20004, 0x2000000, 1, 0x4, 1, 31, 0, .ro, 0x0⟩,
  ⟨"quar_count", 0x20008, 0x2000000, 1, 0x4, 1, 31, 0, .ro, 0x0⟩,
  ⟨"prod", 0x20010, 0x2000000, 1, 0x4, 1, 31, 0, .ro, 0x0⟩,
  ⟨"lost", 0x20014, 0x2000000, 1, 0x4, 1, 31, 0, .ro, 0x0⟩,
  ⟨"quarantine", 0x20200, 0x2000000, 1, 0x4, 1, 31, 31, .w1s, 0x0⟩,
  ⟨"release", 0x20200, 0x2000000, 1, 0x4, 1, 30, 30, .w1s, 0x0⟩,
  ⟨"core", 0x20200, 0x2000000, 1, 0x4, 1, 6, 0, .rw, 0x0⟩,
  ⟨"mask", 0x20210, 0x2000000, 1, 0x4, 4, 31, 0, .ro, 0x0⟩,
  ⟨"dropped", 0x20220, 0x2000000, 1, 0x4, 1, 31, 0, .ro, 0x0⟩,
  ⟨"cause", 0x20400, 0x2000000, 1, 0x4, 128, 31, 28, .ro, 0x0⟩,
  ⟨"phase", 0x20400, 0x2000000, 1, 0x4, 128, 27, 24, .ro, 0x0⟩,
  ⟨"released", 0x20400, 0x2000000, 1, 0x4, 128, 15, 0, .ro, 0x0⟩,
  ⟨"code", 0x21000, 0x2000000, 1, 0x4, 1, 31, 24, .ro, 0x0⟩,
  ⟨"attested", 0x21000, 0x2000000, 1, 0x4, 1, 2, 2, .w1c, 0x0⟩,
  ⟨"key_refused", 0x21000, 0x2000000, 1, 0x4, 1, 1, 1, .w1c, 0x0⟩,
  ⟨"key_done", 0x21000, 0x2000000, 1, 0x4, 1, 0, 0, .w1c, 0x0⟩,
  ⟨"counts", 0x21004, 0x2000000, 1, 0x4, 3, 31, 0, .ro, 0x0⟩,
  ⟨"go", 0x21010, 0x2000000, 1, 0x4, 1, 0, 0, .w1s, 0x0⟩,
  ⟨"src", 0x21014, 0x2000000, 1, 0x4, 1, 31, 6, .rw, 0x0⟩,
  ⟨"src", 0x21018, 0x2000000, 1, 0x4, 1, 31, 0, .rw, 0x0⟩,
  ⟨"rights", 0x21024, 0x2000000, 1, 0x4, 8, 1, 0, .ro, 0x0⟩,
  ⟨"go", 0x21040, 0x2000000, 1, 0x4, 1, 0, 0, .w1s, 0x0⟩,
  ⟨"src", 0x21044, 0x2000000, 1, 0x4, 1, 31, 6, .rw, 0x0⟩,
  ⟨"src", 0x21048, 0x2000000, 1, 0x4, 1, 31, 0, .rw, 0x0⟩,
  ⟨"dst", 0x2104C, 0x2000000, 1, 0x4, 1, 31, 6, .rw, 0x0⟩,
  ⟨"dst", 0x21050, 0x2000000, 1, 0x4, 1, 31, 0, .rw, 0x0⟩,
  ⟨"violation_entry", 0x28000, 0x20, 1024, 0x4, 8, 31, 0, .ro, 0x0⟩]

/-- Fields of block GE (Table 3.14). -/
def regsGE0 : List RegField := [
  ⟨"chain_base", 0x100A000, 0x20000, 128, 0x4, 1, 14, 0, .rw, 0x0⟩,
  ⟨"size", 0x100A004, 0x20000, 128, 0x4, 1, 26, 16, .rw, 0x0⟩,
  ⟨"base", 0x100A004, 0x20000, 128, 0x4, 1, 10, 0, .rw, 0x0⟩,
  ⟨"acc_size", 0x100A008, 0x20000, 128, 0x4, 1, 26, 16, .rw, 0x0⟩,
  ⟨"acc_base", 0x100A008, 0x20000, 128, 0x4, 1, 10, 0, .rw, 0x0⟩,
  ⟨"map_size", 0x100A00C, 0x20000, 128, 0x4, 1, 26, 16, .rw, 0x0⟩,
  ⟨"map_base", 0x100A00C, 0x20000, 128, 0x4, 1, 10, 0, .rw, 0x0⟩,
  ⟨"inbound", 0x100A010, 0x20000, 128, 0x4, 1, 31, 24, .ro, 0x0⟩,
  ⟨"outstanding", 0x100A010, 0x20000, 128, 0x4, 1, 20, 16, .ro, 0x0⟩,
  ⟨"owner_error", 0x100A010, 0x20000, 128, 0x4, 1, 5, 5, .w1c, 0x0⟩,
  ⟨"chain_missing", 0x100A010, 0x20000, 128, 0x4, 1, 4, 4, .w1c, 0x0⟩,
  ⟨"epoch_miss", 0x100A010, 0x20000, 128, 0x4, 1, 3, 3, .w1c, 0x0⟩,
  ⟨"poison", 0x100A010, 0x20000, 128, 0x4, 1, 2, 2, .w1c, 0x0⟩,
  ⟨"mult_sat", 0x100A010, 0x20000, 128, 0x4, 1, 1, 1, .w1c, 0x0⟩,
  ⟨"round_split", 0x100A010, 0x20000, 128, 0x4, 1, 0, 0, .w1c, 0x0⟩,
  ⟨"round_split_count", 0x100A020, 0x20000, 128, 0x4, 1, 31, 0, .ro, 0x0⟩,
  ⟨"mult_sat_count", 0x100A024, 0x20000, 128, 0x4, 1, 31, 0, .ro, 0x0⟩,
  ⟨"poison_count", 0x100A028, 0x20000, 128, 0x4, 1, 31, 0, .ro, 0x0⟩,
  ⟨"epoch_miss_count", 0x100A02C, 0x20000, 128, 0x4, 1, 31, 0, .ro, 0x0⟩,
  ⟨"chain_missing_count", 0x100A030, 0x20000, 128, 0x4, 1, 31, 0, .ro, 0x0⟩,
  ⟨"owner_error_count", 0x100A034, 0x20000, 128, 0x4, 1, 31, 0, .ro, 0x0⟩,
  ⟨"baskets", 0x100A040, 0x20000, 128, 0x4, 1, 31, 0, .ro, 0x0⟩,
  ⟨"entries", 0x100A044, 0x20000, 128, 0x4, 1, 31, 0, .ro, 0x0⟩,
  ⟨"lists", 0x100A048, 0x20000, 128, 0x4, 1, 31, 0, .ro, 0x0⟩,
  ⟨"fetches", 0x100A04C, 0x20000, 128, 0x4, 1, 31, 0, .ro, 0x0⟩,
  ⟨"forwards", 0x100A050, 0x20000, 128, 0x4, 1, 31, 0, .ro, 0x0⟩,
  ⟨"partials", 0x100A054, 0x20000, 128, 0x4, 1, 31, 0, .ro, 0x0⟩,
  ⟨"ops_refused", 0x100A058, 0x20000, 128, 0x4, 1, 31, 0, .ro, 0x0⟩]

/-- Fields of block RD (Table 3.15). -/
def regsRD0 : List RegField := [
  ⟨"flush_as", 0xC0000, 0x2000000, 1, 0x4, 1, 1, 1, .w1s, 0x0⟩,
  ⟨"flush_all", 0xC0000, 0x2000000, 1, 0x4, 1, 0, 0, .w1s, 0x0⟩,
  ⟨"as", 0xC0004, 0x2000000, 1, 0x4, 1, 9, 0, .rw, 0x0⟩,
  ⟨"occupancy", 0xC0010, 0x2000000, 1, 0x4, 1, 22, 0, .ro, 0x0⟩,
  ⟨"hits", 0xC0020, 0x2000000, 1, 0x4, 1, 31, 0, .ro, 0x0⟩,
  ⟨"misses", 0xC0024, 0x2000000, 1, 0x4, 1, 31, 0, .ro, 0x0⟩,
  ⟨"evictions", 0xC0028, 0x2000000, 1, 0x4, 1, 31, 0, .ro, 0x0⟩,
  ⟨"quota", 0xC0040, 0x2000000, 1, 0x4, 16, 22, 0, .rw, 0x400000⟩,
  ⟨"base_lo", 0xC1000, 0x2000000, 1, 0x8, 1024, 31, 12, .rw, 0x0⟩,
  ⟨"base_hi", 0xC1004, 0x2000000, 1, 0x8, 1024, 19, 0, .rw, 0x0⟩]

/-- Fields of block ME (Table 5.8). -/
def regsME0 : List RegField := [
  ⟨"level", 0x1002000, 0x20000, 128, 0x4, 1, 31, 28, .ro, 0x0⟩,
  ⟨"queued", 0x1002000, 0x20000, 128, 0x4, 1, 27, 24, .ro, 0x0⟩,
  ⟨"active_shape", 0x1002000, 0x20000, 128, 0x4, 1, 23, 22, .ro, 0x0⟩,
  ⟨"active_sparse", 0x1002000, 0x20000, 128, 0x4, 1, 21, 21, .ro, 0x0⟩,
  ⟨"busy", 0x1002000, 0x20000, 128, 0x4, 1, 20, 20, .ro, 0x0⟩,
  ⟨"reload", 0x1002000, 0x20000, 128, 0x4, 1, 3, 3, .w1c, 0x0⟩,
  ⟨"refused", 0x1002000, 0x20000, 128, 0x4, 1, 2, 2, .w1c, 0x0⟩,
  ⟨"poison", 0x1002000, 0x20000, 128, 0x4, 1, 1, 1, .w1c, 0x0⟩,
  ⟨"special", 0x1002000, 0x20000, 128, 0x4, 1, 0, 0, .w1c, 0x0⟩,
  ⟨"shadow_valid", 0x1002004, 0x20000, 128, 0x4, 1, 31, 16, .ro, 0x0⟩,
  ⟨"active_valid", 0x1002004, 0x20000, 128, 0x4, 1, 15, 0, .ro, 0x0⟩,
  ⟨"code", 0x1002008, 0x20000, 128, 0x4, 1, 23, 16, .ro, 0x0⟩,
  ⟨"opcode", 0x1002008, 0x20000, 128, 0x4, 1, 7, 0, .ro, 0x0⟩,
  ⟨"addr_lo", 0x100200C, 0x20000, 128, 0x4, 1, 31, 0, .ro, 0x0⟩,
  ⟨"addr_hi", 0x1002010, 0x20000, 128, 0x4, 1, 19, 0, .ro, 0x0⟩,
  ⟨"special_lo", 0x1002018, 0x20000, 128, 0x4, 1, 31, 0, .ro, 0x0⟩,
  ⟨"special_hi", 0x100201C, 0x20000, 128, 0x4, 1, 31, 0, .ro, 0x0⟩,
  ⟨"special_count", 0x1002020, 0x20000, 128, 0x4, 1, 31, 0, .ro, 0x0⟩,
  ⟨"poison_count", 0x1002024, 0x20000, 128, 0x4, 1, 31, 0, .ro, 0x0⟩,
  ⟨"refused_count", 0x1002028, 0x20000, 128, 0x4, 1, 31, 0, .ro, 0x0⟩,
  ⟨"reload_count", 0x100202C, 0x20000, 128, 0x4, 1, 31, 0, .ro, 0x0⟩,
  ⟨"tiles", 0x1002040, 0x20000, 128, 0x4, 1, 31, 0, .ro, 0x0⟩,
  ⟨"rows", 0x1002044, 0x20000, 128, 0x4, 1, 31, 0, .ro, 0x0⟩,
  ⟨"rows_skipped", 0x1002048, 0x20000, 128, 0x4, 1, 31, 0, .ro, 0x0⟩,
  ⟨"busy_cycles", 0x100204C, 0x20000, 128, 0x4, 1, 31, 0, .ro, 0x0⟩,
  ⟨"blanket_cycles", 0x1002050, 0x20000, 128, 0x4, 1, 31, 0, .ro, 0x0⟩,
  ⟨"ramp_cycles", 0x1002054, 0x20000, 128, 0x4, 1, 31, 0, .ro, 0x0⟩,
  ⟨"ramp_up_cycles", 0x1002058, 0x20000, 128, 0x4, 1, 31, 0, .ro, 0x0⟩,
  ⟨"gap_xp", 0x100205C, 0x20000, 128, 0x4, 1, 31, 0, .ro, 0x0⟩,
  ⟨"gap_operand", 0x1002060, 0x20000, 128, 0x4, 1, 31, 0, .ro, 0x0⟩,
  ⟨"gap_governor", 0x1002064, 0x20000, 128, 0x4, 1, 31, 0, .ro, 0x0⟩,
  ⟨"idle_cycles", 0x1002068, 0x20000, 128, 0x4, 1, 31, 0, .ro, 0x0⟩,
  ⟨"loads", 0x100206C, 0x20000, 128, 0x4, 1, 31, 0, .ro, 0x0⟩,
  ⟨"swaps", 0x1002070, 0x20000, 128, 0x4, 1, 31, 0, .ro, 0x0⟩,
  ⟨"scale", 0x1010000, 0x20000, 128, 0x4, 4096, 31, 0, .rw, 0x3F800000⟩]

/-- Fields of block MV (Table 6.10). -/
def regsMV0 : List RegField := [
  ⟨"queued", 0x1004000, 0x20000, 128, 0x4, 1, 27, 24, .ro, 0x0⟩,
  ⟨"busy", 0x1004000, 0x20000, 128, 0x4, 1, 20, 20, .ro, 0x0⟩,
  ⟨"refused", 0x1004000, 0x20000, 128, 0x4, 1, 2, 2, .w1c, 0x0⟩,
  ⟨"poison", 0x1004000, 0x20000, 128, 0x4, 1, 1, 1, .w1c, 0x0⟩,
  ⟨"special", 0x1004000, 0x20000, 128, 0x4, 1, 0, 0, .w1c, 0x0⟩,
  ⟨"code", 0x1004008, 0x20000, 128, 0x4, 1, 23, 16, .ro, 0x0⟩,
  ⟨"opcode", 0x1004008, 0x20000, 128, 0x4, 1, 7, 0, .ro, 0x0⟩,
  ⟨"addr_lo", 0x100400C, 0x20000, 128, 0x4, 1, 31, 0, .ro, 0x0⟩,
  ⟨"addr_hi", 0x1004010, 0x20000, 128, 0x4, 1, 19, 0, .ro, 0x0⟩,
  ⟨"special_lo", 0x1004018, 0x20000, 128, 0x4, 1, 31, 0, .ro, 0x0⟩,
  ⟨"special_hi", 0x100401C, 0x20000, 128, 0x4, 1, 31, 0, .ro, 0x0⟩,
  ⟨"special_count", 0x1004020, 0x20000, 128, 0x4, 1, 31, 0, .ro, 0x0⟩,
  ⟨"poison_count", 0x1004024, 0x20000, 128, 0x4, 1, 31, 0, .ro, 0x0⟩,
  ⟨"refused_count", 0x1004028, 0x20000, 128, 0x4, 1, 31, 0, .ro, 0x0⟩,
  ⟨"tiles", 0x1004040, 0x20000, 128, 0x4, 1, 31, 0, .ro, 0x0⟩,
  ⟨"lookup_cycles", 0x1004044, 0x20000, 128, 0x4, 1, 31, 0, .ro, 0x0⟩,
  ⟨"build_cycles", 0x1004048, 0x20000, 128, 0x4, 1, 31, 0, .ro, 0x0⟩,
  ⟨"exposed_build", 0x100404C, 0x20000, 128, 0x4, 1, 31, 0, .ro, 0x0⟩,
  ⟨"gap_source", 0x1004050, 0x20000, 128, 0x4, 1, 31, 0, .ro, 0x0⟩,
  ⟨"gap_operand", 0x1004054, 0x20000, 128, 0x4, 1, 31, 0, .ro, 0x0⟩,
  ⟨"gap_governor", 0x1004058, 0x20000, 128, 0x4, 1, 31, 0, .ro, 0x0⟩,
  ⟨"idle_cycles", 0x100405C, 0x20000, 128, 0x4, 1, 31, 0, .ro, 0x0⟩,
  ⟨"blocks", 0x1004060, 0x20000, 128, 0x4, 1, 31, 0, .ro, 0x0⟩,
  ⟨"scale", 0x1014000, 0x20000, 128, 0x4, 4096, 31, 0, .rw, 0x3F800000⟩]

/-- Fields of block VE (Table 7.13). -/
def regsVE0 : List RegField := [
  ⟨"queued", 0x1006000, 0x20000, 128, 0x4, 1, 27, 24, .ro, 0x0⟩,
  ⟨"busy", 0x1006000, 0x20000, 128, 0x4, 1, 21, 21, .ro, 0x0⟩,
  ⟨"delivery", 0x1006000, 0x20000, 128, 0x4, 1, 20, 20, .ro, 0x0⟩,
  ⟨"chain_bad", 0x1006000, 0x20000, 128, 0x4, 1, 3, 3, .w1c, 0x0⟩,
  ⟨"refused", 0x1006000, 0x20000, 128, 0x4, 1, 2, 2, .w1c, 0x0⟩,
  ⟨"poison", 0x1006000, 0x20000, 128, 0x4, 1, 1, 1, .w1c, 0x0⟩,
  ⟨"special", 0x1006000, 0x20000, 128, 0x4, 1, 0, 0, .w1c, 0x0⟩,
  ⟨"live", 0x1006004, 0x20000, 128, 0x4, 1, 31, 0, .ro, 0x0⟩,
  ⟨"code", 0x1006008, 0x20000, 128, 0x4, 1, 23, 16, .ro, 0x0⟩,
  ⟨"opcode", 0x1006008, 0x20000, 128, 0x4, 1, 7, 0, .ro, 0x0⟩,
  ⟨"addr_lo", 0x100600C, 0x20000, 128, 0x4, 1, 31, 0, .ro, 0x0⟩,
  ⟨"addr_hi", 0x1006010, 0x20000, 128, 0x4, 1, 19, 0, .ro, 0x0⟩,
  ⟨"chain_bad_addr", 0x1006014, 0x20000, 128, 0x4, 1, 22, 0, .ro, 0x0⟩,
  ⟨"special_lo", 0x1006018, 0x20000, 128, 0x4, 1, 31, 0, .ro, 0x0⟩,
  ⟨"special_hi", 0x100601C, 0x20000, 128, 0x4, 1, 31, 0, .ro, 0x0⟩,
  ⟨"special_count", 0x1006020, 0x20000, 128, 0x4, 1, 31, 0, .ro, 0x0⟩,
  ⟨"poison_count", 0x1006024, 0x20000, 128, 0x4, 1, 31, 0, .ro, 0x0⟩,
  ⟨"refused_count", 0x1006028, 0x20000, 128, 0x4, 1, 31, 0, .ro, 0x0⟩,
  ⟨"chain_bad_count", 0x100602C, 0x20000, 128, 0x4, 1, 31, 0, .ro, 0x0⟩,
  ⟨"tiles", 0x1006040, 0x20000, 128, 0x4, 1, 31, 0, .ro, 0x0⟩,
  ⟨"busy_cycles", 0x1006044, 0x20000, 128, 0x4, 1, 31, 0, .ro, 0x0⟩,
  ⟨"records", 0x1006048, 0x20000, 128, 0x4, 1, 31, 0, .ro, 0x0⟩,
  ⟨"delivery_cycles", 0x100604C, 0x20000, 128, 0x4, 1, 31, 0, .ro, 0x0⟩,
  ⟨"gap_port", 0x1006050, 0x20000, 128, 0x4, 1, 31, 0, .ro, 0x0⟩,
  ⟨"gap_governor", 0x1006054, 0x20000, 128, 0x4, 1, 31, 0, .ro, 0x0⟩,
  ⟨"idle_cycles", 0x1006058, 0x20000, 128, 0x4, 1, 31, 0, .ro, 0x0⟩,
  ⟨"merge_cut", 0x100605C, 0x20000, 128, 0x4, 1, 31, 0, .ro, 0x0⟩,
  ⟨"save_cycles", 0x1006060, 0x20000, 128, 0x4, 1, 31, 0, .ro, 0x0⟩]

/-- Fields of block XP (Table 8.10). -/
def regsXP0 : List RegField := [
  ⟨"queued", 0x1008000, 0x20000, 128, 0x4, 1, 27, 24, .ro, 0x0⟩,
  ⟨"busy_me", 0x1008000, 0x20000, 128, 0x4, 1, 21, 21, .ro, 0x0⟩,
  ⟨"busy_mv", 0x1008000, 0x20000, 128, 0x4, 1, 20, 20, .ro, 0x0⟩,
  ⟨"protected", 0x1008000, 0x20000, 128, 0x4, 1, 3, 3, .w1c, 0x0⟩,
  ⟨"slot_busy", 0x1008000, 0x20000, 128, 0x4, 1, 2, 2, .w1c, 0x0⟩,
  ⟨"poison", 0x1008000, 0x20000, 128, 0x4, 1, 1, 1, .w1c, 0x0⟩,
  ⟨"error", 0x1008000, 0x20000, 128, 0x4, 1, 0, 0, .w1c, 0x0⟩,
  ⟨"slot_valid", 0x1008004, 0x20000, 128, 0x4, 1, 15, 0, .ro, 0x0⟩,
  ⟨"code", 0x1008008, 0x20000, 128, 0x4, 1, 23, 16, .ro, 0x0⟩,
  ⟨"client", 0x1008008, 0x20000, 128, 0x4, 1, 9, 8, .ro, 0x0⟩,
  ⟨"opcode", 0x1008008, 0x20000, 128, 0x4, 1, 7, 0, .ro, 0x0⟩,
  ⟨"addr_lo", 0x100800C, 0x20000, 128, 0x4, 1, 31, 0, .ro, 0x0⟩,
  ⟨"addr_hi", 0x1008010, 0x20000, 128, 0x4, 1, 19, 0, .ro, 0x0⟩,
  ⟨"err_block", 0x1008014, 0x20000, 128, 0x4, 1, 31, 0, .ro, 0x0⟩,
  ⟨"error_count", 0x1008020, 0x20000, 128, 0x4, 1, 31, 0, .ro, 0x0⟩,
  ⟨"poison_count", 0x1008024, 0x20000, 128, 0x4, 1, 31, 0, .ro, 0x0⟩,
  ⟨"slot_busy_count", 0x1008028, 0x20000, 128, 0x4, 1, 31, 0, .ro, 0x0⟩,
  ⟨"protected_count", 0x100802C, 0x20000, 128, 0x4, 1, 31, 0, .ro, 0x0⟩,
  ⟨"blocks_table", 0x1008040, 0x20000, 128, 0x4, 1, 31, 0, .ro, 0x0⟩,
  ⟨"blocks_raw", 0x1008044, 0x20000, 128, 0x4, 1, 31, 0, .ro, 0x0⟩,
  ⟨"plain_units", 0x1008048, 0x20000, 128, 0x4, 1, 31, 0, .ro, 0x0⟩,
  ⟨"out_units", 0x100804C, 0x20000, 128, 0x4, 1, 31, 0, .ro, 0x0⟩,
  ⟨"in_units", 0x1008050, 0x20000, 128, 0x4, 1, 31, 0, .ro, 0x0⟩,
  ⟨"lag_cycles", 0x1008054, 0x20000, 128, 0x4, 1, 31, 0, .ro, 0x0⟩,
  ⟨"decode_cycles", 0x1008058, 0x20000, 128, 0x4, 1, 31, 0, .ro, 0x0⟩,
  ⟨"table_loads", 0x100805C, 0x20000, 128, 0x4, 1, 31, 0, .ro, 0x0⟩,
  ⟨"version", 0x1008100, 0x20000, 128, 0x8, 16, 31, 16, .ro, 0x0⟩,
  ⟨"valid", 0x1008100, 0x20000, 128, 0x8, 16, 0, 0, .ro, 0x0⟩,
  ⟨"refs", 0x1008104, 0x20000, 128, 0x8, 16, 31, 27, .ro, 0x0⟩,
  ⟨"mirror", 0x1008104, 0x20000, 128, 0x8, 16, 17, 17, .ro, 0x0⟩,
  ⟨"ref_sync", 0x1008104, 0x20000, 128, 0x8, 16, 16, 0, .ro, 0x0⟩,
  ⟨"slot_image", 0x1009000, 0x20000, 128, 0x4, 1024, 31, 0, .ro, 0x0⟩]

/-- Fields of block SQ (Tables 9.6, 12.15, 13.5). -/
def regsSQ0 : List RegField := [
  ⟨"oob_report", 0x1001F00, 0x20000, 128, 0x4, 1, 0, 0, .w1c, 0x0⟩,
  ⟨"engine", 0x1001F04, 0x20000, 128, 0x4, 1, 31, 30, .ro, 0x0⟩,
  ⟨"desc", 0x1001F04, 0x20000, 128, 0x4, 1, 22, 0, .ro, 0x0⟩,
  ⟨"row", 0x1001F08, 0x20000, 128, 0x4, 1, 31, 0, .ro, 0x0⟩,
  ⟨"col", 0x1001F0C, 0x20000, 128, 0x4, 1, 31, 0, .ro, 0x0⟩,
  ⟨"report_count", 0x1001F10, 0x20000, 128, 0x4, 1, 31, 0, .ro, 0x0⟩,
  ⟨"oob_writes", 0x1001F14, 0x20000, 128, 0x4, 1, 31, 0, .ro, 0x0⟩,
  ⟨"oob_reads", 0x1001F18, 0x20000, 128, 0x4, 1, 31, 0, .ro, 0x0⟩,
  ⟨"state", 0x1000000, 0x20000, 128, 0x4, 1, 31, 28, .ro, 0x0⟩,
  ⟨"dma_queued", 0x1000000, 0x20000, 128, 0x4, 1, 27, 24, .ro, 0x0⟩,
  ⟨"cs_ue", 0x1000000, 0x20000, 128, 0x4, 1, 4, 4, .w1c, 0x0⟩,
  ⟨"cs_ce", 0x1000000, 0x20000, 128, 0x4, 1, 3, 3, .w1c, 0x0⟩,
  ⟨"enq_fail", 0x1000000, 0x20000, 128, 0x4, 1, 2, 2, .w1c, 0x0⟩,
  ⟨"dma_refused", 0x1000000, 0x20000, 128, 0x4, 1, 1, 1, .w1c, 0x0⟩,
  ⟨"refused", 0x1000000, 0x20000, 128, 0x4, 1, 0, 0, .w1c, 0x0⟩,
  ⟨"gen", 0x1000004, 0x20000, 128, 0x4, 1, 31, 28, .ro, 0x0⟩,
  ⟨"channel", 0x1000004, 0x20000, 128, 0x4, 1, 23, 12, .ro, 0x0⟩,
  ⟨"as", 0x1000004, 0x20000, 128, 0x4, 1, 9, 0, .ro, 0x0⟩,
  ⟨"pc_lo", 0x1000008, 0x20000, 128, 0x4, 1, 31, 0, .ro, 0x0⟩,
  ⟨"pc_hi", 0x100000C, 0x20000, 128, 0x4, 1, 19, 0, .ro, 0x0⟩,
  ⟨"task_ops", 0x1000010, 0x20000, 128, 0x4, 1, 31, 0, .ro, 0x0⟩,
  ⟨"waiting", 0x1000014, 0x20000, 128, 0x4, 1, 31, 31, .ro, 0x0⟩,
  ⟨"sync", 0x1000014, 0x20000, 128, 0x4, 1, 16, 0, .ro, 0x0⟩,
  ⟨"code", 0x1000018, 0x20000, 128, 0x4, 1, 23, 16, .ro, 0x0⟩,
  ⟨"opcode", 0x1000018, 0x20000, 128, 0x4, 1, 7, 0, .ro, 0x0⟩,
  ⟨"addr_lo", 0x100001C, 0x20000, 128, 0x4, 1, 31, 0, .ro, 0x0⟩,
  ⟨"addr_hi", 0x1000020, 0x20000, 128, 0x4, 1, 19, 0, .ro, 0x0⟩,
  ⟨"code", 0x1000024, 0x20000, 128, 0x4, 1, 23, 16, .ro, 0x0⟩,
  ⟨"opcode", 0x1000024, 0x20000, 128, 0x4, 1, 7, 0, .ro, 0x0⟩,
  ⟨"size", 0x1000030, 0x20000, 128, 0x4, 1, 26, 16, .rw, 0x0⟩,
  ⟨"base", 0x1000030, 0x20000, 128, 0x4, 1, 10, 0, .rw, 0x0⟩,
  ⟨"arrive", 0x1000034, 0x20000, 128, 0x4, 1, 31, 0, .ro, 0x0⟩,
  ⟨"read", 0x1000038, 0x20000, 128, 0x4, 1, 31, 0, .ro, 0x0⟩,
  ⟨"free", 0x100003C, 0x20000, 128, 0x4, 1, 31, 0, .ro, 0x0⟩,
  ⟨"refused_count", 0x1000040, 0x20000, 128, 0x4, 1, 31, 0, .ro, 0x0⟩,
  ⟨"dma_refused_count", 0x1000044, 0x20000, 128, 0x4, 1, 31, 0, .ro, 0x0⟩,
  ⟨"enq_fail_count", 0x1000048, 0x20000, 128, 0x4, 1, 31, 0, .ro, 0x0⟩,
  ⟨"cs_ce_count", 0x100004C, 0x20000, 128, 0x4, 1, 31, 0, .ro, 0x0⟩,
  ⟨"cs_ue_count", 0x1000050, 0x20000, 128, 0x4, 1, 31, 0, .ro, 0x0⟩,
  ⟨"tasks", 0x1000060, 0x20000, 128, 0x4, 1, 31, 0, .ro, 0x0⟩,
  ⟨"ops", 0x1000064, 0x20000, 128, 0x4, 1, 31, 0, .ro, 0x0⟩,
  ⟨"enq_ok", 0x1000068, 0x20000, 128, 0x4, 1, 31, 0, .ro, 0x0⟩,
  ⟨"enq_full", 0x100006C, 0x20000, 128, 0x4, 1, 31, 0, .ro, 0x0⟩,
  ⟨"enq_depth", 0x1000070, 0x20000, 128, 0x4, 1, 31, 0, .ro, 0x0⟩,
  ⟨"wait_cycles", 0x1000074, 0x20000, 128, 0x4, 1, 31, 0, .ro, 0x0⟩,
  ⟨"dma_units", 0x1000078, 0x20000, 128, 0x4, 1, 31, 0, .ro, 0x0⟩,
  ⟨"relay_full", 0x100007C, 0x20000, 128, 0x4, 1, 31, 0, .ro, 0x0⟩,
  ⟨"enable", 0x1000080, 0x20000, 128, 0x4, 1, 31, 31, .rw, 0x0⟩,
  ⟨"base", 0x1000080, 0x20000, 128, 0x4, 1, 10, 0, .rw, 0x0⟩,
  ⟨"depth", 0x1000084, 0x20000, 128, 0x4, 1, 31, 30, .ro, 0x0⟩,
  ⟨"level", 0x1000084, 0x20000, 128, 0x4, 1, 29, 28, .ro, 0x0⟩,
  ⟨"preempted", 0x1000084, 0x20000, 128, 0x4, 1, 0, 0, .w1c, 0x0⟩,
  ⟨"preempt_count", 0x1000088, 0x20000, 128, 0x4, 1, 31, 0, .ro, 0x0⟩,
  ⟨"last_latency", 0x100008C, 0x20000, 128, 0x4, 1, 31, 0, .ro, 0x0⟩,
  ⟨"max_latency", 0x1000090, 0x20000, 128, 0x4, 1, 31, 0, .rc, 0x0⟩,
  ⟨"resumes", 0x1000094, 0x20000, 128, 0x4, 1, 31, 0, .ro, 0x0⟩]

/-- Fields of block MC (Table 10.4). -/
def regsMC0 : List RegField := [
  ⟨"state", 0x100000, 0x800, 384, 0x4, 1, 31, 28, .ro, 0x0⟩,
  ⟨"point_queued", 0x100000, 0x800, 384, 0x4, 1, 14, 8, .ro, 0x0⟩,
  ⟨"failed", 0x100000, 0x800, 384, 0x4, 1, 2, 2, .w1c, 0x0⟩,
  ⟨"ue", 0x100000, 0x800, 384, 0x4, 1, 1, 1, .w1c, 0x0⟩,
  ⟨"ce", 0x100000, 0x800, 384, 0x4, 1, 0, 0, .w1c, 0x0⟩,
  ⟨"ue_addr_lo", 0x100004, 0x800, 384, 0x4, 1, 31, 0, .ro, 0x0⟩,
  ⟨"ue_addr_hi", 0x100008, 0x800, 384, 0x4, 1, 15, 0, .ro, 0x0⟩,
  ⟨"source", 0x10000C, 0x800, 384, 0x4, 1, 1, 0, .ro, 0x0⟩,
  ⟨"point_weight", 0x100010, 0x800, 384, 0x4, 1, 7, 4, .rw, 0x8⟩,
  ⟨"stream_weight", 0x100010, 0x800, 384, 0x4, 1, 3, 0, .rw, 0x8⟩,
  ⟨"enable", 0x100014, 0x800, 384, 0x4, 1, 16, 16, .rw, 0x1⟩,
  ⟨"interval", 0x100014, 0x800, 384, 0x4, 1, 15, 0, .rw, 0x3F⟩,
  ⟨"scrub_pos", 0x100018, 0x800, 384, 0x4, 1, 22, 0, .ro, 0x0⟩,
  ⟨"ce_count", 0x100020, 0x800, 384, 0x4, 1, 31, 0, .ro, 0x0⟩,
  ⟨"ue_count", 0x100024, 0x800, 384, 0x4, 1, 31, 0, .ro, 0x0⟩,
  ⟨"failed_count", 0x100028, 0x800, 384, 0x4, 1, 31, 0, .ro, 0x0⟩,
  ⟨"point_reads", 0x100040, 0x800, 384, 0x4, 1, 31, 0, .ro, 0x0⟩,
  ⟨"point_merges", 0x100044, 0x800, 384, 0x4, 1, 31, 0, .ro, 0x0⟩,
  ⟨"stream_reads", 0x100048, 0x800, 384, 0x4, 1, 31, 0, .ro, 0x0⟩,
  ⟨"stream_writes", 0x10004C, 0x800, 384, 0x4, 1, 31, 0, .ro, 0x0⟩,
  ⟨"partial_writes", 0x100050, 0x800, 384, 0x4, 1, 31, 0, .ro, 0x0⟩,
  ⟨"poison_reads", 0x100054, 0x800, 384, 0x4, 1, 31, 0, .ro, 0x0⟩,
  ⟨"poison_writes", 0x100058, 0x800, 384, 0x4, 1, 31, 0, .ro, 0x0⟩,
  ⟨"dropped_writes", 0x10005C, 0x800, 384, 0x4, 1, 31, 0, .ro, 0x0⟩,
  ⟨"scrubbed", 0x100060, 0x800, 384, 0x4, 1, 31, 0, .ro, 0x0⟩,
  ⟨"max_age", 0x100064, 0x800, 384, 0x4, 1, 31, 0, .rc, 0x0⟩]

/-- Fields of block MS (Table 10.5). -/
def regsMS0 : List RegField := [
  ⟨"flushing", 0xD0000, 0x1000, 16, 0x4, 1, 16, 16, .ro, 0x0⟩,
  ⟨"ue", 0xD0000, 0x1000, 16, 0x4, 1, 1, 1, .w1c, 0x0⟩,
  ⟨"ce", 0xD0000, 0x1000, 16, 0x4, 1, 0, 0, .w1c, 0x0⟩,
  ⟨"flush", 0xD0004, 0x1000, 16, 0x4, 1, 15, 0, .w1s, 0x0⟩,
  ⟨"unkeep", 0xD0008, 0x1000, 16, 0x4, 1, 15, 0, .w1s, 0x0⟩,
  ⟨"ce_count", 0xD0010, 0x1000, 16, 0x4, 1, 31, 0, .ro, 0x0⟩,
  ⟨"ue_count", 0xD0014, 0x1000, 16, 0x4, 1, 31, 0, .ro, 0x0⟩,
  ⟨"read_hits", 0xD0040, 0x1000, 16, 0x4, 1, 31, 0, .ro, 0x0⟩,
  ⟨"read_misses", 0xD0044, 0x1000, 16, 0x4, 1, 31, 0, .ro, 0x0⟩,
  ⟨"write_hits", 0xD0048, 0x1000, 16, 0x4, 1, 31, 0, .ro, 0x0⟩,
  ⟨"write_misses", 0xD004C, 0x1000, 16, 0x4, 1, 31, 0, .ro, 0x0⟩,
  ⟨"allocs", 0xD0050, 0x1000, 16, 0x4, 1, 31, 0, .ro, 0x0⟩,
  ⟨"alloc_refused", 0xD0054, 0x1000, 16, 0x4, 1, 31, 0, .ro, 0x0⟩,
  ⟨"writebacks", 0xD0058, 0x1000, 16, 0x4, 1, 31, 0, .ro, 0x0⟩,
  ⟨"last_discards", 0xD005C, 0x1000, 16, 0x4, 1, 31, 0, .ro, 0x0⟩,
  ⟨"evictions", 0xD0060, 0x1000, 16, 0x4, 1, 31, 0, .ro, 0x0⟩,
  ⟨"keep_lines", 0xD0100, 0x1000, 16, 0x8, 16, 16, 0, .ro, 0x0⟩,
  ⟨"last_lines", 0xD0104, 0x1000, 16, 0x8, 16, 16, 0, .ro, 0x0⟩]

/-- Fields of block TR (Table 11.12). -/
def regsTR0 : List RegField := [
  ⟨"open", 0x80000, 0x2000000, 1, 0x4, 1, 31, 23, .ro, 0x0⟩,
  ⟨"import_denied", 0x80000, 0x2000000, 1, 0x4, 1, 4, 4, .w1c, 0x0⟩,
  ⟨"inv_refused", 0x80000, 0x2000000, 1, 0x4, 1, 3, 3, .w1c, 0x0⟩,
  ⟨"hot", 0x80000, 0x2000000, 1, 0x4, 1, 2, 2, .w1c, 0x0⟩,
  ⟨"inv_done", 0x80000, 0x2000000, 1, 0x4, 1, 1, 1, .w1c, 0x0⟩,
  ⟨"fault", 0x80000, 0x2000000, 1, 0x4, 1, 0, 0, .w1c, 0x0⟩,
  ⟨"fault_count", 0x80010, 0x2000000, 1, 0x4, 1, 31, 0, .ro, 0x0⟩,
  ⟨"inv_done", 0x80014, 0x2000000, 1, 0x4, 1, 31, 0, .ro, 0x0⟩,
  ⟨"hot_count", 0x80018, 0x2000000, 1, 0x4, 1, 31, 0, .ro, 0x0⟩,
  ⟨"inv_refused_count", 0x8001C, 0x2000000, 1, 0x4, 1, 31, 0, .ro, 0x0⟩,
  ⟨"import_denied_count", 0x80020, 0x2000000, 1, 0x4, 1, 31, 0, .ro, 0x0⟩,
  ⟨"walks", 0x80040, 0x2000000, 1, 0x4, 1, 31, 0, .ro, 0x0⟩,
  ⟨"walk_shares", 0x80044, 0x2000000, 1, 0x4, 1, 31, 0, .ro, 0x0⟩,
  ⟨"walk_cache_hits", 0x80048, 0x2000000, 1, 0x4, 1, 31, 0, .ro, 0x0⟩,
  ⟨"scout_walks", 0x8004C, 0x2000000, 1, 0x4, 1, 31, 0, .ro, 0x0⟩,
  ⟨"table_full", 0x80050, 0x2000000, 1, 0x4, 1, 31, 0, .ro, 0x0⟩,
  ⟨"facet", 0x80100, 0x2000000, 1, 0x4, 1, 19, 16, .rw, 0x0⟩,
  ⟨"as", 0x80100, 0x2000000, 1, 0x4, 1, 9, 0, .rw, 0x0⟩,
  ⟨"va_lo", 0x80104, 0x2000000, 1, 0x4, 1, 31, 16, .rw, 0x0⟩,
  ⟨"va_hi", 0x80108, 0x2000000, 1, 0x4, 1, 19, 0, .rw, 0x0⟩,
  ⟨"pages", 0x8010C, 0x2000000, 1, 0x4, 1, 31, 0, .rw, 0x0⟩,
  ⟨"go", 0x80110, 0x2000000, 1, 0x4, 1, 31, 31, .wo, 0x0⟩,
  ⟨"kind", 0x80110, 0x2000000, 1, 0x4, 1, 29, 28, .rw, 0x0⟩,
  ⟨"sync_en", 0x80110, 0x2000000, 1, 0x4, 1, 24, 24, .rw, 0x0⟩,
  ⟨"sync", 0x80110, 0x2000000, 1, 0x4, 1, 16, 0, .rw, 0x0⟩,
  ⟨"phase", 0x80114, 0x2000000, 1, 0x4, 1, 5, 4, .ro, 0x0⟩,
  ⟨"outstanding", 0x80114, 0x2000000, 1, 0x4, 1, 3, 0, .ro, 0x0⟩,
  ⟨"inv_issued", 0x80118, 0x2000000, 1, 0x4, 1, 31, 0, .ro, 0x0⟩,
  ⟨"threshold", 0x80200, 0x2000000, 1, 0x20, 16, 19, 0, .rw, 0x0⟩,
  ⟨"base_lo", 0x80204, 0x2000000, 1, 0x20, 16, 31, 12, .rw, 0x0⟩,
  ⟨"base_hi", 0x80208, 0x2000000, 1, 0x20, 16, 15, 0, .rw, 0x0⟩,
  ⟨"clear", 0x8020C, 0x2000000, 1, 0x20, 16, 4, 4, .w1s, 0x0⟩,
  ⟨"size", 0x8020C, 0x2000000, 1, 0x20, 16, 3, 0, .rw, 0x0⟩,
  ⟨"prod", 0x80210, 0x2000000, 1, 0x20, 16, 31, 0, .ro, 0x0⟩,
  ⟨"cons", 0x80214, 0x2000000, 1, 0x20, 16, 31, 0, .rw, 0x0⟩,
  ⟨"hot_dropped", 0x80218, 0x2000000, 1, 0x20, 16, 31, 0, .ro, 0x0⟩,
  ⟨"action", 0x80400, 0x2000000, 1, 0x4, 1, 31, 30, .wo, 0x0⟩,
  ⟨"entry", 0x80400, 0x2000000, 1, 0x4, 1, 7, 0, .wo, 0x0⟩,
  ⟨"pending", 0x80410, 0x2000000, 1, 0x4, 8, 31, 0, .ro, 0x0⟩,
  ⟨"fault_entry", 0x88000, 0x80, 256, 0x4, 32, 31, 0, .ro, 0x0⟩]

/-- Fields of block TRX (Table 11.13). -/
def regsTRX0 : List RegField := [
  ⟨"enable", 0x90000, 0x40, 1024, 0x4, 1, 31, 31, .rw, 0x0⟩,
  ⟨"facet", 0x90000, 0x40, 1024, 0x4, 1, 3, 0, .ro, 0x0⟩,
  ⟨"root_lo", 0x90004, 0x40, 1024, 0x4, 1, 31, 16, .rw, 0x0⟩,
  ⟨"root_hi", 0x90008, 0x40, 1024, 0x4, 1, 15, 0, .rw, 0x0⟩,
  ⟨"rwin_lo", 0x9000C, 0x40, 1024, 0x4, 1, 31, 10, .rw, 0x0⟩,
  ⟨"rwin_hi", 0x90010, 0x40, 1024, 0x4, 1, 15, 0, .rw, 0x0⟩,
  ⟨"faults", 0x90014, 0x40, 1024, 0x4, 1, 31, 0, .ro, 0x0⟩,
  ⟨"enable", 0xA0000, 0x10, 1024, 0x4, 1, 31, 31, .rw, 0x0⟩,
  ⟨"read", 0xA0000, 0x10, 1024, 0x4, 1, 30, 30, .rw, 0x0⟩,
  ⟨"write", 0xA0000, 0x10, 1024, 0x4, 1, 29, 29, .rw, 0x0⟩,
  ⟨"facet", 0xA0000, 0x10, 1024, 0x4, 1, 19, 16, .rw, 0x0⟩,
  ⟨"host_lo", 0xA0004, 0x10, 1024, 0x4, 1, 31, 16, .rw, 0x0⟩,
  ⟨"host_hi", 0xA0008, 0x10, 1024, 0x4, 1, 31, 0, .rw, 0x0⟩,
  ⟨"pages", 0xA000C, 0x10, 1024, 0x4, 1, 20, 0, .rw, 0x0⟩,
  ⟨"enable", 0xB0000, 0x10, 4096, 0x4, 1, 31, 31, .rw, 0x0⟩,
  ⟨"read", 0xB0000, 0x10, 4096, 0x4, 1, 30, 30, .rw, 0x0⟩,
  ⟨"write", 0xB0000, 0x10, 4096, 0x4, 1, 29, 29, .rw, 0x0⟩,
  ⟨"any_source", 0xB0000, 0x10, 4096, 0x4, 1, 28, 28, .rw, 0x0⟩,
  ⟨"from_twin", 0xB0000, 0x10, 4096, 0x4, 1, 27, 27, .rw, 0x0⟩,
  ⟨"facet", 0xB0000, 0x10, 4096, 0x4, 1, 23, 20, .rw, 0x0⟩,
  ⟨"src", 0xB0000, 0x10, 4096, 0x4, 1, 11, 0, .rw, 0x0⟩,
  ⟨"base_lo", 0xB0004, 0x10, 4096, 0x4, 1, 31, 16, .rw, 0x0⟩,
  ⟨"base_hi", 0xB0008, 0x10, 4096, 0x4, 1, 15, 0, .rw, 0x0⟩,
  ⟨"pages", 0xB000C, 0x10, 4096, 0x4, 1, 24, 0, .rw, 0x0⟩]

/-- Fields of block TRC (Table 11.14). -/
def regsTRC0 : List RegField := [
  ⟨"fault_wait", 0x100C000, 0x20000, 128, 0x4, 1, 19, 16, .ro, 0x0⟩,
  ⟨"valid", 0x100C000, 0x20000, 128, 0x4, 1, 9, 0, .ro, 0x0⟩,
  ⟨"prefetched", 0x100C004, 0x20000, 128, 0x4, 1, 7, 0, .ro, 0x0⟩,
  ⟨"flush", 0x100C008, 0x20000, 128, 0x4, 1, 0, 0, .w1s, 0x0⟩,
  ⟨"hits", 0x100C020, 0x20000, 128, 0x4, 1, 31, 0, .ro, 0x0⟩,
  ⟨"misses", 0x100C024, 0x20000, 128, 0x4, 1, 31, 0, .ro, 0x0⟩,
  ⟨"miss_stall", 0x100C028, 0x20000, 128, 0x4, 1, 31, 0, .ro, 0x0⟩,
  ⟨"fault_stall", 0x100C02C, 0x20000, 128, 0x4, 1, 31, 0, .ro, 0x0⟩,
  ⟨"scout_walks", 0x100C030, 0x20000, 128, 0x4, 1, 31, 0, .ro, 0x0⟩,
  ⟨"scout_used", 0x100C034, 0x20000, 128, 0x4, 1, 31, 0, .ro, 0x0⟩,
  ⟨"scout_evicted", 0x100C038, 0x20000, 128, 0x4, 1, 31, 0, .ro, 0x0⟩,
  ⟨"scout_discarded", 0x100C03C, 0x20000, 128, 0x4, 1, 31, 0, .ro, 0x0⟩]

/-- Fields of block FE (Table 12.13). -/
def regsFE0 : List RegField := [
  ⟨"enable", 0x200000, 0x100, 4096, 0x4, 1, 31, 31, .rw, 0x0⟩,
  ⟨"ring_k", 0x200000, 0x100, 4096, 0x4, 1, 29, 26, .rw, 0x0⟩,
  ⟨"cmpl_k", 0x200000, 0x100, 4096, 0x4, 1, 25, 22, .rw, 0x0⟩,
  ⟨"priority", 0x200000, 0x100, 4096, 0x4, 1, 21, 20, .rw, 0x0⟩,
  ⟨"as", 0x200000, 0x100, 4096, 0x4, 1, 19, 10, .rw, 0x0⟩,
  ⟨"client", 0x200000, 0x100, 4096, 0x4, 1, 9, 0, .rw, 0x0⟩,
  ⟨"ring_lo", 0x200004, 0x100, 4096, 0x4, 1, 31, 6, .rw, 0x0⟩,
  ⟨"ring_hi", 0x200008, 0x100, 4096, 0x4, 1, 15, 0, .rw, 0x0⟩,
  ⟨"cmpl_lo", 0x20000C, 0x100, 4096, 0x4, 1, 31, 5, .rw, 0x0⟩,
  ⟨"cmpl_hi", 0x200010, 0x100, 4096, 0x4, 1, 15, 0, .rw, 0x0⟩,
  ⟨"gen", 0x200014, 0x100, 4096, 0x4, 1, 31, 16, .wo, 0x0⟩,
  ⟨"prod", 0x200014, 0x100, 4096, 0x4, 1, 15, 0, .wo, 0x0⟩,
  ⟨"read_state", 0x200018, 0x100, 4096, 0x4, 1, 31, 30, .ro, 0x0⟩,
  ⟨"held", 0x200018, 0x100, 4096, 0x4, 1, 29, 29, .ro, 0x0⟩,
  ⟨"outstanding", 0x200018, 0x100, 4096, 0x4, 1, 28, 24, .ro, 0x0⟩,
  ⟨"bad_doorbell", 0x200018, 0x100, 4096, 0x4, 1, 4, 4, .w1c, 0x0⟩,
  ⟨"refused", 0x200018, 0x100, 4096, 0x4, 1, 3, 3, .w1c, 0x0⟩,
  ⟨"hold", 0x200018, 0x100, 4096, 0x4, 1, 2, 2, .w1c, 0x0⟩,
  ⟨"park", 0x200018, 0x100, 4096, 0x4, 1, 1, 1, .w1c, 0x0⟩,
  ⟨"release_hold", 0x20001C, 0x100, 4096, 0x4, 1, 1, 1, .w1s, 0x0⟩,
  ⟨"abort", 0x20001C, 0x100, 4096, 0x4, 1, 0, 0, .w1s, 0x0⟩,
  ⟨"cons", 0x200020, 0x100, 4096, 0x4, 1, 31, 0, .ro, 0x0⟩,
  ⟨"prod", 0x200024, 0x100, 4096, 0x4, 1, 31, 0, .ro, 0x0⟩,
  ⟨"cmpl_prod", 0x200028, 0x100, 4096, 0x4, 1, 31, 0, .ro, 0x0⟩,
  ⟨"cmpl_cons", 0x20002C, 0x100, 4096, 0x4, 1, 31, 0, .rw, 0x0⟩,
  ⟨"fb_count", 0x200030, 0x100, 4096, 0x4, 1, 31, 0, .ro, 0x0⟩,
  ⟨"park_count", 0x200040, 0x100, 4096, 0x4, 1, 31, 0, .ro, 0x0⟩,
  ⟨"hold_count", 0x200044, 0x100, 4096, 0x4, 1, 31, 0, .ro, 0x0⟩,
  ⟨"refused_count", 0x200048, 0x100, 4096, 0x4, 1, 31, 0, .ro, 0x0⟩,
  ⟨"bad_doorbell_count", 0x20004C, 0x100, 4096, 0x4, 1, 31, 0, .ro, 0x0⟩,
  ⟨"rereads", 0x200050, 0x100, 4096, 0x4, 1, 31, 0, .ro, 0x0⟩,
  ⟨"started", 0x200054, 0x100, 4096, 0x4, 1, 31, 0, .ro, 0x0⟩,
  ⟨"completed", 0x200058, 0x100, 4096, 0x4, 1, 31, 0, .ro, 0x0⟩,
  ⟨"progress", 0x20005C, 0x100, 4096, 0x4, 1, 31, 0, .ro, 0x0⟩,
  ⟨"resv_wait", 0x200060, 0x100, 4096, 0x4, 1, 31, 0, .ro, 0x0⟩]

/-- Fields of block FEG (Tables 12.14, 13.4). -/
def regsFEG0 : List RegField := [
  ⟨"fallback", 0x300000, 0x2000000, 1, 0x4, 1, 0, 0, .w1c, 0x0⟩,
  ⟨"fb_count", 0x300004, 0x2000000, 1, 0x4, 1, 31, 0, .ro, 0x0⟩,
  ⟨"greg_lo", 0x301000, 0x2000000, 1, 0x8, 1024, 31, 12, .rw, 0x0⟩,
  ⟨"greg_hi", 0x301004, 0x2000000, 1, 0x8, 1024, 15, 0, .rw, 0x0⟩,
  ⟨"base_lo", 0x304000, 0x2000000, 1, 0x40, 16, 31, 12, .rw, 0x0⟩,
  ⟨"base_hi", 0x304004, 0x2000000, 1, 0x40, 16, 15, 0, .rw, 0x0⟩,
  ⟨"size", 0x304008, 0x2000000, 1, 0x40, 16, 3, 0, .rw, 0x0⟩,
  ⟨"prod", 0x30400C, 0x2000000, 1, 0x40, 16, 31, 0, .ro, 0x0⟩,
  ⟨"cons", 0x304010, 0x2000000, 1, 0x40, 16, 31, 0, .rw, 0x0⟩,
  ⟨"enable", 0x308000, 0x2000000, 1, 0x10, 256, 31, 31, .rw, 0x0⟩,
  ⟨"size", 0x308000, 0x2000000, 1, 0x10, 256, 3, 0, .rw, 0x0⟩,
  ⟨"base_lo", 0x308004, 0x2000000, 1, 0x10, 256, 31, 12, .rw, 0x0⟩,
  ⟨"base_hi", 0x308008, 0x2000000, 1, 0x10, 256, 15, 0, .rw, 0x0⟩,
  ⟨"reserved_total", 0x30800C, 0x2000000, 1, 0x10, 256, 31, 16, .ro, 0x0⟩,
  ⟨"occupancy", 0x30800C, 0x2000000, 1, 0x10, 256, 15, 0, .ro, 0x0⟩,
  ⟨"poison", 0x380000, 0x2000000, 1, 0x4, 131072, 31, 31, .ro, 0x0⟩,
  ⟨"owned", 0x380000, 0x2000000, 1, 0x4, 131072, 15, 15, .ro, 0x0⟩,
  ⟨"mirror", 0x380000, 0x2000000, 1, 0x4, 131072, 14, 14, .ro, 0x0⟩,
  ⟨"core", 0x380000, 0x2000000, 1, 0x4, 131072, 6, 0, .ro, 0x0⟩,
  ⟨"ready3", 0x309000, 0x2000000, 1, 0x40, 16, 31, 24, .ro, 0x0⟩,
  ⟨"ready2", 0x309000, 0x2000000, 1, 0x40, 16, 23, 16, .ro, 0x0⟩,
  ⟨"ready1", 0x309000, 0x2000000, 1, 0x40, 16, 15, 8, .ro, 0x0⟩,
  ⟨"ready0", 0x309000, 0x2000000, 1, 0x40, 16, 7, 0, .ro, 0x0⟩,
  ⟨"preemptions", 0x309004, 0x2000000, 1, 0x40, 16, 31, 0, .ro, 0x0⟩,
  ⟨"resumes", 0x309008, 0x2000000, 1, 0x40, 16, 31, 0, .ro, 0x0⟩,
  ⟨"saved", 0x30900C, 0x2000000, 1, 0x40, 16, 8, 0, .ro, 0x0⟩,
  ⟨"completed_lo", 0x30A000, 0x2000000, 1, 0x10, 1024, 31, 0, .ro, 0x0⟩,
  ⟨"completed_hi", 0x30A004, 0x2000000, 1, 0x10, 1024, 31, 0, .ro, 0x0⟩,
  ⟨"outstanding", 0x30A008, 0x2000000, 1, 0x10, 1024, 16, 0, .ro, 0x0⟩]

/-- Fields of block MF (Tables 14.8, 14.9). -/
def regsMF0 : List RegField := [
  ⟨"state", 0x70000, 0x100, 6, 0x4, 1, 31, 28, .ro, 0x0⟩,
  ⟨"cause", 0x70000, 0x100, 6, 0x4, 1, 19, 16, .ro, 0x0⟩,
  ⟨"lost", 0x70000, 0x100, 6, 0x4, 1, 3, 3, .w1c, 0x0⟩,
  ⟨"mismatch", 0x70000, 0x100, 6, 0x4, 1, 2, 2, .w1c, 0x0⟩,
  ⟨"down", 0x70000, 0x100, 6, 0x4, 1, 1, 1, .w1c, 0x0⟩,
  ⟨"up", 0x70000, 0x100, 6, 0x4, 1, 0, 0, .w1c, 0x0⟩,
  ⟨"peer", 0x70004, 0x100, 6, 0x4, 1, 11, 0, .ro, 0x0⟩,
  ⟨"retrain", 0x70008, 0x100, 6, 0x4, 1, 0, 0, .w1s, 0x0⟩,
  ⟨"up_count", 0x70010, 0x100, 6, 0x4, 1, 31, 0, .ro, 0x0⟩,
  ⟨"down_count", 0x70014, 0x100, 6, 0x4, 1, 31, 0, .ro, 0x0⟩,
  ⟨"mismatch_count", 0x70018, 0x100, 6, 0x4, 1, 31, 0, .ro, 0x0⟩,
  ⟨"lost_count", 0x7001C, 0x100, 6, 0x4, 1, 31, 0, .ro, 0x0⟩,
  ⟨"tx_flits", 0x70040, 0x100, 6, 0x4, 1, 31, 0, .ro, 0x0⟩,
  ⟨"rx_flits", 0x70044, 0x100, 6, 0x4, 1, 31, 0, .ro, 0x0⟩,
  ⟨"replays", 0x70048, 0x100, 6, 0x4, 1, 31, 0, .ro, 0x0⟩,
  ⟨"route_down", 0x7004C, 0x100, 6, 0x4, 1, 31, 0, .ro, 0x0⟩,
  ⟨"credit_stall", 0x70050, 0x100, 6, 0x4, 1, 31, 0, .ro, 0x0⟩,
  ⟨"bad_dest", 0x71000, 0x2000000, 1, 0x4, 1, 0, 0, .w1c, 0x0⟩,
  ⟨"bad_dest_count", 0x71004, 0x2000000, 1, 0x4, 1, 31, 0, .ro, 0x0⟩,
  ⟨"forwarded", 0x71040, 0x2000000, 1, 0x4, 1, 31, 0, .ro, 0x0⟩,
  ⟨"delivered", 0x71044, 0x2000000, 1, 0x4, 1, 31, 0, .ro, 0x0⟩,
  ⟨"injected", 0x71048, 0x2000000, 1, 0x4, 1, 31, 0, .ro, 0x0⟩,
  ⟨"late_answers", 0x7104C, 0x2000000, 1, 0x4, 1, 31, 0, .ro, 0x0⟩]

/-- Fields of block TW (Tables 14.8, 14.10). -/
def regsTW0 : List RegField := [
  ⟨"state", 0x60000, 0x2000000, 1, 0x4, 1, 31, 28, .ro, 0x0⟩,
  ⟨"cause", 0x60000, 0x2000000, 1, 0x4, 1, 27, 24, .ro, 0x0⟩,
  ⟨"diverged", 0x60000, 0x2000000, 1, 0x4, 1, 4, 4, .w1c, 0x0⟩,
  ⟨"stopped", 0x60000, 0x2000000, 1, 0x4, 1, 3, 3, .w1c, 0x0⟩,
  ⟨"mismatch", 0x60000, 0x2000000, 1, 0x4, 1, 2, 2, .w1c, 0x0⟩,
  ⟨"lost", 0x60000, 0x2000000, 1, 0x4, 1, 1, 1, .w1c, 0x0⟩,
  ⟨"paired", 0x60000, 0x2000000, 1, 0x4, 1, 0, 0, .w1c, 0x0⟩,
  ⟨"counts", 0x60020, 0x2000000, 1, 0x4, 5, 31, 0, .ro, 0x0⟩,
  ⟨"hb_sent", 0x60040, 0x2000000, 1, 0x4, 1, 31, 0, .ro, 0x0⟩,
  ⟨"hb_received", 0x60044, 0x2000000, 1, 0x4, 1, 31, 0, .ro, 0x0⟩,
  ⟨"since_hb", 0x60048, 0x2000000, 1, 0x4, 1, 31, 0, .ro, 0x0⟩,
  ⟨"enable", 0x60100, 0x40, 16, 0x4, 1, 31, 31, .rw, 0x0⟩,
  ⟨"ack_en", 0x60100, 0x40, 16, 0x4, 1, 30, 30, .rw, 0x0⟩,
  ⟨"size", 0x60100, 0x40, 16, 0x4, 1, 3, 0, .rw, 0x0⟩,
  ⟨"base_lo", 0x60104, 0x40, 16, 0x4, 1, 31, 12, .rw, 0x0⟩,
  ⟨"base_hi", 0x60108, 0x40, 16, 0x4, 1, 15, 0, .rw, 0x0⟩,
  ⟨"ack_sync", 0x6010C, 0x40, 16, 0x4, 1, 16, 0, .rw, 0x0⟩,
  ⟨"restart", 0x60110, 0x40, 16, 0x4, 1, 4, 4, .w1s, 0x0⟩,
  ⟨"stop_cause", 0x60110, 0x40, 16, 0x4, 1, 3, 2, .ro, 0x0⟩,
  ⟨"state", 0x60110, 0x40, 16, 0x4, 1, 1, 0, .ro, 0x0⟩,
  ⟨"next_seq", 0x60114, 0x40, 16, 0x4, 1, 31, 0, .ro, 0x1⟩,
  ⟨"next_seq", 0x60118, 0x40, 16, 0x4, 1, 31, 0, .ro, 0x0⟩,
  ⟨"acked_seq", 0x6011C, 0x40, 16, 0x4, 1, 31, 0, .ro, 0x0⟩,
  ⟨"acked_seq", 0x60120, 0x40, 16, 0x4, 1, 31, 0, .ro, 0x0⟩,
  ⟨"applied_seq", 0x60124, 0x40, 16, 0x4, 1, 31, 0, .ro, 0x0⟩,
  ⟨"applied_seq", 0x60128, 0x40, 16, 0x4, 1, 31, 0, .ro, 0x0⟩,
  ⟨"diverge_seq", 0x6012C, 0x40, 16, 0x4, 1, 31, 0, .ro, 0x0⟩,
  ⟨"diverge_seq", 0x60130, 0x40, 16, 0x4, 1, 31, 0, .ro, 0x0⟩,
  ⟨"diverge_status", 0x60134, 0x40, 16, 0x4, 1, 15, 0, .ro, 0x0⟩,
  ⟨"lost_records", 0x60138, 0x40, 16, 0x4, 1, 31, 0, .ro, 0x0⟩,
  ⟨"state", 0x60800, 0x2000000, 1, 0x4, 1, 31, 28, .ro, 0x0⟩,
  ⟨"cause", 0x60800, 0x2000000, 1, 0x4, 1, 19, 16, .ro, 0x0⟩,
  ⟨"lost", 0x60800, 0x2000000, 1, 0x4, 1, 3, 3, .w1c, 0x0⟩,
  ⟨"mismatch", 0x60800, 0x2000000, 1, 0x4, 1, 2, 2, .w1c, 0x0⟩,
  ⟨"down", 0x60800, 0x2000000, 1, 0x4, 1, 1, 1, .w1c, 0x0⟩,
  ⟨"up", 0x60800, 0x2000000, 1, 0x4, 1, 0, 0, .w1c, 0x0⟩,
  ⟨"peer", 0x60804, 0x2000000, 1, 0x4, 1, 11, 0, .ro, 0x0⟩,
  ⟨"retrain", 0x60808, 0x2000000, 1, 0x4, 1, 0, 0, .w1s, 0x0⟩,
  ⟨"up_count", 0x60810, 0x2000000, 1, 0x4, 1, 31, 0, .ro, 0x0⟩,
  ⟨"down_count", 0x60814, 0x2000000, 1, 0x4, 1, 31, 0, .ro, 0x0⟩,
  ⟨"mismatch_count", 0x60818, 0x2000000, 1, 0x4, 1, 31, 0, .ro, 0x0⟩,
  ⟨"lost_count", 0x6081C, 0x2000000, 1, 0x4, 1, 31, 0, .ro, 0x0⟩,
  ⟨"tx_flits", 0x60840, 0x2000000, 1, 0x4, 1, 31, 0, .ro, 0x0⟩,
  ⟨"rx_flits", 0x60844, 0x2000000, 1, 0x4, 1, 31, 0, .ro, 0x0⟩,
  ⟨"replays", 0x60848, 0x2000000, 1, 0x4, 1, 31, 0, .ro, 0x0⟩,
  ⟨"route_down", 0x6084C, 0x2000000, 1, 0x4, 1, 31, 0, .ro, 0x0⟩,
  ⟨"credit_stall", 0x60850, 0x2000000, 1, 0x4, 1, 31, 0, .ro, 0x0⟩]

/-- Fields of block HL (Table 15.7). -/
def regsHL0 : List RegField := [
  ⟨"host_state", 0x50000, 0x2000000, 1, 0x4, 1, 31, 28, .ro, 0x0⟩,
  ⟨"ekl_up", 0x50000, 0x2000000, 1, 0x4, 1, 27, 27, .ro, 0x0⟩,
  ⟨"pcie_up", 0x50000, 0x2000000, 1, 0x4, 1, 26, 26, .ro, 0x0⟩,
  ⟨"attach_fn", 0x50000, 0x2000000, 1, 0x4, 1, 19, 16, .ro, 0x0⟩,
  ⟨"rid_reject", 0x50000, 0x2000000, 1, 0x4, 1, 4, 4, .w1c, 0x0⟩,
  ⟨"fence_fail", 0x50000, 0x2000000, 1, 0x4, 1, 3, 3, .w1c, 0x0⟩,
  ⟨"ack_fail", 0x50000, 0x2000000, 1, 0x4, 1, 2, 2, .w1c, 0x0⟩,
  ⟨"attached", 0x50000, 0x2000000, 1, 0x4, 1, 1, 1, .w1c, 0x0⟩,
  ⟨"detached", 0x50000, 0x2000000, 1, 0x4, 1, 0, 0, .w1c, 0x0⟩,
  ⟨"session", 0x50004, 0x2000000, 1, 0x4, 1, 31, 0, .ro, 0x0⟩,
  ⟨"token", 0x50008, 0x2000000, 1, 0x4, 1, 31, 16, .rw, 0x0⟩,
  ⟨"detach", 0x50008, 0x2000000, 1, 0x4, 1, 2, 2, .w1s, 0x0⟩,
  ⟨"complete", 0x50008, 0x2000000, 1, 0x4, 1, 1, 1, .w1s, 0x0⟩,
  ⟨"request", 0x50008, 0x2000000, 1, 0x4, 1, 0, 0, .w1s, 0x0⟩,
  ⟨"echo", 0x5000C, 0x2000000, 1, 0x4, 1, 15, 0, .ro, 0x0⟩,
  ⟨"armed", 0x50010, 0x2000000, 1, 0x4, 1, 17, 17, .ro, 0x0⟩,
  ⟨"enforce", 0x50010, 0x2000000, 1, 0x4, 1, 16, 16, .rw, 0x0⟩,
  ⟨"rid", 0x50010, 0x2000000, 1, 0x4, 1, 15, 0, .rw, 0x0⟩,
  ⟨"relaxed", 0x50014, 0x2000000, 1, 0x4, 1, 0, 0, .rw, 0x0⟩,
  ⟨"detached_count", 0x50020, 0x2000000, 1, 0x4, 1, 31, 0, .ro, 0x0⟩,
  ⟨"attached_count", 0x50024, 0x2000000, 1, 0x4, 1, 31, 0, .ro, 0x0⟩,
  ⟨"ack_fail_count", 0x50028, 0x2000000, 1, 0x4, 1, 31, 0, .ro, 0x0⟩,
  ⟨"fence_fail_count", 0x5002C, 0x2000000, 1, 0x4, 1, 31, 0, .ro, 0x0⟩,
  ⟨"rid_reject_count", 0x50030, 0x2000000, 1, 0x4, 1, 31, 0, .ro, 0x0⟩,
  ⟨"win_fail_reads", 0x50040, 0x2000000, 1, 0x4, 1, 31, 0, .ro, 0x0⟩,
  ⟨"win_dropped_writes", 0x50044, 0x2000000, 1, 0x4, 1, 31, 0, .ro, 0x0⟩,
  ⟨"flush_reads", 0x50048, 0x2000000, 1, 0x4, 1, 31, 0, .ro, 0x0⟩,
  ⟨"irq_sent", 0x5004C, 0x2000000, 1, 0x4, 1, 31, 0, .ro, 0x0⟩,
  ⟨"enable", 0x50100, 0x2000000, 1, 0x4, 16, 31, 31, .rw, 0x0⟩,
  ⟨"facet", 0x50100, 0x2000000, 1, 0x4, 16, 19, 16, .rw, 0x0⟩,
  ⟨"base", 0x50100, 0x2000000, 1, 0x4, 16, 15, 0, .rw, 0x0⟩,
  ⟨"enable", 0x58000, 0x2000000, 1, 0x4, 4160, 31, 31, .rw, 0x0⟩,
  ⟨"pending", 0x58000, 0x2000000, 1, 0x4, 4160, 30, 30, .ro, 0x0⟩,
  ⟨"function", 0x58000, 0x2000000, 1, 0x4, 4160, 14, 11, .rw, 0x0⟩,
  ⟨"vector", 0x58000, 0x2000000, 1, 0x4, 4160, 10, 0, .rw, 0x0⟩]

/-- Fields of block AG (Table 16.6). -/
def regsAG0 : List RegField := [
  ⟨"measuring", 0x30000, 0x2000000, 1, 0x4, 1, 16, 16, .ro, 0x0⟩,
  ⟨"propose", 0x30000, 0x2000000, 1, 0x4, 1, 3, 3, .w1c, 0x0⟩,
  ⟨"bin", 0x30000, 0x2000000, 1, 0x4, 1, 2, 2, .w1c, 0x0⟩,
  ⟨"raise", 0x30000, 0x2000000, 1, 0x4, 1, 1, 1, .w1c, 0x0⟩,
  ⟨"measured", 0x30000, 0x2000000, 1, 0x4, 1, 0, 0, .w1c, 0x0⟩,
  ⟨"auto", 0x30004, 0x2000000, 1, 0x4, 1, 1, 1, .rw, 0x1⟩,
  ⟨"measure", 0x30004, 0x2000000, 1, 0x4, 1, 0, 0, .w1s, 0x0⟩,
  ⟨"guard", 0x30008, 0x2000000, 1, 0x4, 1, 31, 24, .rw, 0x8⟩,
  ⟨"propose_bin", 0x30008, 0x2000000, 1, 0x4, 1, 23, 20, .rw, 0x2⟩,
  ⟨"period", 0x30008, 0x2000000, 1, 0x4, 1, 15, 0, .rw, 0x3C⟩,
  ⟨"hours", 0x3000C, 0x2000000, 1, 0x4, 1, 31, 0, .ro, 0x0⟩,
  ⟨"counts", 0x30010, 0x2000000, 1, 0x4, 4, 31, 0, .ro, 0x0⟩,
  ⟨"index", 0x30040, 0x2000000, 1, 0x4, 1, 12, 0, .rw, 0x0⟩,
  ⟨"data", 0x30044, 0x2000000, 1, 0x4, 1, 31, 0, .ro, 0x0⟩,
  ⟨"count", 0x30048, 0x2000000, 1, 0x4, 1, 13, 0, .ro, 0x0⟩,
  ⟨"d", 0x31000, 0x2000000, 1, 0x4, 512, 31, 16, .ro, 0x0⟩,
  ⟨"slack", 0x32000, 0x2000000, 1, 0x8, 132, 31, 24, .ro, 0x0⟩,
  ⟨"min_slack", 0x32000, 0x2000000, 1, 0x8, 132, 23, 16, .ro, 0xFF⟩,
  ⟨"v_offset", 0x32004, 0x2000000, 1, 0x8, 132, 31, 24, .ro, 0x0⟩,
  ⟨"v_ceiling", 0x32004, 0x2000000, 1, 0x8, 132, 23, 16, .ro, 0x0⟩,
  ⟨"f_bin", 0x32004, 0x2000000, 1, 0x8, 132, 15, 12, .ro, 0x0⟩,
  ⟨"f_bin_pending", 0x32004, 0x2000000, 1, 0x8, 132, 11, 8, .ro, 0x0⟩,
  ⟨"pending", 0x32004, 0x2000000, 1, 0x8, 132, 1, 1, .ro, 0x0⟩,
  ⟨"propose", 0x32004, 0x2000000, 1, 0x8, 132, 0, 0, .ro, 0x0⟩]

/-- Fields of block TL (Table 17.13). -/
def regsTL0 : List RegField := [
  ⟨"diverged", 0x40000, 0x2000000, 1, 0x4, 1, 2, 2, .w1c, 0x0⟩,
  ⟨"loss", 0x40000, 0x2000000, 1, 0x4, 1, 1, 1, .w1c, 0x0⟩,
  ⟨"done", 0x40000, 0x2000000, 1, 0x4, 1, 0, 0, .w1c, 0x0⟩,
  ⟨"diverged_count", 0x40010, 0x2000000, 1, 0x4, 1, 31, 0, .ro, 0x0⟩,
  ⟨"loss_count", 0x40014, 0x2000000, 1, 0x4, 1, 31, 0, .ro, 0x0⟩,
  ⟨"done_count", 0x40018, 0x2000000, 1, 0x4, 1, 31, 0, .ro, 0x0⟩,
  ⟨"trip_lo", 0x40020, 0x2000000, 1, 0x4, 1, 31, 0, .ro, 0x1⟩,
  ⟨"trip_hi", 0x40024, 0x2000000, 1, 0x4, 1, 31, 0, .ro, 0x0⟩,
  ⟨"go", 0x40100, 0x2000000, 1, 0x10, 16, 31, 31, .w1s, 0x0⟩,
  ⟨"stop", 0x40100, 0x2000000, 1, 0x10, 16, 30, 30, .w1s, 0x0⟩,
  ⟨"state", 0x40100, 0x2000000, 1, 0x10, 16, 27, 24, .ro, 0x0⟩,
  ⟨"code", 0x40100, 0x2000000, 1, 0x10, 16, 23, 16, .ro, 0x0⟩,
  ⟨"forced", 0x40104, 0x2000000, 1, 0x10, 16, 31, 0, .ro, 0x0⟩,
  ⟨"div_channel", 0x40108, 0x2000000, 1, 0x10, 16, 11, 0, .ro, 0x0⟩,
  ⟨"div_trip", 0x4010C, 0x2000000, 1, 0x10, 16, 31, 0, .ro, 0x0⟩,
  ⟨"mode", 0x48000, 0x2000000, 1, 0x8, 4096, 31, 30, .rw, 0x0⟩,
  ⟨"size", 0x48000, 0x2000000, 1, 0x8, 4096, 19, 16, .rw, 0x0⟩,
  ⟨"base_hi", 0x48000, 0x2000000, 1, 0x8, 4096, 15, 0, .rw, 0x0⟩,
  ⟨"base_lo", 0x48004, 0x2000000, 1, 0x8, 4096, 31, 16, .rw, 0x0⟩,
  ⟨"mask", 0x48004, 0x2000000, 1, 0x8, 4096, 15, 0, .rw, 0x0⟩]

/-- Fields of block PW (Table 19.4). -/
def regsPW0 : List RegField := [
  ⟨"thermal_hold", 0x10000, 0x2000000, 1, 0x4, 1, 27, 27, .ro, 0x0⟩,
  ⟨"held", 0x10000, 0x2000000, 1, 0x4, 1, 26, 26, .ro, 0x0⟩,
  ⟨"vin_out", 0x10000, 0x2000000, 1, 0x4, 1, 4, 4, .w1c, 0x0⟩,
  ⟨"thermal", 0x10000, 0x2000000, 1, 0x4, 1, 3, 3, .w1c, 0x0⟩,
  ⟨"slow_over", 0x10000, 0x2000000, 1, 0x4, 1, 2, 2, .w1c, 0x0⟩,
  ⟨"peak_over", 0x10000, 0x2000000, 1, 0x4, 1, 1, 1, .w1c, 0x0⟩,
  ⟨"excursion", 0x10000, 0x2000000, 1, 0x4, 1, 0, 0, .w1c, 0x0⟩,
  ⟨"counts", 0x10010, 0x2000000, 1, 0x4, 5, 31, 0, .ro, 0x0⟩,
  ⟨"vin", 0x10040, 0x2000000, 1, 0x4, 1, 15, 0, .ro, 0x0⟩,
  ⟨"iin", 0x10044, 0x2000000, 1, 0x4, 1, 15, 0, .ro, 0x0⟩,
  ⟨"pin", 0x10048, 0x2000000, 1, 0x4, 1, 15, 0, .ro, 0x0⟩,
  ⟨"pin_max", 0x1004C, 0x2000000, 1, 0x4, 1, 15, 0, .rc, 0x0⟩,
  ⟨"case", 0x10050, 0x2000000, 1, 0x4, 1, 23, 16, .ro, 0x0⟩,
  ⟨"tj", 0x10050, 0x2000000, 1, 0x4, 1, 7, 0, .ro, 0x0⟩,
  ⟨"tj_max", 0x10054, 0x2000000, 1, 0x4, 1, 7, 0, .rc, 0x80⟩,
  ⟨"energy_lo", 0x10058, 0x2000000, 1, 0x4, 1, 31, 0, .ro, 0x0⟩,
  ⟨"energy_hi", 0x1005C, 0x2000000, 1, 0x4, 1, 31, 0, .ro, 0x0⟩,
  ⟨"good", 0x10060, 0x2000000, 1, 0x4, 6, 31, 31, .ro, 0x0⟩,
  ⟨"mv", 0x10060, 0x2000000, 1, 0x4, 6, 15, 0, .ro, 0x0⟩,
  ⟨"cont", 0x10100, 0x2000000, 1, 0x20, 16, 31, 16, .ro, 0x0⟩,
  ⟨"level", 0x10100, 0x2000000, 1, 0x20, 16, 4, 0, .ro, 0x0⟩,
  ⟨"peak", 0x10104, 0x2000000, 1, 0x20, 16, 31, 16, .ro, 0x0⟩,
  ⟨"sample", 0x10104, 0x2000000, 1, 0x20, 16, 15, 0, .ro, 0x0⟩,
  ⟨"slow", 0x10108, 0x2000000, 1, 0x20, 16, 31, 16, .ro, 0x0⟩,
  ⟨"exc_count", 0x10108, 0x2000000, 1, 0x20, 16, 15, 0, .ro, 0x0⟩,
  ⟨"held_windows", 0x1010C, 0x2000000, 1, 0x20, 16, 31, 0, .ro, 0x0⟩]

/-- Every field of every register table. -/
def regTable : List RegField :=
  regsBU0 ++ regsRG0 ++ regsGE0 ++ regsRD0 ++ regsME0 ++ regsMV0 ++ regsVE0 ++ regsXP0 ++ regsSQ0 ++ regsMC0 ++ regsMS0 ++ regsTR0 ++ regsTRX0 ++ regsTRC0 ++ regsFE0 ++ regsFEG0 ++ regsMF0 ++ regsTW0 ++ regsHL0 ++ regsAG0 ++ regsTL0 ++ regsPW0

/-- The row has a copy at the offset. -/
def RegField.isAt (f : RegField) (off : Nat) : Bool :=
  f.base ≤ off && ((off - f.base) / f.s1 < f.n1 &&
    (((off - f.base) % f.s1) / f.s2 < f.n2 && ((off - f.base) % f.s1) % f.s2 == 0))

/-- The fields of the register at an offset; none where the offset is reserved. -/
def fieldsAt (off : Nat) : List RegField := regTable.filter (fun f => f.isAt off)

/-- The reset value of the register at an offset (R40). -/
def resetWord (off : Nat) : Nat := (fieldsAt off).foldl (fun w f => setBits w f.hi f.lo f.reset) 0

end Sys2Proof.Machine
end

