-- ==== Sys2Proof/Machine/State.lean ====
section
/-! DEFINITION. The state of the block: the queue of waiting commands, the control part (Ctl) and the part that runs work (Dev).
Registers that the model holds in a structure of their own are not stored twice: a read computes them (Views.lean). Every other
register field of the register tables stands in `regs`. -/

namespace Sys2Proof.Machine

/-- The part of the state that runs work.
`regs` holds registers by control window offset (none: the reset value, R40), `latch` the latched halves of R28 by the offset of the
half that a read latches. `refsDue` names the tables, as (address space, table), whose registry entry is still to show a changed refs count. `freeCtr`, `out` and `reply` are the model's own fields (log entries 1, 2). `vqueue` is the logger's input
queue (R458). `ports` are M0 to M5 and T. `waiting` holds the packets in the router's buffers. `inbox` holds remote-window accesses and answers delivered to this module, with the port
and the source coordinate. `rings` and `tripNext` belong to the Trip Log. `window` is the governor's window of the 16 µs group; `energy` is the input energy since module reset in nJ. -/
structure Dev where
  regs : Sparse (Option Nat) := []
  latch : Sparse Nat := []
  ltc : Nat := 0
  mem : Mem := {}
  xl : Xlate := {}
  sync : Sparse SyncObj := []
  queues : Sparse DevQueue := []
  chans : Sparse Channel := []
  ready : List Ready := []
  clients : Sparse Client := []
  cores : Sparse Core := []
  rd : List RdEntry := []
  retiring : List Retiring := []
  refsDue : List (Nat × Nat) := []
  ports : List Port := List.replicate 7 {}
  waiting : List Waiting := []
  inbox : List (Nat × Nat × RemoteBody) := []
  twin : Twin := {}
  hl : HostPort := {}
  vqueue : List Violation := []
  tripNext : Nat := 1
  rings : Sparse TripRing := []
  replay : List Replay := List.replicate 16 {}
  gov : List GovFacet := List.replicate 16 {}
  window : Nat := 0
  energy : Nat := 0
  placed : Nat := 0
  out : List Out := []
  reply : Reply := {}
  freeCtr : Nat := 0
  deriving DecidableEq, Repr

/-- The state of the block. `pending` holds the commands that wait, first in, first out. -/
structure State where
  pending : List Instr := []
  ctl : Ctl := {}
  dev : Dev := {}
  deriving DecidableEq, Repr

/-- Reasons for which a step stops. None: the spec gives every command and event of this block an effect, so nothing raises one. -/
inductive Fault where
  deriving DecidableEq, Repr

/-- Reasons for which a command has no meaning. -/
inductive Refusal where
  /-- Raised by an arm of exec whose command has no meaning in the model yet; safe. -/
  | notModelled (mnemonic : String)
  deriving DecidableEq, Repr

/-- The block right after reset (R27, R40, R438, R503): logic out of reset, every register at its reset value, memories with nothing
listed, nothing trained, no Trail Map in effect, Ranger in its ROM. Values that the spec does not give are those of log entry 5. -/
def State.reset : State := {}

end Sys2Proof.Machine
end

