-- ==== Sys2Proof/Machine/Crypto.lean ====
section
/-! DEFINITION. The signature arithmetic that R477 names: SHA-256 and the verification of ECDSA on curve P-256. The spec names
both by their standard names and gives no formula; the constants are the standards' own (PRESUMED, log entry 4). Signing uses
the fused identity key and is opaque (Config.lean). -/

namespace Sys2Proof.Machine

/-- The round constants of SHA-256. -/
def shaK : List Word := [
  0x428A2F98, 0x71374491, 0xB5C0FBCF, 0xE9B5DBA5, 0x3956C25B, 0x59F111F1, 0x923F82A4, 0xAB1C5ED5,
  0xD807AA98, 0x12835B01, 0x243185BE, 0x550C7DC3, 0x72BE5D74, 0x80DEB1FE, 0x9BDC06A7, 0xC19BF174,
  0xE49B69C1, 0xEFBE4786, 0x0FC19DC6, 0x240CA1CC, 0x2DE92C6F, 0x4A7484AA, 0x5CB0A9DC, 0x76F988DA,
  0x983E5152, 0xA831C66D, 0xB00327C8, 0xBF597FC7, 0xC6E00BF3, 0xD5A79147, 0x06CA6351, 0x14292967,
  0x27B70A85, 0x2E1B2138, 0x4D2C6DFC, 0x53380D13, 0x650A7354, 0x766A0ABB, 0x81C2C92E, 0x92722C85,
  0xA2BFE8A1, 0xA81A664B, 0xC24B8B70, 0xC76C51A3, 0xD192E819, 0xD6990624, 0xF40E3585, 0x106AA070,
  0x19A4C116, 0x1E376C08, 0x2748774C, 0x34B0BCB5, 0x391C0CB3, 0x4ED8AA4A, 0x5B9CCA4F, 0x682E6FF3,
  0x748F82EE, 0x78A5636F, 0x84C87814, 0x8CC70208, 0x90BEFFFA, 0xA4506CEB, 0xBEF9A3F7, 0xC67178F2]

/-- The initial hash of SHA-256. -/
def shaH0 : List Word := [0x6A09E667, 0xBB67AE85, 0x3C6EF372, 0xA54FF53A, 0x510E527F, 0x9B05688C, 0x1F83D9AB, 0x5BE0CD19]

/-- The message schedule: each new word is added at the front, so index 0 is the latest. -/
def shaExpand : Nat → List Word → List Word
  | 0, w => w
  | n + 1, w =>
    let a := nth 0 w 1
    let b := nth 0 w 14
    let s1 := a.rotateRight 17 ^^^ a.rotateRight 19 ^^^ (a >>> 10)
    let s0 := b.rotateRight 7 ^^^ b.rotateRight 18 ^^^ (b >>> 3)
    shaExpand n ((s1 + nth 0 w 6 + s0 + nth 0 w 15) :: w)

/-- One round of the compression function. -/
def shaRound (s : List Word) (kw : Word × Word) : List Word :=
  match s with
  | [a, b, c, d, e, f, g, h] =>
    let t1 := h + (e.rotateRight 6 ^^^ e.rotateRight 11 ^^^ e.rotateRight 25) + ((e &&& f) ^^^ (~~~e &&& g)) + kw.1 + kw.2
    let t2 := (a.rotateRight 2 ^^^ a.rotateRight 13 ^^^ a.rotateRight 22) + ((a &&& b) ^^^ (a &&& c) ^^^ (b &&& c))
    [t1 + t2, a, b, c, d + t1, e, f, g]
  | o => o

/-- Big-endian words of a block. -/
def shaWords : Nat → List Byte → List Word
  | 0, _ => []
  | n + 1, l => BitVec.ofNat 32 (beNat (l.take 4)) :: shaWords n (l.drop 4)

/-- The hash after n more blocks of l. -/
def shaBlocks : Nat → List Word → List Byte → List Word
  | 0, h, _ => h
  | n + 1, h, l =>
    let w := (shaExpand 48 (shaWords 16 l).reverse).reverse
    shaBlocks n (List.zipWith (· + ·) h ((shaK.zip w).foldl shaRound h)) (l.drop 64)

/-- n bytes of v, big-endian. -/
def toBe (n v : Nat) : List Byte := (toLe n v).reverse

/-- The SHA-256 digest of a byte list, 32 B. -/
def sha256 (m : List Byte) : List Byte :=
  let p := m ++ [0x80] ++ zeros ((119 - m.length % 64) % 64) ++ toBe 8 (8 * m.length)
  (shaBlocks (p.length / 64) shaH0 p).flatMap (fun w => toBe 4 w.toNat)

/-- The prime of P-256. -/
def p256P : Nat := 2 ^ 256 - 2 ^ 224 + 2 ^ 192 + 2 ^ 96 - 1
/-- The order of P-256. -/
def p256N : Nat := 0xFFFFFFFF00000000FFFFFFFFFFFFFFFFBCE6FAADA7179E84F3B9CAC2FC632551
/-- The constant b of P-256. -/
def p256B : Nat := 0x5AC635D8AA3A93E7B3EBBD55769886BC651D06B0CC53B0F63BCE3C3E27D2604B
/-- The base point of P-256. -/
def p256G : Nat × Nat := (0x6B17D1F2E12C4247F8BCE6E563A440F277037D812DEB33A0F4A13945D898C296,
  0x4FE342E2FE1A7F9B8EE7EB4A7C0F9E162BCE33576B315ECECBB6406837BF51F5)

/-- x ^ e mod m, by the low n bits of e. -/
def powMod (m : Nat) : Nat → Nat → Nat → Nat → Nat
  | 0, _, _, acc => acc
  | n + 1, x, e, acc => powMod m n (x * x % m) (e / 2) (if e % 2 = 1 then acc * x % m else acc)

/-- The inverse of x modulo a prime m below 2^256. -/
def invMod (m x : Nat) : Nat := powMod m 256 (x % m) (m - 2) 1

/-- Twice a point (X, Y, Z), which stands for (X / Z^2, Y / Z^3); none is the point at infinity. -/
def ecDouble (a : Option (Nat × Nat × Nat)) : Option (Nat × Nat × Nat) :=
  match a with
  | none => none
  | some (x, y, z) =>
    let yy := y * y % p256P
    let s := 4 * x * yy % p256P
    let zz := z * z % p256P
    let m := 3 * (x + p256P - zz) * (x + zz) % p256P
    let x3 := (m * m + 2 * p256P - s - s) % p256P
    if y = 0 then none else some (x3, (m * (s + p256P - x3) + 8 * (p256P - yy) * yy) % p256P, 2 * y * z % p256P)

/-- The sum of two points. -/
def ecAdd (a b : Option (Nat × Nat × Nat)) : Option (Nat × Nat × Nat) :=
  match a, b with
  | none, b => b
  | a, none => a
  | some (x1, y1, z1), some (x2, y2, z2) =>
    let u1 := x1 * z2 * z2 % p256P
    let u2 := x2 * z1 * z1 % p256P
    let s1 := y1 * z2 * z2 * z2 % p256P
    let s2 := y2 * z1 * z1 * z1 % p256P
    if u1 = u2 then (if s1 = s2 then ecDouble a else none)
    else
      let h := (u2 + p256P - u1) % p256P
      let r := (s2 + p256P - s1) % p256P
      let hh := h * h % p256P
      let v := u1 * hh % p256P
      let x3 := (r * r + 3 * p256P - h * hh % p256P - v - v) % p256P
      some (x3, (r * (v + p256P - x3) + (p256P - s1) * h % p256P * hh) % p256P, h * z1 * z2 % p256P)

/-- k times a point, by the low n bits of k. -/
def ecMul : Nat → Nat → Option (Nat × Nat × Nat) → Option (Nat × Nat × Nat) → Option (Nat × Nat × Nat)
  | 0, _, _, acc => acc
  | n + 1, k, p, acc => ecMul n (k / 2) (ecDouble p) (if k % 2 = 1 then ecAdd acc p else acc)

/-- The public key of 64 B is a point on the curve (R477). -/
def keyOnCurve (key : List Byte) : Bool :=
  let x := beNat (slice key 0 32)
  let y := beNat (slice key 32 32)
  x < p256P && (y < p256P && (y * y % p256P == (x * x * x + (p256P - 3) * x + p256B) % p256P))

/-- A signature of 64 B over a message verifies under a public key of 64 B, with the rejections of R477. -/
def verifySig (key msg sig : List Byte) : Bool :=
  let r := beNat (slice sig 0 32)
  let s := beNat (slice sig 32 32)
  if r = 0 || p256N ≤ r || s = 0 || p256N ≤ s || !keyOnCurve key then false
  else
    let w := invMod p256N s
    let z := beNat (sha256 msg)
    match ecAdd (ecMul 256 (z * w % p256N) (some (p256G.1, p256G.2, 1)) none)
        (ecMul 256 (r * w % p256N) (some (beNat (slice key 0 32), beNat (slice key 32 32), 1)) none) with
    | none => false
    | some (x, _, z) =>
      let i := invMod p256P z
      x * i % p256P * i % p256P % p256N == r

end Sys2Proof.Machine
end

