-- ==== Sys2Proof/Machine/TrailMapImage.lean ====
section
/-! DEFINITION. The Trail Map image: its layout, the thirteen checks of Table 2.7 in their order, the fields whose change needs a
drained facet (Table 2.8), and reading an image into a TrailMap (Trail Map: the Structure Image). Each check answers the fault
offset it reports, or none. -/

namespace Sys2Proof.Machine

/-- A used directory entry (Table 2.2), with the offset of the entry itself. -/
structure DirEntry where
  at_ : Nat
  type : Nat
  version : Nat
  offset : Nat
  size : Nat
  reserved : Nat

/-- Entry i of the directory at 0x20 (R49). -/
def dirEntry (img : List Byte) (i : Nat) : DirEntry :=
  let a := 0x20 + 16 * i
  ⟨a, le img a 2, le img (a + 2) 2, le img (a + 4) 4, le img (a + 8) 4, le img (a + 12) 4⟩

/-- The used directory entries in order. -/
def dirEntries (img : List Byte) : List DirEntry := (List.range (le img 6 2)).map (dirEntry img)

/-- The header's length field. -/
def tmLength (img : List Byte) : Nat := le img 8 4

/-- Is a section type defined by Table 2.3? -/
def typeKnown (t : Nat) : Bool := 1 ≤ t && t ≤ 10

/-- The exact size of a section of Table 2.3, given its count byte. -/
def sectionSize (t count : Nat) : Nat :=
  match t with
  | 1 => 4 + 64 * count
  | 2 => 148
  | 3 => 512
  | 4 => 4
  | 5 => 16
  | 6 => 32
  | 7 => 512
  | 8 => 528
  | 9 => 24
  | 10 => 4 + 8 * count
  | _ => 0

/-- The offset of the section of a type, if the image holds it. -/
def sectionAt (img : List Byte) (t : Nat) : Option Nat :=
  ((dirEntries img).find? (fun e => e.type == t)).map (·.offset)

/-- The offset of a required section (0 where it is absent, which check 8 has refused). -/
def secOff (img : List Byte) (t : Nat) : Nat := (sectionAt img t).getD 0

/-- Check 2 to 4 of Table 2.7: magic, format version, length (Table 2.1). Answers (code, fault offset). -/
def headerCheck (img : List Byte) : Option (Nat × Nat) :=
  let len := tmLength img
  if le img 0 4 ≠ 0x504D5447 then some (2, 0)
  else if le img 4 2 ≠ 1 then some (3, 4)
  else if len % 16 ≠ 0 || len < 0x160 || 0x100000 < len then some (4, 8)
  else none

/-- The key that signer_key_id names, if it is accepted for Trail Maps (R66, R480, R481). -/
def signerKey (vendor : List Byte) (keys : List OwnerKey) (id : Nat) : Option (List Byte) :=
  if id = 0 then some vendor
  else if 8 < id then none
  else
    let k := nth {} keys (id - 1)
    if bit k.rights 0 then k.key else none

/-- Checks 5 and 6: signer and signature (R52, R66). -/
def signCheck (vendor : List Byte) (keys : List OwnerKey) (img : List Byte) : Option (Nat × Nat) :=
  match signerKey vendor keys (le img 0x18 4) with
  | none => some (5, 0x18)
  | some k =>
    let len := tmLength img
    if verifySig k (img.take (len - 64)) (slice img (len - 64) 64) then none else some (6, len - 64)

/-- Check 7: the generation against the floor and the generation in effect (R67). -/
def generationCheck (fromHost : Bool) (inEffect floor : Nat) (img : List Byte) : Option (Nat × Nat) :=
  let g := le img 0x10 8
  if fromHost then (if inEffect < g && floor < g then none else some (7, 0x10))
  else if floor ≤ g then none else some (7, 0x10)

/-- A fault within one directory entry (R508). -/
def entryFault (img : List Byte) (e : DirEntry) : Option Nat :=
  let len := tmLength img
  if !typeKnown e.type then some e.at_
  else if e.version ≠ 1 then some (e.at_ + 2)
  else if e.offset % 16 ≠ 0 || e.offset < 0x120 then some (e.at_ + 4)
  else if e.size ≠ sectionSize e.type (byteAt img e.offset) || len - 64 < e.offset + e.size then some (e.at_ + 8)
  else if e.reserved ≠ 0 then some (e.at_ + 12)
  else none

/-- The types that appear twice, at the type field of each later entry (R508). -/
def dupTypes : List DirEntry → List Nat → List Nat
  | [], _ => []
  | e :: r, seen => if seen.contains e.type then e.at_ :: dupTypes r seen else dupTypes r (e.type :: seen)

/-- The overlaps of a section with those of later entries, at the field R508 names. -/
def overlapsWith (e : DirEntry) (l : List DirEntry) : List Nat :=
  (l.filter (fun d => e.offset < d.offset + d.size && d.offset < e.offset + e.size)).map (fun d =>
    if d.offset < e.offset then e.at_ + 4 else d.at_ + 4)

/-- All overlaps among entries. -/
def overlaps : List DirEntry → List Nat
  | [] => []
  | e :: r => overlapsWith e r ++ overlaps r

/-- A required section type is missing (Table 2.3). -/
def typeMissing (es : List DirEntry) : Bool := [1, 2, 3, 4, 5, 7, 8, 9, 10].any (fun t => !es.any (fun e => e.type == t))

/-- Check 8: the directory (R49, R50, R508). Of the conditions that involve two or more entries, R508 gives no order: by R71 the one with the least
fault offset is reported, so a missing type, at 0x06, comes before a duplicate and an overlap (DEDUCED, log entry 111). -/
def directoryCheck (img : List Byte) : Option Nat :=
  let n := le img 6 2
  if n = 0 || 16 < n then some 6
  else
    let es := dirEntries img
    match es.findSome? (entryFault img) with
    | some o => some o
    | none => minNat ((if typeMissing es then [6] else []) ++ (dupTypes es [] ++ overlaps es))

/-- The reserved bits of byte o of a section (R51): a mask, 0 where the byte holds no reserved bit. -/
def reservedMask (t o : Nat) : Nat :=
  match t with
  | 1 => if o < 4 then (if o = 0 then 0 else 0xFF)
         else
          let p := (o - 4) % 64
          if p = 1 || p = 3 || 44 ≤ p then 0xFF else if p = 2 then 0x80 else 0
  | 2 => if o = 144 then 0xF0 else if 145 ≤ o then 0xFF else 0
  | 3 => if o < 384 then 0x70 else if 1 ≤ (o - 384) % 8 && (o - 384) % 8 ≤ 3 then 0xFF else 0
  | 4 => if 2 ≤ o then 0xFF else 0
  | 5 => if o = 9 then 0xC0 else if 10 ≤ o then 0xFF else 0
  | 6 => if o = 2 || o = 3 || (11 ≤ o && o < 16) then 0xFF else 0
  | 8 => if o % 4 = 3 then 0xFF else 0
  | 9 => if 5 ≤ o && o < 8 then 0xFF else 0
  | 10 => if o < 4 then (if o = 0 then 0 else 0xFF)
          else
            let p := (o - 4) % 8
            if p = 1 then 0xFF else if p = 5 then 0x80 else if 6 ≤ p then 0xFF else 0
  | _ => 0

/-- The facets that an image's FACETS section lists. -/
def imageFacetIds (img : List Byte) : List Nat :=
  let o := secOff img 1
  (List.range (byteAt img o)).map (fun k => byteAt img (o + 4 + 64 * k))

/-- The bits of byte o of the image that R51 requires to be zero. The hash entries of facets that do not exist are ignored
(R56), their reserved bytes with them (DEDUCED, log entry 10). -/
def mustBeZero (img : List Byte) (es : List DirEntry) (ids : List Nat) (o : Nat) : Nat :=
  if o < 0x20 then (if (0x0C ≤ o && o < 0x10) || 0x1C ≤ o then 0xFF else 0)
  else if o < 0x20 + 16 * es.length || tmLength img - 64 ≤ o then 0
  else match es.find? (fun e => e.offset ≤ o && o < e.offset + e.size) with
    | none => 0xFF
    | some e =>
      let p := o - e.offset
      if e.type = 3 && 384 ≤ p && !ids.contains ((p - 384) / 8) then 0 else reservedMask e.type p

/-- The first byte of l, counted from o, with a bit of its mask set. -/
def firstNonzero (mask : Nat → Nat) : List Byte → Nat → Option Nat
  | [], _ => none
  | b :: r, o => if b.toNat &&& mask o ≠ 0 then some o else firstNonzero mask r (o + 1)

/-- Check 9: bytes that R51 requires to be zero. -/
def zeroCheck (img : List Byte) : Option Nat :=
  firstNonzero (mustBeZero img (dirEntries img) (imageFacetIds img)) img 0

/-- Fields of a range of a FACETS entry: first, count, limit, least count. -/
def rangeFault (img : List Byte) (fo co n lim least : Nat) : Option Nat :=
  let first := le img fo n
  let count := le img co n
  if count < least || lim < first + count then some co else none

/-- The first element of a list of results that is a fault. -/
def firstSome : List (Option Nat) → Option Nat
  | [] => none
  | some o :: _ => some o
  | none :: r => firstSome r

/-- A fault at o unless c holds. -/
def need (c : Bool) (o : Nat) : Option Nat := if c then none else some o

/-- The first field of a section outside its range or encoding (check 10, R53 to R64). -/
def fieldFault (img : List Byte) (e : DirEntry) : Option Nat :=
  let o := e.offset
  let sec := img.drop o
  let b := fun i => byteAt sec i
  match e.type with
  | 1 => firstSome (need (1 ≤ b 0 && b 0 ≤ 16) o :: (List.range (b 0)).map (fun k =>
      let a := o + 4 + 64 * k
      firstSome [need (byteAt img a ≤ 15) a, need (le img (a + 4) 16 ≠ 0) (a + 4),
        rangeFault img (a + 20) (a + 22) 2 4096 1, rangeFault img (a + 24) (a + 26) 2 1024 1,
        rangeFault img (a + 28) (a + 30) 2 1024 1, rangeFault img (a + 32) (a + 34) 2 256 0,
        rangeFault img (a + 36) (a + 40) 4 131072 1]))
  | 2 => firstSome ((List.range 128).map (fun n => need (b n ≤ 131) (o + n)))
  | 3 => firstSome ((List.range 16).map (fun f =>
      need (!(imageFacetIds img).contains f || b (384 + 8 * f) == 0) (o + 384 + 8 * f)))
  | 4 => firstSome [need (b 0 ≤ 131) o, need (b 1 ≤ 1) (o + 1)]
  | 5 => firstSome ((List.range 3).map (fun i => need (1 ≤ b (3 + i) && b (3 + i) ≤ 16) (o + 3 + i)))
  | 6 => firstSome [need (b 0 ≤ 1) o, need (b 1 ≤ 1) (o + 1),
      need (10 ≤ le img (o + 8) 2 && le img (o + 8) 2 ≤ 1000) (o + 8), need (2 ≤ b 10) (o + 10)]
  | 8 => firstSome ((List.range 132).map (fun p => firstSome [need (b (4 * p) ≤ b (4 * p + 1)) (o + 4 * p),
      need (b (4 * p + 1) ≤ 40) (o + 4 * p + 1), need (b (4 * p + 2) ≤ 8) (o + 4 * p + 2)]))
  | 9 => firstSome [need (300 ≤ le img o 2 && le img o 2 ≤ 1200) o,
      need (le img o 2 ≤ le img (o + 2) 2 && le img (o + 2) 2 ≤ 1500) (o + 2), need (1 ≤ b 4 && b 4 ≤ 20) (o + 4)]
  | 10 => firstSome (need (1 ≤ b 0 && b 0 ≤ 16) o ::
      (List.range (b 0)).map (fun k => need (b (4 + 8 * k) ≤ 15) (o + 4 + 8 * k)))
  | _ => none

/-- Check 10: field ranges, sections in directory order. -/
def fieldCheck (img : List Byte) : Option Nat := (dirEntries img).findSome? (fieldFault img)

/-- Entry k of FACETS. -/
def parseFacet (img : List Byte) (a : Nat) : Facet where
  id := byteAt img a
  ports := byteAt img (a + 2)
  cores := le img (a + 4) 16
  chanFirst := le img (a + 20) 2
  chanCount := le img (a + 22) 2
  asFirst := le img (a + 24) 2
  asCount := le img (a + 26) 2
  clientFirst := le img (a + 28) 2
  clientCount := le img (a + 30) 2
  queueFirst := le img (a + 32) 2
  queueCount := le img (a + 34) 2
  syncFirst := le img (a + 36) 4
  syncCount := le img (a + 40) 4

/-- The Trail Map that an image holds. -/
def parseTrailMap (img : List Byte) : TrailMap :=
  let f := secOff img 1
  let c := secOff img 2
  let h := secOff img 3
  let r := secOff img 4
  let t := secOff img 5
  let m := secOff img 7
  let g := secOff img 8
  let p := secOff img 9
  let a := secOff img 10
  { image := img
    generation := le img 0x10 8
    facets := (List.range (byteAt img f)).map (fun k => parseFacet img (f + 4 + 64 * k))
    coreMap := (slice img c 128).map (·.toNat)
    retired := le img (c + 128) 17
    chan := (slice img h 384).map (·.toNat)
    hash := (List.range 16).map (fun k => (byteAt img (h + 384 + 8 * k), le img (h + 388 + 8 * k) 4))
    relayStart := byteAt img r
    relayDir := byteAt img (r + 1)
    torus := { pos := (slice img t 3).map (·.toNat), dim := (slice img (t + 3) 3).map (·.toNat)
               dateline := (slice img (t + 6) 3).map (·.toNat), ports := byteAt img (t + 9) }
    twin := (sectionAt img 6).map (fun w =>
      { enable := byteAt img w == 1, role := byteAt img (w + 1), pairId := le img (w + 4) 4, period := le img (w + 8) 2
        lossCount := byteAt img (w + 10), digest := slice img (w + 16) 16 })
    ways := (List.range 256).map (fun i => le (img.drop m) (2 * i) 2)
    margin := (List.range 132).map (fun k =>
      { vOff := byteAt (img.drop g) (4 * k), vCeil := byteAt (img.drop g) (4 * k + 1), fBin := byteAt (img.drop g) (4 * k + 2) })
    cap := le img p 2
    peak := le img (p + 2) 2
    excursion := byteAt img (p + 4)
    share := (slice img (p + 8) 16).map (·.toNat)
    access := (List.range (byteAt img a)).map (fun k =>
      { fn := byteAt img (a + 4 + 8 * k), facets := le img (a + 6 + 8 * k) 2, blocks := le img (a + 8 + 8 * k) 4 }) }

/-- The FACETS entry of a facet. -/
def TrailMap.facet? (m : TrailMap) (f : Nat) : Option Facet := m.facets.find? (fun e => e.id == f)

/-- The facet that a logical core belongs to (R54). -/
def TrailMap.coreFacet (m : TrailMap) (n : Nat) : Option Nat := (m.facets.find? (fun e => bit e.cores n)).map (·.id)

/-- The relay order as physical cores: snake order from start in the direction dir, wrapping (R57). -/
def TrailMap.snake (m : TrailMap) : List Nat :=
  (List.range 132).map (fun i => if m.relayDir = 0 then (m.relayStart + i) % 132 else (m.relayStart + 132 - i) % 132)

/-- The relay chain: the logical cores in snake order (R57). -/
def TrailMap.chain (m : TrailMap) : List Nat := m.snake.filterMap (fun p => findIdx (· == p) m.coreMap)

/-- The relay run of a facet: its cores in chain order (R24). -/
def TrailMap.run (m : TrailMap) (f : Nat) : List Nat := m.chain.filter (fun n => m.coreFacet n == some f)

/-- The list has each value in one contiguous stretch. -/
def contiguous : List (Option Nat) → List (Option Nat) → Option (Option Nat) → Bool
  | [], _, _ => true
  | a :: r, seen, prev =>
    if prev == some a then contiguous r seen prev
    else !seen.contains a && contiguous r (a :: seen) (some a)

/-- The ports that the map enables: port_enable without both ports of a dimension of 1 (R58). -/
def TrailMap.enabledPorts (m : TrailMap) : Nat :=
  maskOf ((bitsOf 6 m.torus.ports).filter (fun p => nth 1 m.torus.dim (p / 2) ≠ 1))

/-- The twin port is enabled (R60). -/
def TrailMap.twinOn (m : TrailMap) : Bool := (m.twin.map (·.enable)).getD false

/-- Two ranges (first, count) share a number. -/
def rangesMeet (a b : Nat × Nat) : Bool := 0 < a.2 && (0 < b.2 && (a.1 < b.1 + b.2 && b.1 < a.1 + a.2))

/-- The least of the offsets at which a condition of check 11 fails. -/
def least (l : List (Option Nat)) : Option Nat := minNat (l.filterMap id)

/-- Pairs (i, j) with i < j < n. -/
def pairsBelow (n : Nat) : List (Nat × Nat) := (List.range n).flatMap (fun j => (List.range j).map (fun i => (i, j)))

/-- Check 11: the conditions of R72, in its order. Where R72 leaves a point open the model settles it (DEDUCED, log entry 112): a dateline at or above its
dimension fails here, not in check 10; fabric_ports against port_enable is part of condition 7 and bit 6 alone of condition 8; two ranges that overlap are
reported at the first-id field of the later entry. -/
def consistencyCheck (img : List Byte) (m : TrailMap) : Option Nat :=
  let f := secOff img 1
  let c := secOff img 2
  let h := secOff img 3
  let t := secOff img 5
  let w := secOff img 7
  let a := secOff img 10
  let fs := m.facets
  let n := fs.length
  let fac := fun i => nth {} fs i
  let ids := fs.map (·.id)
  let fOff := fun i => f + 4 + 64 * i
  let dup := fun (rng : Facet → Nat × Nat) (o : Nat) =>
    (pairsBelow n).map (fun p => need (!rangesMeet (rng (fac p.1)) (rng (fac p.2))) (fOff p.2 + o))
  firstSome [
    least ((List.range 128).map (fun i => firstSome [need (!(m.coreMap.take i).contains (nth 0 m.coreMap i)) (c + i),
      need (!bit m.retired (nth 0 m.coreMap i)) (c + 128)])),
    least ((List.range n).map (fun i => need (!(ids.take i).contains (nth 0 ids i)) (fOff i))),
    least ((List.range 128).flatMap (fun k => [need (fs.any (fun e => bit e.cores k)) (c + k)] ++
      (pairsBelow n).map (fun p => need (!(bit (fac p.1).cores k && bit (fac p.2).cores k)) (fOff p.2 + 4)))),
    least (dup (fun e => (e.chanFirst, e.chanCount)) 20 ++ dup (fun e => (e.asFirst, e.asCount)) 24 ++
      dup (fun e => (e.clientFirst, e.clientCount)) 28 ++ dup (fun e => (e.queueFirst, e.queueCount)) 32 ++
      dup (fun e => (e.syncFirst, e.syncCount)) 36),
    least ((List.range 384).map (fun k => need (bit (nth 0 m.chan k) 7 || ids.contains (nth 0 m.chan k % 16)) (h + k)) ++
      (List.range n).map (fun i => need (m.chan.any (fun b => !bit b 7 && b % 16 == (fac i).id)) (fOff i))),
    need (contiguous (m.chain.map m.coreFacet) [] none) (secOff img 4),
    least ((List.range 3).flatMap (fun i => [need (nth 0 m.torus.pos i < nth 0 m.torus.dim i) (t + 3 + i),
        need (nth 0 m.torus.dateline i < nth 0 m.torus.dim i) (t + 6 + i)]) ++
      (List.range n).map (fun i => need ((fac i).ports &&& 0x3F &&& (0x3F ^^^ m.torus.ports) == 0) (max (fOff i + 2) (t + 9)))),
    least ((List.range n).map (fun i => need (m.twinOn || !bit (fac i).ports 6)
      (match sectionAt img 6 with | some o => max (fOff i + 2) o | none => fOff i + 2))),
    least ((List.range 256).map (fun i =>
      let mask := nth 0 m.ways i
      let earlier := ((m.ways.drop (i / 16 * 16)).take (i % 16)).foldl (· ||| ·) 0
      need (mask == 0 || (ids.contains (i % 16) && mask &&& earlier == 0)) (w + 2 * i))),
    least ((List.range 16).map (fun k => need (!ids.contains k || nth 0 m.share k ≠ 0) (secOff img 9 + 8 + k))),
    least ((List.range m.access.length).flatMap (fun i =>
      let e := nth {} m.access i
      [need (!((m.access.take i).map (·.fn)).contains e.fn) (a + 4 + 8 * i),
       need ((bitsOf 16 e.facets).all ids.contains) (a + 6 + 8 * i)]))]

/-- The offset within a FACETS entry of the first field that differs. -/
def facetDiff (a b : Facet) : Nat :=
  ((firstSome [need (a.ports == b.ports) 2, need (a.cores == b.cores) 4, need (a.chanFirst == b.chanFirst) 20,
    need (a.chanCount == b.chanCount) 22, need (a.asFirst == b.asFirst) 24, need (a.asCount == b.asCount) 26,
    need (a.clientFirst == b.clientFirst) 28, need (a.clientCount == b.clientCount) 30, need (a.queueFirst == b.queueFirst) 32,
    need (a.queueCount == b.queueCount) 34, need (a.syncFirst == b.syncFirst) 36, need (a.syncCount == b.syncCount) 40])).getD 0

/-- The first position, counted from 0, where two byte lists differ. -/
def firstDiff : List Byte → List Byte → Option Nat
  | [], [] => none
  | a :: r, b :: q => if a = b then (firstDiff r q).map (· + 1) else some 0
  | _, _ => some 0

/-- The owner of a channel byte: none where it is mapped out (R56). -/
def chanOwner (b : Nat) : List Nat := if bit b 7 then [] else [b % 16]

/-- The changes of a new map against the one in effect that need drained facets: (offset in the new image, facets), Table 2.8.
`now` gives the margin of each physical core in effect (R77). -/
def mapChanges (old new : TrailMap) (now : List Margin) : List (Nat × List Nat) :=
  let img := new.image
  let c := secOff img 2
  let h := secOff img 3
  let ids := (old.facets ++ new.facets).map (·.id)
  let allF := (List.range 16).filter ids.contains
  let both := fun (n : Nat) => (old.coreFacet n).toList ++ (new.coreFacet n).toList
  (allF.filterMap (fun f => match old.facet? f, new.facet? f with
    | none, none => none
    | some _, none => some (secOff img 1, [f])
    | none, some _ => (findIdx (fun e : Facet => e.id == f) new.facets).map (fun i => (secOff img 1 + 4 + 64 * i, [f]))
    | some a, some b => if a = b then none
        else (findIdx (fun e : Facet => e.id == f) new.facets).map (fun i => (secOff img 1 + 4 + 64 * i + facetDiff a b, [f])))) ++
  ((List.range 128).filterMap (fun n =>
    if nth 0 old.coreMap n = nth 0 new.coreMap n then none else some (c + n, both n))) ++
  (if old.retired = new.retired || old.coreMap = new.coreMap then [] else
    [(c + 128, ((List.range 128).filter (fun n => nth 0 old.coreMap n ≠ nth 0 new.coreMap n)).flatMap both)]) ++
  ((List.range 384).filterMap (fun k =>
    let a := nth 0 old.chan k
    let b := nth 0 new.chan k
    if a = b then none else some (h + k, chanOwner a ++ chanOwner b))) ++
  (allF.filterMap (fun f =>
    if nth (0, 0) old.hash f = nth (0, 0) new.hash f then none
    else some (h + 384 + 8 * f + (if (nth (0, 0) old.hash f).1 = (nth (0, 0) new.hash f).1 then 4 else 0), [f]))) ++
  (let moved := allF.filter (fun f => old.run f ≠ new.run f)
   if (old.relayStart = new.relayStart && old.relayDir = new.relayDir) || moved.isEmpty then []
   else [(secOff img 4 + (if old.relayStart = new.relayStart then 1 else 0), moved)]) ++
  (match firstDiff (slice old.image (secOff old.image 5) 16) (slice img (secOff img 5) 16) with
   | some d => [(secOff img 5 + d, allF)]
   | none => []) ++
  (match sectionAt old.image 6, sectionAt img 6 with
   | none, none => []
   | some _, none => [(6, allF)]
   | none, some o => [(o, allF)]
   | some a, some o => match firstDiff (slice old.image a 32) (slice img o 32) with
      | some d => [(o + d, allF)]
      | none => []) ++
  ((List.range 256).filterMap (fun i =>
    if nth 0 old.ways i = nth 0 new.ways i then none
    else some (secOff img 7 + 2 * i, (i % 16) :: (List.range 16).filter (fun f =>
      nth 0 old.ways (i / 16 * 16 + f) ≠ nth 0 new.ways (i / 16 * 16 + f))))) ++
  ((List.range 132).filterMap (fun p =>
    let a := nth {} now p
    let b := nth {} new.margin p
    let own := ((findIdx (· == p) old.coreMap).bind old.coreFacet).toList
    if b.vOff < a.vOff then some (secOff img 8 + 4 * p, own)
    else if b.vCeil < a.vCeil then some (secOff img 8 + 4 * p + 1, own)
    else if b.fBin < a.fBin then some (secOff img 8 + 4 * p + 2, own)
    else none))

/-- Check 12: the lowest offset of a change that needs a facet that is not DRAINED (R76). An ABSENT facet needs no drain. -/
def drainedCheck (changes : List (Nat × List Nat)) (st : List FacetState) : Option Nat :=
  minNat ((changes.filter (fun ch => ch.2.any (fun f =>
    nth .absent st f == .running || nth .absent st f == .draining))).map (·.1))

/-- Checks 8 to 11: those that need no state. -/
def structureCheck (img : List Byte) : Option (Nat × Nat) :=
  match directoryCheck img with
  | some o => some (8, o)
  | none => match zeroCheck img with
    | some o => some (9, o)
    | none => match fieldCheck img with
      | some o => some (10, o)
      | none => match consistencyCheck img (parseTrailMap img) with
        | some o => some (11, o)
        | none => none

end Sys2Proof.Machine
end

