-- ==== Sys2Proof/Machine/Ops.lean ====
section
/-! DEFINITION. The named operations over the state: registers and flags (Architecture and the Two Serving Flows), violations, Core
Store, sync objects, interrupts, facets and their resources. -/

namespace Sys2Proof.Machine

/-! ### Outcomes -/

/-- The outcome of a command that acts on the running logic: while the logic is held in reset it has no effect (R503, log entry 6). -/
def onDev (s : State) (f : Ctl → Dev → Dev) : Host.Outcome State Fault Refusal :=
  .next (if s.ctl.power.running then { s with dev := f s.ctl s.dev } else s)

/-- As onDev, for a command that also acts on the control part. -/
def onAll (s : State) (f : Ctl → Dev → Ctl × Dev) : Host.Outcome State Fault Refusal :=
  .next (if s.ctl.power.running then { s with ctl := (f s.ctl s.dev).1, dev := (f s.ctl s.dev).2 } else s)

/-! ### The Trail Map and its resources -/

/-- The Trail Map in effect; an empty map while there is none. -/
def Ctl.tm (c : Ctl) : TrailMap := c.map.getD {}

/-- x lies in the range (first, count). -/
def inRange (x first count : Nat) : Bool := first ≤ x && x < first + count

/-- The facet whose address space range holds a (R54). -/
def Ctl.asFacet (c : Ctl) (a : Nat) : Option Nat := (c.tm.facets.find? (fun e => inRange a e.asFirst e.asCount)).map (·.id)
/-- The facet whose channel range holds ch. -/
def Ctl.chFacet (c : Ctl) (ch : Nat) : Option Nat := (c.tm.facets.find? (fun e => inRange ch e.chanFirst e.chanCount)).map (·.id)
/-- The facet whose client range holds i. -/
def Ctl.clientFacet (c : Ctl) (i : Nat) : Option Nat := (c.tm.facets.find? (fun e => inRange i e.clientFirst e.clientCount)).map (·.id)
/-- The facet whose device queue range holds q. -/
def Ctl.queueFacet (c : Ctl) (q : Nat) : Option Nat := (c.tm.facets.find? (fun e => inRange q e.queueFirst e.queueCount)).map (·.id)
/-- The facet whose sync object range holds o. -/
def Ctl.syncFacet (c : Ctl) (o : Nat) : Option Nat := (c.tm.facets.find? (fun e => inRange o e.syncFirst e.syncCount)).map (·.id)
/-- The facet of a logical core. -/
def Ctl.coreFacet (c : Ctl) (n : Nat) : Option Nat := c.tm.coreFacet n
/-- The FACETS entry of a facet, with an empty entry for a facet that does not exist. -/
def Ctl.facet (c : Ctl) (f : Nat) : Facet := (c.tm.facet? f).getD {}
/-- The state of a facet (R73). -/
def Ctl.fstate (c : Ctl) (f : Nat) : FacetState := nth .absent c.facetState f
/-- The physical core of a logical core. -/
def Ctl.phys (c : Ctl) (n : Nat) : Nat := nth n c.tm.coreMap n
/-- The logical cores of a facet, ascending. -/
def Ctl.facetCores (c : Ctl) (f : Nat) : List Nat := bitsOf 128 (c.facet f).cores

/-- The channels of memory of a facet that are not mapped out, ascending (R56, R274). -/
def Ctl.memChans (c : Ctl) (f : Nat) : List Nat := (List.range 384).filter (fun k => chanOwner (nth 0x80 c.tm.chan k) == [f])

/-- Bytes of valid HBM per channel (R273). -/
def chanBytes : Nat := 4718592 * 256

/-- A range of n bytes from a lies in the valid HBM of facet f (R273). -/
def Ctl.inHbm (c : Ctl) (f a n : Nat) : Bool :=
  f * 2 ^ 39 ≤ a && a + n ≤ f * 2 ^ 39 + chanBytes * (c.memChans f).length

/-! ### Registers -/

/-- The stored value of the register at an offset. -/
def Dev.reg (d : Dev) (off : Nat) : Nat := (Sparse.get none d.regs off).getD (resetWord off)

/-- The register at an offset set to v. -/
def Dev.setReg (d : Dev) (off v : Nat) : Dev :=
  { d with regs := Sparse.set none d.regs off (if v = resetWord off then none else some v) }

/-- The field [hi:lo] of a register. -/
def Dev.fld (d : Dev) (off hi lo : Nat) : Nat := bits (d.reg off) hi lo

/-- The field [hi:lo] of a register set to v. -/
def Dev.setFld (d : Dev) (off hi lo v : Nat) : Dev := d.setReg off (setBits (d.reg off) hi lo v)

/-- One bit of a register. -/
def Dev.flag (d : Dev) (off i : Nat) : Bool := bit (d.reg off) i

/-- n added to a wrapping 32-bit counter (R41). -/
def Dev.count (d : Dev) (off n : Nat) : Dev := d.setReg off (w32 (d.reg off + n))

/-- n added to a counter that saturates at 2^32 - 1. -/
def Dev.countSat (d : Dev) (off n : Nat) : Dev := d.setReg off (min (2 ^ 32 - 1) (d.reg off + n))

/-- A hardware set of the W1C flag at bit i of a register, with its event counter (R41). -/
def Dev.raise (d : Dev) (off i cnt : Nat) : Dev := (d.setReg off (setBit (d.reg off) i true)).count cnt 1

/-- A free value (log entry 1): its number is the state's counter, which advances. -/
def Dev.free (d : Dev) : Dev × BitVec 64 := ({ d with freeCtr := d.freeCtr + 1 }, Config.freeValue d.freeCtr)

/-- A counter of cycles advances by a number of cycles that the spec leaves to the part: a free value (log entry 79). -/
def Dev.countFree (d : Dev) (off : Nat) : Dev := d.free.1.count off d.free.2.toNat

/-- Base offsets of Table 1.5 and Table 1.6. -/
def baseBU : Nat := 0
def basePW : Nat := 0x10000
def baseRG : Nat := 0x20000
def baseAG : Nat := 0x30000
def baseTL : Nat := 0x40000
def baseHL : Nat := 0x50000
def baseTW : Nat := 0x60000
def baseMF : Nat := 0x70000
def baseTR : Nat := 0x80000
def baseRD : Nat := 0xC0000
def baseMS : Nat := 0xD0000
def baseMC : Nat := 0x100000
def baseFE : Nat := 0x200000
def baseSY : Nat := 0x400000
/-- The region of logical core n (R35). -/
def baseCore (n : Nat) : Nat := 0x1000000 + 0x20000 * n
def baseSQ (n : Nat) : Nat := baseCore n
def baseME (n : Nat) : Nat := baseCore n + 0x2000
def baseMV (n : Nat) : Nat := baseCore n + 0x4000
def baseVE (n : Nat) : Nat := baseCore n + 0x6000
def baseXP (n : Nat) : Nat := baseCore n + 0x8000
def baseGE (n : Nat) : Nat := baseCore n + 0xA000
def baseTC (n : Nat) : Nat := baseCore n + 0xC000
/-- Port p's registers: MF for M0 to M5, TW + 0x800 for T (R413). -/
def basePort (p : Nat) : Nat := if p < 6 then baseMF + 0x100 * p else baseTW + 0x800
/-- Channel ch's registers (R371). -/
def baseCh (ch : Nat) : Nat := baseFE + 0x100 * ch

/-- The answer of a read, an SMBus command or a host request. -/
def Dev.answer (d : Dev) (v : Nat) : Dev := { d with reply := { data := v } }
/-- An error response (R37): all ones of the access's width. -/
def Dev.answerError (d : Dev) (width : Nat) : Dev := { d with reply := { data := 2 ^ (8 * width) - 1, error := true } }

/-! ### Violations, interrupts -/

/-- A violation occurs (R455, R458): the flag and its counter; it waits in the logger's queue of 64, or is counted lost. -/
def Dev.violate (d : Dev) (v : Violation) : Dev :=
  let d := d.raise baseRG 0 (baseRG + 4)
  if d.vqueue.length < 64 then { d with vqueue := d.vqueue ++ [v] } else d.count (baseRG + 0x14) 1

/-- A violation by host function fn at a control window offset. -/
def hostViolation (kind block code fn off : Nat) : Violation :=
  { kind := kind, block := block, code := code, reqKind := 0, addrKind := 0, facet := 0xFF, requester := fn, address := off }

/-- An event of an interrupt source sets its pending bit (R434). -/
def Dev.irq (d : Dev) (src : Nat) : Dev := { d with hl := { d.hl with pend := NatSet.ins d.hl.pend src } }

/-- The governor lets a facet start new tile ops and reads in the present window (R29, R495). -/
def Dev.permits (d : Dev) (f : Nat) : Bool := (d.window + f) % 16 < 16 - (nth ({} : GovFacet) d.gov f).effective

/-- Something leaves the module. -/
def Dev.emit (d : Dev) (o : Out) : Dev := { d with out := d.out ++ [o] }

/-- A read request of the module for n bytes of host memory, where the link to the host is up. -/
def Dev.hostGet (d : Dev) (addr n : Nat) : Dev :=
  if d.hl.eklUp then { d.emit (.hostRead d.hl.nextId addr n) with hl := { d.hl with nextId := d.hl.nextId + 1 } } else d

/-! ### Cores, channels and other tables -/

def Dev.core (d : Dev) (n : Nat) : Core := Sparse.get {} d.cores n
def Dev.setCore (d : Dev) (n : Nat) (k : Core) : Dev := { d with cores := Sparse.set {} d.cores n k }
def Dev.updCore (d : Dev) (n : Nat) (f : Core → Core) : Dev := d.setCore n (f (d.core n))
def Dev.chan (d : Dev) (n : Nat) : Channel := Sparse.get {} d.chans n
def Dev.setChan (d : Dev) (n : Nat) (k : Channel) : Dev := { d with chans := Sparse.set {} d.chans n k }
def Dev.updChan (d : Dev) (n : Nat) (f : Channel → Channel) : Dev := d.setChan n (f (d.chan n))
def Dev.mchan (d : Dev) (n : Nat) : Chan := Sparse.get {} d.mem.chans n
def Dev.setMchan (d : Dev) (n : Nat) (k : Chan) : Dev := { d with mem := { d.mem with chans := Sparse.set {} d.mem.chans n k } }
def Dev.queue (d : Dev) (q : Nat) : DevQueue := Sparse.get {} d.queues q
def Dev.setQueue (d : Dev) (q : Nat) (k : DevQueue) : Dev := { d with queues := Sparse.set {} d.queues q k }
def Dev.client (d : Dev) (i : Nat) : Client := Sparse.get {} d.clients i
def Dev.updClient (d : Dev) (i : Nat) (f : Client → Client) : Dev := { d with clients := Sparse.upd {} d.clients i f }
def Dev.port (d : Dev) (p : Nat) : Port := nth {} d.ports p
def Dev.updPort (d : Dev) (p : Nat) (f : Port → Port) : Dev := { d with ports := modNth f p d.ports }
def Dev.mirror (d : Dev) (f : Nat) : Mirror := nth {} d.twin.mirrors f
def Dev.updMirror (d : Dev) (f : Nat) (g : Mirror → Mirror) : Dev :=
  { d with twin := { d.twin with mirrors := modNth g f d.twin.mirrors } }

/-- The command with a sequence number in a channel. -/
def Dev.cmd? (d : Dev) (ch seq : Nat) : Option Cmd := (d.chan ch).cmds.find? (fun k => k.seq == seq)
/-- The command with a sequence number changed. -/
def Dev.updCmd (d : Dev) (ch seq : Nat) (f : Cmd → Cmd) : Dev :=
  d.updChan ch (fun k => { k with cmds := k.cmds.map (fun x => if x.seq == seq then f x else x) })
/-- The command of an owner changed. -/
def Dev.updOwnCmd (d : Dev) (o : Owner) (f : Cmd → Cmd) : Dev := d.updCmd o.ch o.seq f
/-- A flag of the command's completion record (Table 12.10): 0 poison, 2 enqueue_failed, 3 fault_abort, 4 oob. -/
def Dev.mark (d : Dev) (o : Owner) (i : Nat) : Dev := d.updOwnCmd o (fun k => { k with cflags := setBit k.cflags i true })
/-- Mark when c holds. -/
def Dev.markIf (d : Dev) (c : Bool) (o : Owner) (i : Nat) : Dev := if c then d.mark o i else d

/-- A core's ready bit (R439): its physical core passed BIST, it is not quarantined, and the map that names it is applied. -/
def coreReady (c : Ctl) (d : Dev) (n : Nat) : Bool :=
  c.blocksReady && (c.bistDone && (!bit c.bistFail (c.phys n) && ((c.coreFacet n).isSome && (d.core n).quar.phase == .none)))

/-- A relay transfer waits at a core for room in its landing ring (R357, R359). -/
def Dev.relayFull (d : Dev) (n : Nat) : Bool :=
  (d.core n).landing.head?.any (fun x => 64 ≤ x.data.length) &&
  decide (d.fld (baseSQ n + 0x30) 26 16 * 64 ≤ (d.core n).arrived - (d.core n).freed)

/-! ### A facet's own work -/

/-- The open fault entries as (number, entry). -/
def Dev.openFaults (d : Dev) : List (Nat × FaultEntry) := d.xl.faults.filterMap (fun x => x.2.map (fun e => (x.1, e)))

/-- The requester `who` (4 * core + engine) waits on an open fault entry, or for room in the fault table. -/
def Dev.faultWaits (d : Dev) (who : Nat) : Bool :=
  d.openFaults.any (fun x => x.2.waiters.any (fun y => y.1 == who)) || d.xl.tableWait.any (fun p => p.who == who)

/-- Some requester of a core waits on a fault (R317). -/
def Dev.coreFaults (d : Dev) (n : Nat) : Bool := (List.range 4).any (fun e => d.faultWaits (4 * n + e))

/-- A core has work of its own: tasks, ops, transfers, baskets, maintenance. -/
def Core.works (k : Core) : Bool :=
  k.seq.task.isSome || (!k.saved.isEmpty || (!k.seq.outst.isEmpty || (!k.dma.queue.isEmpty || (!k.landing.isEmpty ||
  (!k.ge.baskets.isEmpty || !k.ge.maint.isEmpty)))))

/-- A command of a channel that stands for tasks or a transfer under way: a LAUNCH, a COPY or a BATCH that has started. -/
def Cmd.working (k : Cmd) : Bool :=
  (k.phase = .started || k.phase = .running) && (byteAt k.raw 2 == 1 || (byteAt k.raw 2 == 2 || byteAt k.raw 2 == 3))

/-- Work of a facet's own remains (R74): tasks, transfers, baskets. -/
def Dev.facetWorks (c : Ctl) (d : Dev) (f : Nat) : Bool :=
  (c.facetCores f).any (fun n => (d.core n).works || d.coreFaults n) ||
  (d.ready.any (fun r => r.facet == f) ||
  (d.chans.any (fun (e : Nat × Channel) => c.chFacet e.1 == some f && e.2.cmds.any Cmd.working) ||
   d.hl.ext.any (fun e => c.asFacet e.as == some f)))

/-- A facet takes inbound requests (R75): it is RUNNING, or DRAINING with work of its own left. -/
def Dev.takesInbound (c : Ctl) (d : Dev) (f : Nat) : Bool :=
  match c.fstate f with
  | .running => true
  | .draining => d.facetWorks c f
  | _ => false

/-! ### Core Store -/

/-- Bytes of Core Store (R19). -/
def storeBytes : Nat := 0x600000

/-- n bytes of core k's store from offset a, each with the poison of its granule. -/
def Core.csRead (k : Core) (a n : Nat) : List PByte :=
  (List.range n).map (fun i => (Memory.read k.store (a + i), NatSet.has k.poison ((a + i) / 64)))

/-- The poison of the granules that [a, a + bytes) touches after a write of the bytes (R268, R289): poisoned data poisons the
granule, 64 clean bytes clear it, a clean partial write leaves it. -/
def poisonAfter (s : NatSet) (a : Nat) (b : List PByte) : NatSet :=
  let n := b.length
  if n = 0 then s
  else (List.range ((a + n - 1) / 64 + 1 - a / 64)).foldl (fun s i =>
    let g := a / 64 + i
    let lo := max a (64 * g)
    let hi := min (a + n) (64 * g + 64)
    if ((b.drop (lo - a)).take (hi - lo)).any (·.2) then NatSet.ins s g
    else if hi - lo = 64 then NatSet.del s g else s) s

/-- Bytes written to core k's store at offset a. -/
def Core.csWrite (k : Core) (a : Nat) (b : List PByte) : Core :=
  { k with store := Memory.writeN k.store a (b.map (·.1)), poison := poisonAfter k.poison a b }

/-- Any of the bytes is poisoned. -/
def anyPoison (b : List PByte) : Bool := b.any (·.2)
/-- The plain bytes. -/
def plain (b : List PByte) : List Byte := b.map (·.1)
/-- Bytes with one poison bit. -/
def marked (p : Bool) (b : List Byte) : List PByte := b.map (fun x => (x, p))

/-! ### Sync objects -/

/-- The sync object o. -/
def Dev.syncObj (d : Dev) (o : Nat) : SyncObj := Sparse.get {} d.sync o

/-- The control window offset of a sync object. -/
def syncOff (o : Nat) : Nat := baseSY + 8 * o

/-- A wait's condition holds of value x. -/
def waitMet (eq : Bool) (v x : Nat) : Bool := if eq then x == v else v ≤ x

/-- A command completes (R365, R386): it joins its channel's completed commands; a LAUNCH leaves its client's outstanding count. -/
def Dev.finish (d : Dev) (ch seq : Nat) : Dev :=
  match d.cmd? ch seq with
  | none => d
  | some k =>
    if k.phase = .done then d
    else
      let d := d.updChan ch (fun h => { h with
        cmds := h.cmds.map (fun x => if x.seq == seq then { x with phase := .done } else x)
        fin := h.fin ++ [seq] })
      let d := d.count (baseCh ch + 0x58) 1
      let d := if k.status = 0 then d else d.raise (baseCh ch + 0x18) 3 (baseCh ch + 0x48)
      if byteAt k.raw 2 = 1 then
        d.updClient k.client (fun x => { x with completed := (x.completed + 1) % 2 ^ 64, outstanding := x.outstanding - 1 })
      else d

/-- A command completes with a status, unless an earlier cause has set one. -/
def Dev.finishWith (d : Dev) (ch seq status : Nat) : Dev :=
  (d.updCmd ch seq (fun k => if k.status = 0 then { k with status := status } else k)).finish ch seq

/-- The SYNC command waits on object o with a condition that value x meets. -/
def Cmd.waitsOn (k : Cmd) (o : Nat) : Bool :=
  k.phase = .running && (byteAt k.raw 2 == 4 && (le k.raw 0x14 4 % 2 ^ 17 == o && 2 ≤ byteAt k.raw 0x10))

/-- The condition of a SYNC command's wait holds of x. -/
def Cmd.waitHolds (k : Cmd) (x : Nat) : Bool := waitMet (byteAt k.raw 0x10 == 3) (le k.raw 0x18 8) x

/-- The SYNC commands that wait on object o, as (channel, command). -/
def Dev.syncWaits (d : Dev) (o : Nat) : List (Nat × Cmd) :=
  d.chans.flatMap (fun (e : Nat × Channel) => (e.2.cmds.filter (fun k => k.waitsOn o)).map (fun k => (e.1, k)))

/-- A core's WAIT ends: its cycles are counted (SQ_WAIT_CYCLES, log entry 79). -/
def Dev.waitEnds (d : Dev) (n : Nat) : Dev :=
  (d.updCore n (fun k => { k with seq := { k.seq with wait := .none } })).countFree (baseSQ n + 0x74)

/-- The cores whose WAIT on object o is met by a value. -/
def Dev.releasedBy (d : Dev) (o x : Nat) : List Nat :=
  (d.cores.filter (fun (e : Nat × Core) => match e.2.seq.wait with
    | SqWait.sync o' eq v => o' == o && waitMet eq v x
    | _ => false)).map (·.1)

/-- Waiters of object o are tested against its value (R362): a core's WAIT is released, a SYNC command completes. -/
def Dev.testWaiters (d : Dev) (o : Nat) : Dev :=
  let x := (d.syncObj o).value
  let d := (d.releasedBy o x).foldl Dev.waitEnds d
  (d.syncWaits o).foldl (fun d w => if w.2.waitHolds x then d.finish w.1 w.2.seq else d) d

/-- An object's value set, and its waiters tested. -/
def Dev.syncSet (d : Dev) (o v : Nat) : Dev :=
  { d with sync := Sparse.upd {} d.sync o (fun s => { s with value := v % 2 ^ 64 }) }.testWaiters o

/-- ADD (R362). -/
def Dev.syncAdd (d : Dev) (o v : Nat) : Dev := d.syncSet o ((d.syncObj o).value + v)

end Sys2Proof.Machine
end

