-- ==== Sys2Proof/Machine/Slices.lean ====
section
/-! DEFINITION. Operations of the memory system (HBM4, Point Path and Memory-Side Cache): where an address lands, what a channel reads and
writes, what a slice of the memory-side cache does with an access, the range check at the slice. -/

namespace Sys2Proof.Machine

/-- Where a physical address of facet f lies: channel and channel-local address (R274). -/
def Ctl.place (c : Ctl) (f pa : Nat) : Nat × Nat :=
  let chans := c.memChans f
  let n := chans.length
  let o := pa - f * 2 ^ 39
  let g := o / 256
  let q := g / n
  let r := g % n
  let x := q ^^^ (q >>> 8) ^^^ (q >>> 16) ^^^ (nth (0, 0) c.tm.hash f).2
  (nth 0 chans ((r + x) % n), q * 256 + o % 256)

/-- The key of a channel-local address in HBM. -/
def hbmKey (ch loc : Nat) : Nat := ch * 2 ^ 31 + loc

/-- The address of a channel granule as the facet that owns it sees it (MC_UE_ADDR, violation addresses): the inverse of R274. -/
def Ctl.unplace (c : Ctl) (ch loc : Nat) : Nat :=
  match chanOwner (nth 0x80 c.tm.chan ch) with
  | [] => 0
  | f :: _ =>
    let chans := c.memChans f
    let n := chans.length
    let i := (findIdx (· == ch) chans).getD 0
    let q := loc / 256
    let x := q ^^^ (q >>> 8) ^^^ (q >>> 16) ^^^ (nth (0, 0) c.tm.hash f).2
    let r := (i + n - x % n) % n
    f * 2 ^ 39 + (q * n + r) * 256 + loc % 256

/-- The channel's MC registers. -/
def baseMc (ch : Nat) : Nat := baseMC + 0x800 * ch
/-- The slice's MS registers. -/
def baseMs (s : Nat) : Nat := baseMS + 0x1000 * s
/-- The slice that serves a channel (R272). -/
def sliceOf (ch : Nat) : Nat := ch / 24

/-! ### HBM -/

/-- The key under which an access with the protected attribute stores a granule (R485): none without the attribute. -/
def Ctl.cryptTag (c : Ctl) (f pa : Nat) (prot : Bool) : Option CryptTag :=
  if prot then some { facet := f, epoch := nth 0 c.keyEpoch f, tweak := pa / 64 } else none

/-- The 64 B that a read returns of what is stored under `stored` when it decrypts under `want` (R485, R486): the plain bytes when the
two agree; otherwise cipher text, or the decryption of other bytes, which are free values (log entry 12). -/
def decryptAs (stored want : Option CryptTag) (b : List Byte) : List Byte :=
  if stored = want then b
  else
    let raw := match stored with
      | none => b
      | some t => padTo 64 (Config.xtsEnc t.facet t.epoch t.tweak b)
    match want with
    | none => raw
    | some t => padTo 64 (Config.xtsDec t.facet t.epoch t.tweak raw)

/-- What a channel holds of a 64 B granule, decrypted under `want`, with its poison (R288). A channel that a map has brought back holds free contents
where nothing has been written since (R79, log entry 113). -/
def Dev.hbmData (d : Dev) (ch loc : Nat) (want : Option CryptTag) : List Byte × Bool :=
  let k := hbmKey ch (loc / 64 * 64)
  let held := match (d.mchan ch).lost with
    | some n => if NatSet.has (d.mchan ch).written (loc / 64) then none else some (Config.lostGranule n (loc / 64))
    | none => none
  match held with
  | some x => (padTo 64 x.1, x.2)
  | none => (decryptAs (Sparse.get none d.mem.tags (k / 64)) want (Memory.readN d.mem.hbm k 64), NatSet.has d.mem.poison (k / 64))

/-- An uncorrectable granule is recorded (R286, R291, Table 10.4): MC_UE_ADDR, MC_UE_SRC (0 client read, 1 scrub, 2 partial-write merge), the flag and its
counter. -/
def Dev.recordUe (d : Dev) (ch pa source : Nat) : Dev :=
  let b := baseMc ch
  (((d.setReg (b + 4) (pa % 2 ^ 32)).setReg (b + 8) (pa / 2 ^ 32)).setReg (b + 0xC) source).raise b 1 (b + 0x24)

/-- A read of a 64 B granule by its channel (R276, R286, R288): bytes and poison. A granule that cannot be corrected is recorded and returned
poisoned. A channel that is not READY returns the granule poisoned and counts it. -/
def Dev.hbmRead (c : Ctl) (d : Dev) (source ch loc : Nat) (want : Option CryptTag) : Dev × List Byte × Bool :=
  if (d.mchan ch).state = .ready then
    let bad := NatSet.has d.mem.bad (hbmKey ch loc / 64)
    let (b, p) := d.hbmData ch loc want
    let d := if bad then d.recordUe ch (c.unplace ch (loc / 64 * 64)) source else d
    (if p || bad then d.count (baseMc ch + 0x54) 1 else d, b, p || bad)
  else (d.count (baseMc ch + 0x54) 1, zeros 64, true)

/-- A write of a whole 64 B granule by its channel (R276, R288, R289); poisoned data stores the poison pattern. -/
def Dev.hbmWrite (d : Dev) (ch loc : Nat) (tag : Option CryptTag) (b : List Byte) (p : Bool) : Dev :=
  let k := hbmKey ch (loc / 64 * 64)
  if (d.mchan ch).state = .ready then
    let d := if p then d.count (baseMc ch + 0x58) 1 else d
    let d := if (d.mchan ch).lost.isSome then d.setMchan ch { d.mchan ch with written := NatSet.ins (d.mchan ch).written (loc / 64) } else d
    { d with mem := { d.mem with
        hbm := Memory.writeN d.mem.hbm k (padTo 64 b)
        poison := if p then NatSet.ins d.mem.poison (k / 64) else NatSet.del d.mem.poison (k / 64)
        bad := NatSet.del d.mem.bad (k / 64)
        tags := Sparse.set none d.mem.tags (k / 64) tag } }
  else d.count (baseMc ch + 0x5C) 1

/-! ### Lines -/

/-- The set of a channel-local granule (R281). -/
def setOf (q : Nat) : Nat := (q ^^^ (q >>> 12)) % 4096
/-- The key of a way of a set of a slice. -/
def lineKey (s set way : Nat) : Nat := s * 65536 + set * 16 + way
def Dev.line (d : Dev) (k : Nat) : Line := Sparse.get {} d.mem.lines k
def Dev.setLine (d : Dev) (k : Nat) (l : Line) : Dev := { d with mem := { d.mem with lines := Sparse.set {} d.mem.lines k l } }

/-- The key of the valid line that holds a granule, if one does. -/
def Dev.findLine (d : Dev) (ch loc : Nat) : Option Nat :=
  let q := loc / 256
  let s := sliceOf ch
  ((List.range 16).map (lineKey s (setOf q))).find? (fun k =>
    let l := d.line k
    l.state ≠ .invalid && (l.ch == ch && l.gran == q))

/-- The tag under which sector i of a line lies in HBM. -/
def lineTag (c : Ctl) (l : Line) (i : Nat) : Option CryptTag :=
  c.cryptTag l.facet (c.unplace l.ch (l.gran * 256 + 64 * i)) l.prot

/-- The dirty sectors of a line written back (R284); they become clean. -/
def Dev.writeBack (c : Ctl) (d : Dev) (k : Nat) : Dev :=
  let l := d.line k
  let dirty := (List.range 4).filter (fun i => (nth {} l.sectors i).dirty)
  if dirty.isEmpty then d
  else
    let d := dirty.foldl (fun d i =>
      let s := nth {} l.sectors i
      (d.hbmWrite l.ch (l.gran * 256 + 64 * i) (lineTag c l i) s.data s.poison).count (baseMs (sliceOf l.ch) + 0x58) 1) d
    (if (d.mchan l.ch).state = .ready then d.count (baseMc l.ch + 0x4C) 1 else d).setLine k { l with sectors := l.sectors.map (fun s => { s with dirty := false }) }

/-- A line invalidated, its dirty sectors written back first. -/
def Dev.dropLine (c : Ctl) (d : Dev) (k : Nat) : Dev := (Dev.writeBack c d k).setLine k {}

/-- The next visit of a flush or unkeep of facet f to a set of slice s (R285): dirty sectors written back and the facet's lines invalidated, or its KEEP
lines turned into LAST. -/
def Dev.visitSet (c : Ctl) (d : Dev) (s f : Nat) (unkeep : Bool) (set : Nat) : Dev :=
  let ks := ((List.range 16).map (lineKey s set)).filter (fun k => (d.line k).state ≠ .invalid && (d.line k).facet == f)
  let d := if unkeep then ks.foldl (fun d k => if (d.line k).state = .keep then d.setLine k { d.line k with state := .last } else d) d
    else ks.foldl (Dev.dropLine c) d
  { d with mem := { d.mem with visited := NatSet.ins d.mem.visited (((s * 16 + f) * 2 + flagNat unkeep) * 4096 + set) } }

/-- The flushes and unkeeps in progress in a slice, as (facet, unkeep). -/
def Dev.flushing (d : Dev) (s : Nat) : List (Nat × Bool) :=
  (bitsOf 16 (d.reg (baseMs s + 4))).map (fun f => (f, false)) ++ (bitsOf 16 (d.reg (baseMs s + 8))).map (fun f => (f, true))

/-- Before an access to a set each flush in progress may have visited it: when, the spec leaves to the slice, so a free value says (R285, log entry 117). -/
def Dev.visits (c : Ctl) (d : Dev) (s set : Nat) : Dev :=
  if d.reg (baseMs s + 4) = 0 && d.reg (baseMs s + 8) = 0 then d
  else (d.flushing s).foldl (fun d x =>
    if NatSet.has d.mem.visited (((s * 16 + x.1) * 2 + flagNat x.2) * 4096 + set) then d
    else
      let (d, v) := d.free
      if bit v.toNat 0 then Dev.visitSet c d s x.1 x.2 set else d) d

/-- The least recently used way among those given. -/
def Dev.lruOf (d : Dev) : List Nat → Option Nat
  | [] => none
  | k :: r => match Dev.lruOf d r with
    | none => some k
    | some j => if (d.line k).used ≤ (d.line j).used then some k else some j

/-- The ways of facet f in a set of a slice (R61). -/
def Ctl.waysOf (c : Ctl) (s f : Nat) : List Nat := bitsOf 16 (nth 0 c.tm.ways (16 * s + f))

/-- The victim of an allocation (R283). -/
def Dev.victim (c : Ctl) (d : Dev) (s set f : Nat) (keep : Bool) : Option Nat :=
  let ks := (c.waysOf s f).map (lineKey s set)
  match ks.find? (fun k => (d.line k).state = .invalid) with
  | some k => some k
  | none => match d.lruOf (ks.filter (fun k => (d.line k).state = .last)) with
    | some k => some k
    | none => if keep then d.lruOf ks else none

/-- The stamp of this use. -/
def Dev.tick (d : Dev) : Dev := { d with mem := { d.mem with clock := d.mem.clock + 1 } }

/-- A line allocated for a granule (R283); none when the access proceeds as STREAM. -/
def Dev.alloc (c : Ctl) (d : Dev) (f ch loc : Nat) (keep prot : Bool) : Dev × Option Nat :=
  let q := loc / 256
  let s := sliceOf ch
  match d.victim c s (setOf q) f keep with
  | none => (d.count (baseMs s + 0x54) 1, none)
  | some k =>
    let d := if (d.line k).state = .invalid then d else (Dev.dropLine c d k).count (baseMs s + 0x60) 1
    let d := (d.count (baseMs s + 0x50) 1).tick
    (d.setLine k { state := if keep then .keep else .last, ch := ch, gran := q, facet := f, prot := prot, used := d.mem.clock }, some k)

/-- Who asks, for a violation's entry: reporting block MS, requester kind and number, facet (Table 17.2). -/
structure Who where
  reqKind : Nat := 1
  requester : Nat := 0
  facet : Nat := 0
  deriving DecidableEq, Repr

/-- A core's engine as requester, coded as err_engine of Table 12.10. -/
def whoCore (core eng facet : Nat) : Who := { reqKind := 1, requester := core * 256 + eng, facet := facet }
/-- A channel as requester. -/
def whoChan (ch facet : Nat) : Who := { reqKind := 2, requester := ch, facet := facet }
/-- A host function as requester. -/
def whoHost (fn facet : Nat) : Who := { reqKind := 0, requester := fn, facet := facet }

/-- The violation of the range check at the slice (R273). -/
def rangeViolation (w : Who) (pa : Nat) : Violation :=
  { kind := 1, block := 0x0A, code := 0, reqKind := w.reqKind, addrKind := 2, facet := w.facet, requester := w.requester, address := pa }

/-- An access whose attribute differs from that of the line it hits: the line is written back and invalidated (R486). -/
def Dev.attrCheck (c : Ctl) (d : Dev) (ch loc : Nat) (prot : Bool) : Dev :=
  match d.findLine ch loc with
  | none => d
  | some k => if (d.line k).prot = prot then d else Dev.dropLine c d k

/-- How a read that reaches HBM counts (R279): as a point read, as a stream read, or not again for the same 256 B granule. -/
inductive ReadKind where
  | point | stream | again
  deriving DecidableEq, Repr

/-- The count of a read that reaches HBM. -/
def Dev.countRead (d : Dev) (ch : Nat) : ReadKind → Dev
  | .point => d.count (baseMc ch + 0x40) 1
  | .stream => d.count (baseMc ch + 0x48) 1
  | .again => d

/-- A read by the point path serves the requests queued for the same granule too (R279): they are merged into it. -/
def Dev.mergeQueued (d : Dev) (ch pa : Nat) (x : List Byte × Bool) : Dev :=
  let k := d.mchan ch
  let same := fun (r : PointReq) => r.pa == pa && (r.cls ≠ 3 && r.snap.isNone)
  let n := (k.queue.filter same).length
  if n = 0 then d
  else (d.setMchan ch { k with queue := k.queue.map (fun r => if same r then { r with snap := some x, merged := true } else r) }).count (baseMc ch + 0x44) n

/-- A slice accepts a read of the 64 B granule at pa, in facet w.facet (R273, R278, R282, Table 10.2): its bytes and poison; the
last component says that the access met the range check or a channel that is not READY. An access may take several granules of one 256 B line: `post` marks the last of them,
after which a LAST line is invalidated. -/
def Dev.sliceRead (c : Ctl) (d : Dev) (w : Who) (pa : Nat) (hint : Nat) (prot : Bool) (kind : ReadKind) (post : Bool) : Dev × List Byte × Bool × Bool :=
  let f := w.facet
  let pa := pa / 64 * 64
  if !c.inHbm f pa 64 then (d.violate (rangeViolation w pa), zeros 64, true, true)
  else
    let (ch, loc) := c.place f pa
    let s := sliceOf ch
    let i := loc % 256 / 64
    let d := Dev.visits c d s (setOf (loc / 256))
    let d := Dev.attrCheck c d ch loc prot
    let tag := c.cryptTag f pa prot
    let down := (d.mchan ch).state ≠ .ready
    let fetch := fun (d : Dev) =>
      let (d, b, p) := Dev.hbmRead c (d.countRead ch kind) 0 ch loc tag
      (if kind = .point && !prot then d.mergeQueued ch pa (b, p) else d, b, p)
    match d.findLine ch loc with
    | some k =>
      let l := d.line k
      let sec := nth {} l.sectors i
      let d := d.count (baseMs s + (if sec.valid then 0x40 else 0x44)) 1
      if sec.valid then
        if hint = 1 then
          let d := d.tick
          (d.setLine k { l with state := .keep, used := d.mem.clock }, sec.data, sec.poison, false)
        else if hint = 2 && (post && l.state = .last) then ((Dev.dropLine c d k).count (baseMs s + 0x5C) 1, sec.data, sec.poison, false)
        else (d, sec.data, sec.poison, false)
      else
        let (d, b, p) := fetch d
        if hint = 0 || down then (d, b, p, down)
        else
          let l := { l with sectors := modNth (fun _ => { valid := true, dirty := false, poison := p, data := b }) i l.sectors }
          if hint = 1 then
            let d := d.tick
            (d.setLine k { l with state := .keep, used := d.mem.clock }, b, p, false)
          else (d.setLine k l, b, p, false)
    | none =>
      let d := d.count (baseMs s + 0x44) 1
      let (d, b, p) := fetch d
      if hint = 0 || down then (d, b, p, down)
      else match Dev.alloc c d f ch loc (hint == 1) prot with
        | (d, none) => (d, b, p, false)
        | (d, some k) =>
          (d.setLine k { d.line k with sectors := modNth (fun _ => { valid := true, dirty := false, poison := p, data := b }) i (d.line k).sectors },
           b, p, false)

/-- Masked bytes merged into a granule. -/
def mergeBytes : List Byte → List (Option Byte) → List Byte
  | [], _ => []
  | a :: r, [] => a :: r
  | a :: r, m :: ms => m.getD a :: mergeBytes r ms

/-- The new bytes and poison of a granule after a write (R277, R289): a full clean write clears the poison, a partial one leaves it,
poisoned data poisons the granule. -/
def writeGranule (old : List Byte) (oldPoison : Bool) (m : List (Option Byte)) (p : Bool) : List Byte × Bool :=
  (mergeBytes old m, p || (oldPoison && m.any (·.isNone)))

/-- Requests queued for a granule that is about to be written are answered with the granule as it stands now (R278). -/
def Dev.snapQueued (d : Dev) (ch pa loc : Nat) : Dev :=
  let k := d.mchan ch
  let due := fun (r : PointReq) => r.pa == pa && r.snap.isNone
  if !(k.queue ++ k.waiting).any due then d
  else
    let x := match d.findLine ch loc with
      | some j =>
        let sec := nth {} (d.line j).sectors (loc % 256 / 64)
        if sec.valid then (sec.data, sec.poison) else d.hbmData ch loc none
      | none => d.hbmData ch loc none
    let put := fun (r : PointReq) => if due r then { r with snap := some x } else r
    d.setMchan ch { k with queue := k.queue.map put, waiting := k.waiting.map put }

/-- A slice accepts a write of the 64 B granule at pa (R273, R277, R278, Table 10.2): m gives each byte to write. The last component
says that the write was dropped. `first`: the first granule of its 256 B line in this access. -/
def Dev.sliceWrite (c : Ctl) (d : Dev) (w : Who) (pa : Nat) (m : List (Option Byte)) (p : Bool) (hint : Nat) (prot first : Bool) :
    Dev × Bool :=
  let f := w.facet
  let pa := pa / 64 * 64
  if m.all (·.isNone) then (d, false)
  else if !c.inHbm f pa 64 then (d.violate (rangeViolation w pa), true)
  else
    let (ch, loc) := c.place f pa
    let s := sliceOf ch
    let i := loc % 256 / 64
    let d := Dev.visits c d s (setOf (loc / 256))
    let d := (Dev.attrCheck c d ch loc prot).snapQueued ch pa loc
    let tag := c.cryptTag f pa prot
    let full := m.all (·.isSome)
    let down := (d.mchan ch).state ≠ .ready
    let dropped := fun (d : Dev) => (d.count (baseMc ch + 0x5C) 1, true)
    let base := fun (d : Dev) => if full then (d, zeros 64, false) else
      let (d, b, q) := Dev.hbmRead c d 2 ch loc tag
      (d.count (baseMc ch + 0x50) 1, b, q)
    let place := fun (d : Dev) (k : Nat) =>
      let l := d.line k
      let sec := nth {} l.sectors i
      let (d, b, q) := if sec.valid then (d, sec.data, sec.poison) else base d
      let (b, q) := writeGranule b q m p
      d.setLine k { l with sectors := modNth (fun _ => { valid := true, dirty := true, poison := q, data := b }) i l.sectors }
    match d.findLine ch loc with
    | some k =>
      let d := d.count (baseMs s + 0x48) 1
      if down && (!full && !(nth {} (d.line k).sectors i).valid) then dropped d
      else
        let d := place d k
        (if hint = 1 then
          let d := d.tick
          d.setLine k { d.line k with state := .keep, used := d.mem.clock }
         else d, false)
    | none =>
      let d := d.count (baseMs s + 0x4C) 1
      let direct := fun (d : Dev) =>
        let (d, b, q) := base d
        let (b, q) := writeGranule b q m p
        let d := d.hbmWrite ch loc tag b q
        if first then d.count (baseMc ch + 0x4C) 1 else d
      if down then dropped d
      else if hint = 0 then (direct d, false)
      else match Dev.alloc c d f ch loc (hint == 1) prot with
        | (d, none) => (direct d, false)
        | (d, some k) => (place d k, false)

/-! ### Errors in arrays -/

/-- A word error that the ECC of the MSC's data array finds in sector i of a line (R287). -/
def Dev.mscError (d : Dev) (k i : Nat) (e : Ecc) : Dev :=
  let l := d.line k
  let b := baseMs (k / 65536)
  if !(nth {} l.sectors i).valid then d
  else match e with
    | .clean => d
    | .corrected => d.raise b 0 (b + 0x10)
    | .uncorrectable => (d.setLine k { l with sectors := modNth (fun s => { s with poison := true }) i l.sectors }).raise b 1 (b + 0x14)

/-- A word error that the ECC of a core's store finds in granule g (R287): Core Store with the delivery and landing rings in it. -/
def Dev.storeError (d : Dev) (n g : Nat) (e : Ecc) : Dev :=
  let b := baseSQ n
  match e with
  | .clean => d
  | .corrected => d.raise b 3 (b + 0x4C)
  | .uncorrectable => (d.updCore n (fun k => { k with poison := NatSet.ins k.poison g })).raise b 4 (b + 0x50)

/-- A granule of HBM with an error (R286): one that can be corrected counts, and its write-back leaves the bytes as they are; another stays bad until a write
of the granule. -/
def Dev.hbmError (d : Dev) (ch loc : Nat) (e : Ecc) : Dev :=
  match e with
  | .clean => d
  | .corrected => d.raise (baseMc ch) 0 (baseMc ch + 0x20)
  | .uncorrectable => { d with mem := { d.mem with bad := NatSet.ins d.mem.bad (hbmKey ch loc / 64) } }

/-- An error may strike an array at any time: number v, a free value, says which, if any (log entry 118). -/
def Dev.upset (d : Dev) (v : Nat) : Dev :=
  let e : Ecc := if bit v 2 then .uncorrectable else .corrected
  let x := v / 8
  match v % 4 with
  | 1 => if (d.mchan (x % 384)).state = .ready then d.hbmError (x % 384) (64 * (x / 384 % (chanBytes / 64))) e else d
  | 2 => match (d.mem.lines.drop (x / 4 % (d.mem.lines.length + 1))).head? with
    | some l => d.mscError l.1 (x % 4) e
    | none => d
  | 3 => d.storeError (x % 128) (x / 128 % (storeBytes / 64)) e
  | _ => d

/-- A bank of the flash may become unreadable, or readable again, at any time (R68, R479, log entry 118). -/
def Flash.upset (f : Flash) (v : Nat) : Flash := if v % 4 = 0 then { f with unread := [bit v 2, bit v 3], fwUnread := [bit v 4, bit v 5] } else f

/-! ### Accesses of several granules by physical address -/

/-- The granules that [pa, pa + n) touches, ascending. -/
def granules (pa n : Nat) : List Nat := if n = 0 then [] else (List.range ((pa + n - 1) / 64 + 1 - pa / 64)).map (fun i => (pa / 64 + i) * 64)

/-- A stream read of the granule at g: the granule of 256 B already counted for this access is not counted again (R279). -/
def Dev.streamRead (c : Ctl) (d : Dev) (w : Who) (seen : Option Nat) (g hint : Nat) (prot last : Bool) : (Dev × Option Nat) × List Byte × Bool × Bool :=
  let off := baseMc (c.place w.facet g).1 + 0x48
  let n := d.reg off
  let (d, b, p, e) := Dev.sliceRead c d w g hint prot (if seen = some (g / 256) then .again else .stream) last
  ((d, if d.reg off = n then seen else some (g / 256)), b, p, e)

/-- n bytes read from physical address pa in facet w.facet; the last component says that some granule was answered with an error. -/
def Dev.paRead (c : Ctl) (d : Dev) (w : Who) (pa n : Nat) (hint : Nat) (prot : Bool) : Dev × List PByte × Bool :=
  let r := (granules pa n).foldl (fun (acc : (Dev × Option Nat) × List PByte × Bool) g =>
    let last := g + 64 ≥ pa + n || (g + 64) % 256 = 0
    let (d, b, p, e) := Dev.streamRead c acc.1.1 w acc.1.2 g hint prot last
    let lo := max pa g
    let hi := min (pa + n) (g + 64)
    (d, acc.2.1 ++ marked p (slice b (lo - g) (hi - lo)), acc.2.2 || e)) ((d, none), [], false)
  (r.1.1, r.2)

/-- The byte mask of the part of granule g that [pa, pa + bytes) covers, and the poison of that part. -/
def granuleMask (pa : Nat) (b : List PByte) (g : Nat) : List (Option Byte) × Bool :=
  let part := (List.range 64).map (fun i => if pa ≤ g + i then (b.drop (g + i - pa)).head? else none)
  (part.map (fun x => x.map (·.1)), part.any (fun x => (x.map (·.2)).getD false))

/-- Bytes written at physical address pa; the last component says that some granule's write was dropped. -/
def Dev.paWrite (c : Ctl) (d : Dev) (w : Who) (pa : Nat) (b : List PByte) (hint : Nat) (prot : Bool) : Dev × Bool :=
  (granules pa b.length).foldl (fun (acc : Dev × Bool) g =>
    let (m, p) := granuleMask pa b g
    let (d, e) := Dev.sliceWrite c acc.1 w g m p hint prot (g = pa / 64 * 64 || g % 256 = 0)
    (d, acc.2 || e)) (d, false)

/-- Plain bytes read from a facet's HBM with the STREAM hint, and whether any was poisoned. -/
def Dev.paBytes (c : Ctl) (d : Dev) (w : Who) (pa n : Nat) : Dev × List Byte × Bool :=
  let (d, b, _) := Dev.paRead c d w pa n 0 false
  (d, plain b, anyPoison b)

/-- Plain bytes written to a facet's HBM with the STREAM hint. -/
def Dev.paPut (c : Ctl) (d : Dev) (w : Who) (pa : Nat) (b : List Byte) : Dev := (Dev.paWrite c d w pa (marked false b) 0 false).1

end Sys2Proof.Machine
end

