-- ==== Sys2Proof/Machine/Routing.lean ====
section
/-! DEFINITION. Routing of packets (Maelsol Fabric and Twinned Pairs): coordinates, the fixed path of a packet, sending on a port. -/

namespace Sys2Proof.Machine

/-- A coordinate as x, y, z. -/
def coordList (k : Nat) : List Nat := [bits k 11 8, bits k 7 4, bits k 3 0]
/-- x, y, z as a coordinate. -/
def coordOf (l : List Nat) : Nat := nth 0 l 0 % 16 * 256 + nth 0 l 1 % 16 * 16 + nth 0 l 2 % 16

/-- This module's coordinate. -/
def Ctl.coord (c : Ctl) : Nat := coordOf c.tm.torus.pos

/-- The coordinate lies within the torus dimensions. -/
def Ctl.inTorus (c : Ctl) (k : Nat) : Bool := (List.range 3).all (fun i => nth 0 (coordList k) i < nth 1 c.tm.torus.dim i)

/-- The port on which a packet for dst leaves this module (R392): none where dst is this module. -/
def Ctl.nextPort (c : Ctl) (dst : Nat) : Option Nat :=
  (List.range 3).findSome? (fun i =>
    let a := nth 0 c.tm.torus.pos i
    let b := nth 0 (coordList dst) i
    let n := nth 1 c.tm.torus.dim i
    if a = b then none
    else if (b + n - a) % n ≤ (a + n - b) % n then some (2 * i) else some (2 * i + 1))

/-- The link that leaves on a torus port is the dateline link of its dimension (R58, R393). -/
def Ctl.crossesDateline (c : Ctl) (p : Nat) : Bool :=
  let i := p / 2
  let a := nth 0 c.tm.torus.pos i
  let n := nth 1 c.tm.torus.dim i
  nth 0 c.tm.torus.dateline i == (if p % 2 = 0 then a else (a + n - 1) % n)

/-- The virtual channel of a packet on the link that leaves on p (R393): it enters a dimension on VC0 and stays on VC1 once it has
crossed the dateline link. inPort: the port on which it came, if any. -/
def Ctl.nextVc (c : Ctl) (inPort : Option Nat) (vc p : Nat) : Nat :=
  if p = 6 then 0 else
  let cur := match inPort with
    | some q => if q / 2 = p / 2 && q < 6 then vc else 0
    | none => 0
  if c.crossesDateline p then 1 else cur

/-- A port is UP. -/
def Dev.portUp (d : Dev) (p : Nat) : Bool := (d.port p).state = .up

/-! ### Buffers, credits and arbitration (R399, R400) -/

/-- The flits of an input buffer (Table 14.5). -/
def PktClass.buffer : PktClass → Nat
  | .request => 128
  | .response => 128
  | .bulk => 192
  | .control => 16

/-- The order of the classes for packets of equal age (R400). -/
def PktClass.rank : PktClass → Nat
  | .response => 0
  | .request => 1
  | .bulk => 2
  | .control => 3

/-- Credits that port q has for a class and virtual channel: the next router's buffer less the flits whose credit is still out (R399). -/
def Dev.credits (d : Dev) (q : Nat) (cls : PktClass) (vc : Nat) : Nat :=
  cls.buffer - (((d.port q).flight.filter (fun x => x.1.cls = cls && x.1.vc = vc)).map (·.2)).foldl (· + ·) 0

/-- The buffer in which a packet waits: each is served in order (R396, log entry 130). -/
def Waiting.buffer (w : Waiting) : Nat × Nat × Nat × Nat := (w.inp, if w.inp = 7 then w.out else w.pkt.vc, w.pkt.cls.rank, 0)

/-- The first packet of each buffer; seen: the buffers already met. -/
def headsFrom : List (Nat × Nat × Nat × Nat) → List Waiting → List Waiting
  | _, [] => []
  | seen, w :: r => if seen.contains w.buffer then headsFrom seen r else w :: headsFrom (w.buffer :: seen) r

/-- The port on which a waiting packet leaves; none where it is delivered to this module's mesh. -/
def Ctl.exitOf (c : Ctl) (w : Waiting) : Option Nat :=
  if w.inp = 7 then some w.out else if w.inp = 6 then none else c.nextPort w.pkt.dst

/-- A waiting packet's age at local time `now`: what it brought and its wait here, in units of 64 mesh cycles (R400), at 11 mesh cycles for each
count of the local time counter (R14, R27). -/
def Waiting.age (w : Waiting) (now : Nat) : Nat := min 255 (w.pkt.age + 11 * (now - w.since) / 64)

/-- A waiting packet as it leaves on port q. -/
def Ctl.leaving (c : Ctl) (now : Nat) (w : Waiting) (q : Nat) : Pkt :=
  { w.pkt with vc := c.nextVc (if w.inp = 7 then none else some w.inp) w.pkt.vc q, age := w.age now }

/-- The router's choice between two packets for one output (R400): v goes before w. Age includes the wait at this router (log entry 130). -/
def Waiting.before (now : Nat) (v w : Waiting) : Bool :=
  if (v.pkt.cls = .control) ≠ (w.pkt.cls = .control) then v.pkt.cls = .control
  else if v.age now ≠ w.age now then w.age now < v.age now
  else if v.pkt.cls.rank ≠ w.pkt.cls.rank then v.pkt.cls.rank < w.pkt.cls.rank
  else v.inp < w.inp

/-- The packet that goes first. -/
def firstOf (now : Nat) : List Waiting → Option Waiting
  | [] => none
  | w :: r => match firstOf now r with
    | none => some w
    | some v => if v.before now w then some v else some w

/-- The packet that leaves next on port q: the first of those that have credits for every flit. -/
def Dev.nextOn (c : Ctl) (d : Dev) (q : Nat) : Option Waiting :=
  if !d.portUp q then none
  else firstOf d.ltc ((headsFrom [] d.waiting).filter (fun w =>
    c.exitOf w = some q && w.pkt.flits ≤ d.credits q w.pkt.cls (c.leaving d.ltc w q).vc))

/-- A packet waits for credits on port q. -/
def Dev.stalledOn (c : Ctl) (d : Dev) (q : Nat) : Bool :=
  d.portUp q && (headsFrom [] d.waiting).any (fun w => c.exitOf w = some q && d.credits q w.pkt.cls (c.leaving d.ltc w q).vc < w.pkt.flits)

/-- A packet leaves its buffer, which returns its credits to the router on that port (R399). -/
def Dev.unbuffer (d : Dev) (w : Waiting) : Dev :=
  let d := { d with waiting := d.waiting.erase w }
  if w.inp = 7 then d else d.emit (.credit w.inp w.pkt.cls w.pkt.vc w.pkt.flits)

/-- A packet leaves on a port: the flits sent are counted, and their credits are taken. -/
def Dev.sendOn (d : Dev) (p : Nat) (k : Pkt) : Dev :=
  ((d.count (basePort p + 0x40) k.flits).emit (.packet p k)).updPort p (fun x => { x with flight := x.flight ++ [(k, k.flits)] })

/-- Port q sends its next packet, if it has one that may go. -/
def Dev.sendNext (c : Ctl) (d : Dev) (q : Nat) : Option Dev :=
  (d.nextOn c q).map (fun w => ((d.unbuffer w).count (baseMF + (if w.inp = 7 then 0x1048 else 0x1040)) 1).sendOn q (c.leaving d.ltc w q))

/-- ROUTE_DOWN for a port is counted (R402). -/
def Dev.routeDown (d : Dev) (p : Nat) : Dev := d.count (basePort p + 0x4C) 1

/-- A packet's flits: the header and one for each 64 B of payload (R397). -/
def flitsOf (payload : Nat) : Nat := 1 + cdiv payload 64

/-- The source's check of a route (R395) for a facet: the port, or none where the destination lies outside the torus, the port is not
UP, or the facet's fabric_ports lacks it. -/
def Dev.route (c : Ctl) (d : Dev) (f dst : Nat) : Option Nat :=
  if !c.inTorus dst then none
  else match c.nextPort dst with
    | none => none
    | some p => if d.portUp p && bit (c.facet f).ports p then some p else none

/-- A packet of this module waits for port p, which sends at once where it may. -/
def Dev.enter (c : Ctl) (d : Dev) (p : Nat) (k : Pkt) : Dev :=
  let d := { d with waiting := d.waiting ++ [({ out := p, since := d.ltc, pkt := k } : Waiting)] }
  (d.sendNext c p).getD d

/-- The packets of a message with `payload` bytes: of at most 64 payload flits each (R397). -/
def packetsOf (payload : Nat) (b : PktBody) : List (Nat × PktBody) :=
  let lead := match b with
    | .ge rcv m => .geLead rcv m
    | b => b
  List.replicate ((payload - 1) / 4096) (65, lead) ++ [(flitsOf (payload - (payload - 1) / 4096 * 4096), b)]

/-- This module sends a message of its own on a port. -/
def Dev.inject (c : Ctl) (d : Dev) (p dst : Nat) (cls : PktClass) (payload : Nat) (b : PktBody) : Dev :=
  (packetsOf payload b).foldl (fun d x => d.enter c p { dst := dst, src := c.coord, cls := cls, flits := x.1, body := x.2 }) d

end Sys2Proof.Machine
end

