-- ==== Sys2Proof/Machine/Translate.lean ====
section
/-! DEFINITION. Operations of translation (Address Translation, Faults and Migration): the TLB, a walk and its faults, accesses of a core's
requesters by virtual address to HBM, host windows and remote windows, hot-page counting. An access takes its granules in order; it
stops where its requester waits on a fault entry or on data from outside the module, and is tried again by the event that completes
the op. -/

namespace Sys2Proof.Machine

/-- The context of an address space (Table 11.13). -/
def baseCtx (a : Nat) : Nat := baseTR + 0x10000 + 0x40 * a
def Dev.ctxOn (d : Dev) (a : Nat) : Bool := d.flag (baseCtx a) 31
def Dev.ctxRoot (d : Dev) (a : Nat) : Nat := d.fld (baseCtx a + 4) 31 16 * 2 ^ 16 + d.fld (baseCtx a + 8) 15 0 * 2 ^ 32
def Dev.ctxRwin (d : Dev) (a : Nat) : Nat := d.fld (baseCtx a + 0xC) 31 10 * 2 ^ 10 + d.fld (baseCtx a + 0x10) 15 0 * 2 ^ 32

/-- The lowest virtual address bit that a level's index takes (Table 11.2): the size of what its entry covers. -/
def levelShift : Nat → Nat
  | 0 => 39
  | 1 => 30
  | 2 => 21
  | _ => 16

/-- The index of a virtual address at a level. -/
def levelIndex (level va : Nat) : Nat :=
  match level with
  | 0 => bits va 51 39
  | 1 => bits va 38 30
  | 2 => bits va 29 21
  | _ => bits va 20 16

/-- Alignment of the table that a pointer at a level names: 4 KiB for L1 and L2 tables, 256 B for L3 tables. -/
def nextTableAlign (level : Nat) : Nat := if level = 2 then 256 else 4096

/-- What a walk finds at one level: the next table, a leaf, or a fault kind (Table 11.5) with the entry as read. -/
inductive WalkStep where
  | next (table : Nat)
  | leaf (entry : Nat)
  | fault (kind entry : Nat)
  deriving DecidableEq, Repr

/-- A valid entry is BAD_ENTRY (R302). f: the facet of the address space. -/
def badEntry (c : Ctl) (f level e : Nat) : Bool :=
  let leaf := bit e 1
  let addr := bits e 47 8 * 256
  bits e 63 48 ≠ 0 || bits e 7 6 ≠ 0 || (leaf && level = 0) || (!leaf && level = 3) ||
  (if leaf then addr % 2 ^ levelShift level ≠ 0 || (2 ^ 43 ≤ addr && addr < 2 ^ 46) || (bit e 4 && 2 ^ 43 ≤ addr)
   else bits e 5 2 ≠ 0 || addr % nextTableAlign level ≠ 0 || !c.inHbm f addr (nextTableAlign level))

/-- What an 8 B entry says at a level. -/
def entryStep (c : Ctl) (f level e : Nat) (poison : Bool) : WalkStep :=
  if poison then .fault 4 0
  else if !bit e 0 then .fault 1 e
  else if badEntry c f level e then .fault 3 e
  else if bit e 1 then .leaf e else .next (bits e 47 8 * 256)

/-- One level of a walk: the entry is read through the point path with the hint KEEP (R307). -/
def Dev.walkLevel (c : Ctl) (d : Dev) (w : Who) (level table va : Nat) : Dev × WalkStep :=
  let a := table + 8 * levelIndex level va
  let (d, b, p, _) := Dev.sliceRead c d w a 1 false .point true
  (d, entryStep c w.facet level (le b (a % 64) 8) p)

/-- The walk cache's table pointer for a virtual address with the deepest level (R307): (level whose table it is, table). -/
def Dev.walkStart (d : Dev) (as va : Nat) : Nat × Nat :=
  let hit := fun l => d.xl.wcache.find? (fun e => e.as == as && (e.level == l && e.pfx == va / 2 ^ levelShift l))
  match hit 2 with
  | some e => (3, e.table)
  | none => match hit 1 with
    | some e => (2, e.table)
    | none => match hit 0 with
      | some e => (1, e.table)
      | none => (0, d.ctxRoot as)

/-- A table pointer enters the walk cache of 1,024 entries, newest first. -/
def Dev.cachePointer (d : Dev) (as level va table : Nat) : Dev :=
  let e : WalkCacheEntry := { as := as, level := level, pfx := va / 2 ^ levelShift level, table := table }
  { d with xl := { d.xl with wcache := (e :: d.xl.wcache.filter (fun x => !(x.as == as && (x.level == level && x.pfx == e.pfx)))).take 1024 } }

/-- A whole walk from a level: at most four reads. The result is the level reached with what was found there. -/
def Dev.walkFrom (c : Ctl) (d : Dev) (w : Who) (as va : Nat) : Nat → Nat → Nat → Dev × Nat × WalkStep
  | 0, level, _ => (d, level, .fault 1 0)
  | n + 1, level, table =>
    match d.walkLevel c w level table va with
    | (d, .next t) => (d.cachePointer as level va t).walkFrom c w as va n (level + 1) t
    | (d, r) => (d, level, r)

/-! ### TLB -/

/-- The TLB entry of a core for a virtual address. -/
def tlbFind (t : List TlbEntry) (as va : Nat) : Option TlbEntry :=
  t.find? (fun e => e.as == as && e.page == va / 2 ^ levelShift e.level)

/-- A leaf enters a core's TLB of 512 entries, most recent first; an unused scout entry that falls out is counted (R304, R310). -/
def Dev.tlbInstall (d : Dev) (core : Nat) (e : TlbEntry) : Dev :=
  let k := d.core core
  let t := e :: k.tlb.filter (fun x => !(x.as == e.as && (x.level == e.level && x.page == e.page)))
  let out := (t.drop 512).filter (·.scout)
  (d.setCore core { k with tlb := t.take 512 }).count (baseTC core + 0x38) out.length

/-- The entry that a leaf at a level gives. -/
def leafEntry (as level va e : Nat) (scout : Bool) : TlbEntry :=
  { as := as, level := level, page := va / 2 ^ levelShift level, pa := bits e 47 8 * 256, bits := bits e 5 2, scout := scout }

/-- The leaf grants the access (R303): bits are leaf bits [5:2], read then write. -/
def leafGrants (b : Nat) (write : Bool) : Bool := if write then bit b 1 else bit b 0

/-! ### Faults -/

/-- A fault entry's region holds a virtual address (R313). -/
def FaultEntry.covers (e : FaultEntry) (as va : Nat) : Bool :=
  e.as == as && (e.kind == 5 || e.region == va / 2 ^ levelShift e.level * 2 ^ levelShift e.level)

/-- Fault entry n set. -/
def Dev.setFault (d : Dev) (n : Nat) (e : Option FaultEntry) : Dev :=
  { d with xl := { d.xl with faults := Sparse.set none d.xl.faults n e } }

/-- The entry with these waiters. -/
def FaultEntry.withWaiters (e : FaultEntry) (l : List (Nat × Nat × Bool)) : FaultEntry :=
  { e with waiters := l, access := flagNat (l.any (fun x => !x.2.2)) + 2 * flagNat (l.any (fun x => x.2.2)) }

/-- A waiter joins a fault entry. -/
def FaultEntry.join (e : FaultEntry) (who va : Nat) (write : Bool) : FaultEntry := e.withWaiters (e.waiters ++ [(who, va, write)])

/-- The requester waits on a walk (R306). -/
def Dev.walkWaits (d : Dev) (who : Nat) : Bool := d.xl.walks.any (fun x => x.waiters.any (fun y => y.1 == who))

/-- The requester is stopped at an access: by a walk, a fault entry or a full fault table. -/
def Dev.stopped (d : Dev) (who : Nat) : Bool := d.faultWaits who || d.walkWaits who

/-- An access's fault (R313 to R315): it joins an open entry of the same kind, level and region, opens the lowest free entry, or waits
for one. new: it has not waited yet. -/
def Dev.putFault (c : Ctl) (d : Dev) (new : Bool) (p : PendFault) : Dev :=
  let region := if p.kind = 5 then 0 else p.va / 2 ^ levelShift p.level * 2 ^ levelShift p.level
  match d.openFaults.find? (fun x => x.2.as == p.as && (x.2.kind == p.kind && (x.2.level == p.level && x.2.region == region))) with
  | some (n, e) => d.setFault n (some (e.join p.who p.va p.write))
  | none =>
    match (List.range 256).find? (fun n => (Sparse.get none d.xl.faults n).isNone) with
    | none => { (if new then d.count (baseTR + 0x50) 1 else d) with xl := { d.xl with tableWait := d.xl.tableWait ++ [p] } }
    | some n =>
      let e : FaultEntry := {
        kind := p.kind, level := p.level, as := p.as, region := region, firstVa := p.va, entry := p.entry, opened := d.ltc, first := p.who }
      let d := ((d.setFault n (some (e.join p.who p.va p.write))).raise baseTR 0 (baseTR + 0x10)).count (baseCtx p.as + 0x14) 1
      let d := { d with xl := { d.xl with faultTop := max d.xl.faultTop (n + 1) } }
      match c.asFacet p.as with
      | some f => d.irq (4112 + f)
      | none => d

/-- A fault of an access. -/
def Dev.fault (c : Ctl) (d : Dev) (who as va : Nat) (write : Bool) (kind level entry : Nat) : Dev :=
  d.putFault c true { who := who, as := as, va := va, write := write, kind := kind, level := level, entry := entry }

/-- An entry has become free: the faults that wait open or join entries, in the order in which they came (R315). -/
def Dev.openWaiting (c : Ctl) (d : Dev) : Dev :=
  d.xl.tableWait.foldl (fun d p => d.putFault c false p) { d with xl := { d.xl with tableWait := [] } }

/-! ### Translation of one address -/

/-- What translation of an address gives: a physical address with its leaf bits, an access ended by ABORT, or a wait. -/
inductive Tr where
  | pa (a b : Nat)
  | aborted
  | stall
  deriving DecidableEq, Repr

/-- A TLB miss (R298, R306, R307, R312, R313): an open fault of the region is joined without a walk, an address space that is not enabled faults, a
walk in flight for the page is shared, and else a walk takes a free slot; the requester waits. While all 64 slots are busy a miss that needs one
waits for it. -/
def Dev.miss (c : Ctl) (d : Dev) (core eng as va : Nat) (write : Bool) : Dev :=
  let who := 4 * core + eng
  let missed := d.count (baseTC core + 0x24) 1
  if d.stopped who then d
  else match d.openFaults.find? (fun x => x.2.covers as va) with
  | some (n, e) => missed.setFault n (some (e.join who va write))
  | none =>
    if !d.ctxOn as then missed.fault c who as va write 5 0 0
    else if d.xl.walks.any (fun w => w.as == as && w.va / 65536 == va / 65536) then
      { missed.count (baseTR + 0x44) 1 with xl := { d.xl with walks := d.xl.walks.map (fun w =>
        if w.as == as && w.va / 65536 == va / 65536 then { w with waiters := w.waiters ++ [(who, va, write)] } else w) } }
    else if 64 ≤ d.xl.walks.length then d
    else
      let (l, t) := d.walkStart as va
      { (missed.count (baseTR + 0x40) 1).count (baseTR + 0x48) l with
        xl := { d.xl with walks := d.xl.walks ++ [{ as := as, va := va, level := l, table := t, waiters := [(who, va, write)] }] } }

/-- An access ended by ABORT (R316). -/
def Dev.wasAborted (d : Dev) (who as va : Nat) : Bool :=
  d.xl.aborted.any (fun a => a.1 == who && (a.2.1 == as && (a.2.2.1 ≤ va && va < a.2.2.1 + a.2.2.2)))

/-- Translation of an address for an access of requester eng of a core (R298, R304, R305): a hit without the permission drops the entry and
misses. What the access has obtained it keeps until it ends; what ABORT ended is answered so (R316). -/
def Dev.translate (c : Ctl) (d : Dev) (core eng as va : Nat) (write : Bool) : Dev × Tr :=
  let who := 4 * core + eng
  if d.wasAborted who as va then (d, .aborted)
  else match d.xl.got.find? (fun g => g.who == who && (g.as == as && (g.va == va && g.write == write))) with
  | some g => (d, .pa g.pa g.bits)
  | none =>
    let k := d.core core
    match (if d.ctxOn as then tlbFind k.tlb as va else none) with
    | some e =>
      if leafGrants e.bits write then
        let d := (d.count (baseTC core + 0x20) 1).count (baseTC core + 0x34) (flagNat e.scout)
        let pa := e.pa + va % 2 ^ levelShift e.level
        ({ d.setCore core { k with tlb := { e with scout := false } :: k.tlb.filter (fun x => x != e) } with
           xl := { d.xl with got := d.xl.got ++ [{ who := who, as := as, va := va, write := write, pa := pa, bits := e.bits }] } }, .pa pa e.bits)
      else ((d.setCore core { k with tlb := k.tlb.filter (fun x => x != e) }).miss c core eng as va write, .stall)
    | none => (d.miss c core eng as va write, .stall)

/-! ### Host windows and remote windows -/

/-- The violation of a window check, with the physical address (R324). -/
def windowViolation (w : Who) (kind pa : Nat) : Violation :=
  { kind := kind, block := 8, reqKind := w.reqKind, addrKind := 2, facet := w.facet, requester := w.requester, address := pa }

/-- The check of a granule of a host-window access (R324): the host address, or the kind of the violation. -/
def Dev.hostCheck (d : Dev) (f pa : Nat) (write : Bool) : Nat ⊕ Nat :=
  let w := (pa - 2 ^ 46) / 2 ^ 36 % 1024
  let o := pa % 2 ^ 36
  let b := baseTR + 0x20000 + 0x10 * w
  if !d.flag b 31 then .inr 1
  else if d.fld b 19 16 ≠ f then .inr 5
  else if d.fld (b + 0xC) 20 0 * 65536 ≤ o then .inr 1
  else if !(if write then d.flag b 29 else d.flag b 30) then .inr 2
  else .inl (d.fld (b + 4) 31 16 * 65536 + d.fld (b + 8) 31 0 * 2 ^ 32 + o)

/-- The host port is ATTACHED (R428). -/
def Dev.attached (d : Dev) : Bool := d.hl.state == 2

/-- A posted write leaves for the host (R423); it is not yet acknowledged. -/
def Dev.hostPost (d : Dev) (addr : Nat) (b : List Byte) (ep relaxed : Bool) : Dev × Nat :=
  let id := d.hl.nextId
  ({ d.emit (.hostWrite id addr b ep relaxed) with hl := { d.hl with nextId := id + 1 } }, id)

/-- Hot-page counting of one granule through a leaf with count set (R325, R326). -/
def Dev.countHot (c : Ctl) (d : Dev) (as va : Nat) (write : Bool) : Dev :=
  match c.asFacet as with
  | none => d
  | some f =>
    let b := baseTR + 0x200 + 0x20 * f
    let th := d.fld b 19 0
    if th = 0 then d
    else
      let page := va / 65536
      let old := (d.xl.hot.find? (fun e => e.as == as && e.page == page)).getD { as := as, page := page }
      let e := { old with count := old.count + 1, wrote := old.wrote || write }
      let rest := d.xl.hot.filter (fun e => !(e.as == as && e.page == page))
      let put := fun (d : Dev) (e : HotCount) => { d with xl := { d.xl with hot := (e :: rest).take 4096 } }
      if e.notified || e.count < th then put d e
      else
        let n := 2 ^ (min 12 (d.fld (b + 0xC) 3 0) + 8)
        let prod := d.reg (b + 0x10)
        if w32 (prod + 2 ^ 32 - d.reg (b + 0x14)) = n then put (d.count (b + 0x18) 1) e
        else
          let pa := d.fld (b + 4) 31 12 * 4096 + d.fld (b + 8) 15 0 * 2 ^ 32 + 16 * (prod % n)
          let r := toLe 8 (page * 65536) ++ toLe 2 as ++ toLe 2 (if e.wrote then 1 else 0) ++ toLe 4 e.count
          let w : Who := { reqKind := 1, requester := 0, facet := f }
          let d := if pa < 2 ^ 46 then Dev.paPut c d w pa r
            else match d.hostCheck f pa true with
              | .inl a => if d.attached then (d.hostPost a r false false).1 else d.count (baseHL + 0x44) 1
              | .inr k => d.violate (windowViolation w k pa)
          let d := ((d.count (b + 0x10) 1).raise baseTR 2 (baseTR + 0x18)).irq (4128 + f)
          put d { e with notified := true }

/-- The remote window table entry of a window (R327): from the remote window cache, or read by the walker and cached. -/
def Dev.rwinEntry (c : Ctl) (d : Dev) (w : Who) (as win : Nat) : Dev × List Byte × Bool :=
  match d.xl.rwcache.find? (fun e => e.1 == as && e.2.1 == win) with
  | some e => (d, e.2.2.1, e.2.2.2)
  | none =>
    let a := d.ctxRwin as + 16 * win
    let (d, b, p, _) := Dev.sliceRead c d w a 1 false .point true
    let e := slice b (a % 64) 16
    ({ d with xl := { d.xl with rwcache := ((as, win, e, p) :: d.xl.rwcache).take 256 } }, e, p)

/-- Where a granule of a remote-window access goes (R327): (port, target coordinate, import index, offset), or none for a violation
(with its kind; 0 for a window entry read poisoned, which is an error but no violation). -/
def Dev.remoteCheck (c : Ctl) (d : Dev) (w : Who) (as pa : Nat) : Dev × ((Nat × Nat × Nat × Nat) ⊕ Nat) :=
  let win := (pa - 2 ^ 47) / 2 ^ 41 % 64
  let o := pa % 2 ^ 41
  let (d, e, p) := d.rwinEntry c w as win
  let twin := bit (byteAt e 0) 1
  let dst := coordOf [byteAt e 1, byteAt e 2, byteAt e 3]
  let ports := (c.facet w.facet).ports
  let r : (Nat × Nat × Nat × Nat) ⊕ Nat :=
    if p then .inr 0
    else if !bit (byteAt e 0) 0 then .inr 1
    else if le e 8 4 % 2 ^ 25 * 65536 ≤ o then .inr 1
    else if twin then (if bit ports 6 then .inl (6, 0, le e 4 2 % 4096, o) else .inr 2)
    else if dst = c.coord then .inr 1
    else match c.nextPort dst with
      | none => .inr 1
      | some q => if bit ports q then .inl (q, dst, le e 4 2 % 4096, o) else .inr 2
  (d, r)

/-! ### Accesses by virtual address -/

/-- A piece of an access: part of one 64 B granule, with its translation (none: ended by ABORT). -/
structure Piece where
  va : Nat
  n : Nat
  tr : Option (Nat × Nat)
  deriving DecidableEq, Repr

/-- The pieces of [va, va + n), by 64 B granules. -/
def pieceSpans (va n : Nat) : List (Nat × Nat) :=
  (granules va n).map (fun g => (max va g, min (va + n) (g + 64) - max va g))

/-- Translation of every piece of an access, in order; none when the requester must wait (R306, R312). -/
def Dev.resolveSpans (c : Ctl) (d : Dev) (core eng as : Nat) (write : Bool) (spans : List (Nat × Nat)) : Dev × Option (List Piece) :=
  if d.stopped (4 * core + eng) then (d, none)
  else spans.foldl (fun (acc : Dev × Option (List Piece)) s =>
    match acc.2 with
    | none => acc
    | some l => match acc.1.translate c core eng as s.1 write with
      | (d, .pa a b) => (d, some (l ++ [{ va := s.1, n := s.2, tr := some (a, b) }]))
      | (d, .aborted) => (d, some (l ++ [{ va := s.1, n := s.2, tr := none }]))
      | (d, .stall) => (d, none)) (d, some [])

/-- Translation of [va, va + n) by 64 B pieces. -/
def Dev.resolve (c : Ctl) (d : Dev) (core eng as va n : Nat) (write : Bool) : Dev × Option (List Piece) :=
  d.resolveSpans c core eng as write (pieceSpans va n)

/-- The stored answer to a read that left the module. -/
def Dev.extAnswer (d : Dev) (who as va : Nat) : Option ExtAccess :=
  d.hl.ext.find? (fun e => e.who == who && (e.as == as && (e.va == va && !e.write)))

/-- A read request for a piece in a host window or a remote window leaves the module, or is answered at once (R324, R327, R429, R402).
`logged`: the access has already written its violation entry. -/
def Dev.askOutside (c : Ctl) (d : Dev) (w : Who) (who as : Nat) (own : Option Owner) (logged : Bool) (p : Piece) (pa lb : Nat) : Dev × Bool :=
  let id := d.hl.nextId
  let ext : ExtAccess := { id := id, who := who, as := as, va := p.va, own := own, len := p.n }
  let add := fun (d : Dev) (e : ExtAccess) => { d with hl := { d.hl with nextId := id + 1, ext := d.hl.ext ++ [e] } }
  let poisoned := some (marked true (zeros p.n))
  if pa < 2 ^ 47 then
    let d := if bit lb 3 then d.countHot c as p.va false else d
    match d.hostCheck w.facet pa false with
    | .inr k => (add (if logged then d else d.violate (windowViolation w k (pa / 64 * 64))) { ext with answer := poisoned }, true)
    | .inl a =>
      if d.attached then (add (d.emit (.hostRead id a p.n)) { ext with addr := a }, logged)
      else (add (d.count (baseHL + 0x40) 1) { ext with answer := poisoned }, logged)
  else
    match d.remoteCheck c w as pa with
    | (d, .inr k) =>
      (add (if logged || k = 0 then d else d.violate (windowViolation w k (pa / 64 * 64))) { ext with host := false, answer := poisoned },
       logged || k ≠ 0)
    | (d, .inl (q, dst, imp, o)) =>
      if !(d.portUp q && (if q = 6 then d.twin.state == 2 else c.inTorus dst)) then
        (add (d.routeDown q) { ext with host := false, answer := poisoned }, logged)
      else (add (d.inject c q dst .request 0 (.remote (.read id imp o p.n w.facet))) { ext with host := false, addr := o }, logged)

/-- The data of the pieces of a read; none while data from outside the module is still out, or while the governor holds the facet's reads of HBM (R29,
R495). Poison marks the op's command (R290), an
ABORT marks fault_abort (R316). -/
def Dev.fetchPieces (c : Ctl) (d : Dev) (w : Who) (core eng as : Nat) (own : Option Owner) (hint : Nat) (ps : List Piece) :
    Dev × Option (List PByte) :=
  let who := 4 * core + eng
  let (d, _) := ps.foldl (fun (acc : Dev × Bool) p => match p.tr with
    | some (pa, lb) => if 2 ^ 46 ≤ pa && (acc.1.extAnswer who as p.va).isNone then Dev.askOutside c acc.1 w who as own acc.2 p pa lb else acc
    | none => acc) (d, false)
  let hbm := ps.any (fun p => match p.tr with
    | some (pa, _) => pa < 2 ^ 46
    | none => false)
  let waiting := ps.any (fun p => match p.tr with
    | some (pa, _) => 2 ^ 46 ≤ pa && (match d.extAnswer who as p.va with | some e => e.answer.isNone | none => true)
    | none => false)
  if waiting || (hbm && !d.permits w.facet) then (d, none)
  else
    let (d, _, b) := ps.foldl (fun (acc : Dev × Option Nat × List PByte) p => match p.tr with
      | none => (match own with | some o => acc.1.mark o 3 | none => acc.1, none, acc.2.2 ++ marked true (zeros p.n))
      | some (pa, lb) =>
        if 2 ^ 46 ≤ pa then
          (acc.1, none, acc.2.2 ++ (match acc.1.extAnswer who as p.va with | some e => e.answer.getD [] | none => []))
        else
          let last := (ps.getLast?.map (·.va)) = some p.va || (pa / 64 + 1) % 4 = 0
          let ((d, seen), x, q, _) := Dev.streamRead c acc.1 w acc.2.1 pa hint (bit lb 2) last
          (d, seen, acc.2.2 ++ marked q (slice x (pa % 64) p.n))) (d, none, [])
    let d := match own with
      | some o => d.markIf (anyPoison b) o 0
      | none => d
    (d, some b)

/-- A write outside the module has failed: the fence of its command will say so (R426; of a write dropped while not ATTACHED, log entry 135). -/
def Dev.notWritten (d : Dev) (own : Option Owner) : Dev :=
  match own with
  | some o => { d with hl := { d.hl with failed := (o.ch, o.seq) :: d.hl.failed } }
  | none => d

/-- The bytes of a write go to their pieces (R277, R289, R316, R324, R327, R429): a piece in HBM to its slice, one in a host window as a
posted write, one in a remote window as a packet whose answer is awaited, in the class that Table 14.3 gives it (log entry 119). -/
def Dev.storePieces (c : Ctl) (d : Dev) (w : Who) (core eng as : Nat) (own : Option Owner) (hint : Nat) (ps : List Piece) (b : List PByte) : Dev :=
  let who := 4 * core + eng
  let r := ps.foldl (fun (acc : Dev × List PByte × Bool × Bool) p =>
    let (d, rest, logged, first) := acc
    let data := rest.take p.n
    let rest := rest.drop p.n
    match p.tr with
    | none => (match own with | some o => d.mark o 3 | none => d, rest, logged, true)
    | some (pa, lb) =>
      if pa < 2 ^ 46 then
        let (m, q) := granuleMask pa data (pa / 64 * 64)
        ((Dev.sliceWrite c d w pa m q hint (bit lb 2) (first || pa / 64 % 4 = 0)).1, rest, logged, false)
      else if pa < 2 ^ 47 then
        let d := if bit lb 3 then d.countHot c as p.va true else d
        match d.hostCheck w.facet pa true with
        | .inr k => (if logged then d else d.violate (windowViolation w k (pa / 64 * 64)), rest, true, true)
        | .inl a =>
          if d.attached then
            let (d, id) := d.hostPost a (plain data) (anyPoison data) (d.flag (baseHL + 0x14) 0)
            ({ d with hl := { d.hl with ext := d.hl.ext ++ [{ id := id, who := who, as := as, va := p.va, write := true, own := own, addr := a, len := p.n }] } },
             rest, logged, true)
          else ((d.count (baseHL + 0x44) 1).notWritten own, rest, logged, true)
      else
        match d.remoteCheck c w as pa with
        | (d, .inr k) => (if logged || k = 0 then d else d.violate (windowViolation w k (pa / 64 * 64)), rest, logged || k ≠ 0, true)
        | (d, .inl (q, dst, imp, o)) =>
          let id := d.hl.nextId
          if !(d.portUp q && (if q = 6 then d.twin.state == 2 else c.inTorus dst)) then
            let d := d.routeDown q
            let d := match own with
              | some k => d.mark k 0
              | none => d
            (d.notWritten own, rest, logged, true)
          else
            let d := d.inject c q dst .bulk p.n (.remote (.write id imp o (List.replicate p.n true) (plain data) [anyPoison data] w.facet))
            ({ d with hl := { d.hl with
                nextId := id + 1,
                ext := d.hl.ext ++ [{ id := id, who := who, as := as, va := p.va, host := false, write := true, own := own, addr := o, len := p.n }] } },
             rest, logged, true)) (d, b, false, true)
  r.1

/-- The end of an op of a requester: the answers, translations and ABORTs that it has taken are dropped. -/
def Dev.doneOutside (d : Dev) (core eng : Nat) : Dev :=
  let who := 4 * core + eng
  { d with hl := { d.hl with ext := d.hl.ext.filter (fun e => !(e.who == who && !e.write)) },
           xl := { d.xl with aborted := d.xl.aborted.filter (fun a => a.1 != who), got := d.xl.got.filter (fun g => g.who != who) } }

/-- A read of n bytes by a requester of a core that belongs to a facet: none while it waits. -/
def Dev.readVa (c : Ctl) (d : Dev) (w : Who) (core eng as : Nat) (own : Option Owner) (hint va n : Nat) : Dev × Option (List PByte) :=
  match d.resolve c core eng as va n false with
  | (d, none) => (d, none)
  | (d, some ps) => d.fetchPieces c w core eng as own hint ps

/-- A write of bytes by a requester of a core: false while it waits. -/
def Dev.writeVa (c : Ctl) (d : Dev) (w : Who) (core eng as : Nat) (own : Option Owner) (hint va : Nat) (b : List PByte) : Dev × Bool :=
  match d.resolve c core eng as va b.length true with
  | (d, none) => (d, false)
  | (d, some ps) => (d.storePieces c w core eng as own hint ps b, true)

/-- Some piece of an access was ended by ABORT. -/
def anyAborted (ps : List Piece) : Bool := ps.any (fun p => p.tr.isNone)

end Sys2Proof.Machine
end

