-- ==== Sys2Proof/Machine/TripOps.lean ====
section
/-! DEFINITION. The Trip Log as the blocks write and replay it (Violations, Recovery, Replay and Guarantees): ring layout, records, forced
decisions. -/

namespace Sys2Proof.Machine

/-- TL_CH of a channel: mode, ring base, ring size, mask. -/
def baseTlCh (ch : Nat) : Nat := baseTL + 0x8000 + 8 * ch
def Dev.tripMode (d : Dev) (ch : Nat) : Nat := d.fld (baseTlCh ch) 31 30
def Dev.tripBase (d : Dev) (ch : Nat) : Nat := d.fld (baseTlCh ch) 15 0 * 2 ^ 32 + d.fld (baseTlCh ch + 4) 31 16 * 65536
def Dev.tripLen (d : Dev) (ch : Nat) : Nat := 2 ^ (d.fld (baseTlCh ch) 19 16 + 16) - 64
def Dev.tripMask (d : Dev) (ch t : Nat) : Bool := bit (d.fld (baseTlCh ch + 4) 15 0) t

/-- A record of this type is written whatever the mask says (Table 17.9). -/
def tripAlways (t : Nat) : Bool := t = 1 || t = 2 || 9 ≤ t

/-- Who a record is about: core and engine (0xFF for the front end), launch, task (2^32 - 1 for the front end). -/
structure TripWho where
  core : Nat := 0xFF
  engine : Nat := 0xFF
  launch : Nat := 0
  task : Nat := 2 ^ 32 - 1
  deriving DecidableEq, Repr

/-- A record's bytes (Table 17.8), padded to whole units of 16 B. -/
def tripBytes (t flags : Nat) (w : TripWho) (trip ltc : Nat) (body : List Byte) : List Byte :=
  let n := 32 + upTo body.length 16
  toLe 1 t ++ toLe 1 flags ++ toLe 2 (n / 16) ++ toLe 1 w.core ++ toLe 1 w.engine ++ toLe 2 0 ++ toLe 8 trip ++ toLe 4 w.launch ++
  toLe 4 w.task ++ toLe 8 ltc ++ padTo (n - 32) body

/-- The ring of a channel, as the GX12 keeps it. -/
def Dev.ring (d : Dev) (ch : Nat) : TripRing := Sparse.get {} d.rings ch
def Dev.setRing (d : Dev) (ch : Nat) (r : TripRing) : Dev := { d with rings := Sparse.set {} d.rings ch r }

/-- Bytes that a record of n bytes takes at position p of a ring of length L: with the PAD that fills the remainder (R465). -/
def tripRoom (L p n : Nat) : Nat := if p % L + n ≤ L then n else L - p % L + n

/-- A record written at the producer position, which moves past it. -/
def Dev.tripPut (c : Ctl) (d : Dev) (w : Who) (ch : Nat) (b : List Byte) : Dev :=
  let r := d.ring ch
  (Dev.paPut c d w (d.tripBase ch + 64 + r.prod % d.tripLen ch) b).setRing ch { r with prod := r.prod + b.length }

/-- A record with its PAD, when it fits; it takes the next trip number. -/
def Dev.tripWrite (c : Ctl) (d : Dev) (w : Who) (ch t flags : Nat) (who : TripWho) (body : List Byte) : Dev :=
  let L := d.tripLen ch
  let n := 32 + upTo body.length 16
  let rest := L - (d.ring ch).prod % L
  let d := if n ≤ rest then d
    else { (d.tripPut c w ch (padTo rest ((toLe 1 0x0C ++ toLe 1 0 ++ toLe 2 (rest / 16) ++ toLe 1 0xFF ++ toLe 1 0xFF ++ toLe 2 0 ++
             toLe 8 d.tripNext ++ zeros 4 ++ toLe 4 (2 ^ 32 - 1) ++ toLe 8 d.ltc).take (min 32 rest)))) with tripNext := d.tripNext + 1 }
  let d := { d.tripPut c w ch (tripBytes t flags who d.tripNext d.ltc body) with tripNext := d.tripNext + 1 }
  Dev.paPut c d w (d.tripBase ch) (toLe 8 (d.ring ch).prod)

/-- A record of a channel whose mode is RECORD (R466, R467): lost where it does not fit; a LOSS record goes before the first record after
a loss. The second component says that a record was lost. -/
def Dev.trip (c : Ctl) (d : Dev) (ch t flags : Nat) (who : TripWho) (body : List Byte) : Dev × Bool :=
  if d.tripMode ch ≠ 1 || !(tripAlways t || d.tripMask ch t) then (d, false)
  else
    let w := whoChan ch ((c.chFacet ch).getD 0)
    let L := d.tripLen ch
    let r := d.ring ch
    let n := 32 + upTo body.length 16
    let lossN := if r.lostSince = 0 then 0 else tripRoom L r.prod 48
    let need := lossN + tripRoom L (r.prod + lossN) n
    let (d, r) := if r.prod + need ≤ r.cons + L then (d, r)
      else
        let (d, b, _) := Dev.paBytes c d w (d.tripBase ch + 8) 8
        let r := { r with cons := leNat b }
        (d.setRing ch r, r)
    if r.prod + need ≤ r.cons + L then
      let d := if r.lostSince = 0 then d
        else
          let d := d.tripWrite c w ch 0x0A 0 {} (toLe 8 r.lostSince ++ zeros 8)
          d.setRing ch { d.ring ch with lostSince := 0 }
      (d.tripWrite c w ch t flags who body, false)
    else
      let d := d.setRing ch { r with lost := r.lost + 1, lostSince := r.lostSince + 1 }
      ((Dev.paPut c d w (d.tripBase ch + 16) (toLe 8 (r.lost + 1))).raise baseTL 1 (baseTL + 0x14), true)

/-- A record about a task or a command; a loss marks the command, whose END record will say so (R467). -/
def Dev.tripFor (c : Ctl) (d : Dev) (o : Owner) (t flags core engine : Nat) (body : List Byte) : Dev :=
  let (d, lost) := d.trip c o.ch t flags { core := core, engine := engine, launch := o.seq % 2 ^ 32, task := o.task.getD (2 ^ 32 - 1) } body
  if lost then d.updOwnCmd o (fun k => { k with lostRec := true }) else d

/-! ### Replay -/

/-- A record found in a ring: position, type, flags, core, launch, task, trip number, body. -/
structure TripRec where
  pos : Nat := 0
  len : Nat := 0
  type : Nat := 0
  flags : Nat := 0
  core : Nat := 0
  launch : Nat := 0
  task : Nat := 0
  trip : Nat := 0
  body : List Byte := []
  deriving DecidableEq, Repr

/-- The record at position p of a ring. -/
def Dev.tripAt (c : Ctl) (d : Dev) (w : Who) (ch p : Nat) : Dev × TripRec :=
  let a := d.tripBase ch + 64 + p % d.tripLen ch
  let (d, h, _) := Dev.paBytes c d w a 32
  let n := max 16 (16 * le h 2 2)
  let (d, b, _) := Dev.paBytes c d w (a + 32) (n - 32)
  (d, { pos := p, len := n, type := byteAt h 0, flags := byteAt h 1, core := byteAt h 4, launch := le h 0x10 4, task := le h 0x14 4,
        trip := le h 8 8, body := b })

/-- The first record from position p, before end, that satisfies a test; at most n records are read. -/
def Dev.tripFind (c : Ctl) (d : Dev) (w : Who) (ch stop : Nat) (test : TripRec → Bool) : Nat → Nat → Dev × Option TripRec
  | 0, _ => (d, none)
  | n + 1, p =>
    if stop ≤ p then (d, none)
    else
      let (d, r) := d.tripAt c w ch p
      if test r then (d, some r) else d.tripFind c w ch stop test n (p + r.len)

/-- The replay of a facet. -/
def Dev.replayOf (d : Dev) (f : Nat) : Replay := nth {} d.replay f
def Dev.updReplay (d : Dev) (f : Nat) (g : Replay → Replay) : Dev := { d with replay := modNth g f d.replay }

/-- A channel is being replayed (R468). -/
def Dev.replaying (c : Ctl) (d : Dev) (ch : Nat) : Bool :=
  match c.chFacet ch with
  | some f => (d.replayOf f).state = 1 && d.tripMode ch = 2
  | none => false

/-- Records of a type are forced on a channel: it is replayed, and its mask says that they were recorded. -/
def Dev.forced (c : Ctl) (d : Dev) (ch t : Nat) : Bool := d.replaying c ch && d.tripMask ch t

/-- The decision records of R470: PLACEMENT, VALUE, ENQUEUE and BASKET. -/
def decisionType (t : Nat) : Bool := t = 4 || t = 5 || t = 6 || t = 7

/-- The next decision record of a task in replay (R470). -/
def Dev.nextDecision (c : Ctl) (d : Dev) (o : Owner) : Dev × Option TripRec :=
  let f := (c.chFacet o.ch).getD 0
  let w := whoChan o.ch f
  let key := (o.ch, o.seq, o.task.getD 0)
  let last := (((d.replayOf f).used.find? (fun u => (u.1, u.2.1, u.2.2.1) == key)).map (fun u => u.2.2.2)).getD 0
  let (d, h, _) := Dev.paBytes c d w (d.tripBase o.ch) 16
  d.tripFind c w o.ch (le h 0 8) (fun r => decisionType r.type && (r.launch == o.seq % 2 ^ 32 && (r.task == o.task.getD 0 && last < r.trip)))
    65536 (le h 8 8)

/-- A decision record has been taken. -/
def Dev.tookDecision (c : Ctl) (d : Dev) (o : Owner) (trip : Nat) : Dev :=
  let key := (o.ch, o.seq, o.task.getD 0)
  d.updReplay ((c.chFacet o.ch).getD 0) (fun r =>
    { r with used := (o.ch, o.seq, o.task.getD 0, trip) :: r.used.filter (fun u => (u.1, u.2.1, u.2.2.1) != key) })

/-- Replay of a facet stops: DIVERGED (3) or LOSS_STOP (4), with the channel and trip number (R470). -/
def Dev.diverge (d : Dev) (f ch trip state : Nat) : Dev :=
  (d.updReplay f (fun r => { r with state := state, divChannel := ch, divTrip := trip % 2 ^ 32 })).raise baseTL 2 (baseTL + 0x10)

/-- Replay diverges at the next decision record of a task, which does not match; where none is left, which trip number is recorded is open, a free value
(R470, log entry 136). -/
def Dev.divergeAt (d : Dev) (f ch : Nat) : Option TripRec → Dev
  | some r => d.diverge f ch r.trip 3
  | none => d.free.1.diverge f ch d.free.2.toNat 3

/-- The channels of a facet whose mode is REPLAY. -/
def Dev.replayChans (c : Ctl) (d : Dev) (f : Nat) : List Nat :=
  (List.range (c.facet f).chanCount).filterMap (fun i =>
    let ch := (c.facet f).chanFirst + i
    if d.tripMode ch = 2 then some ch else none)

/-- The next record of a ring that the front end takes in replay (R468, R470): COMMAND, DOORBELL, LOSS, or END with incomplete set. -/
def Dev.replayNext (c : Ctl) (d : Dev) (f ch : Nat) : Dev × Option TripRec :=
  let w := whoChan ch f
  let (d, h, _) := Dev.paBytes c d w (d.tripBase ch) 16
  d.tripFind c w ch (le h 0 8) (fun r => r.type = 1 || (r.type = 2 || (r.type = 0xA || (r.type = 0xB && bit r.flags 1))))
    1048576 (max (Sparse.get 0 (d.replayOf f).pos ch) (le h 8 8))

/-- The record with the least trip number among a facet's rings, with its channel. -/
def Dev.replayHead (c : Ctl) (d : Dev) (f : Nat) : Dev × Option (Nat × TripRec) :=
  (d.replayChans c f).foldl (fun (acc : Dev × Option (Nat × TripRec)) ch =>
    match acc.1.replayNext c f ch with
    | (d, none) => (d, acc.2)
    | (d, some r) => (d, match acc.2 with
      | some (ch', r') => if r'.trip ≤ r.trip then some (ch', r') else some (ch, r)
      | none => some (ch, r))) (d, none)

/-- The record at the head of a channel's ring has been taken. -/
def Dev.replayTook (d : Dev) (f ch : Nat) (r : TripRec) : Dev :=
  d.updReplay f (fun p => { p with pos := Sparse.set 0 p.pos ch (r.pos + r.len) })

/-- Replay ends with a state (2 DONE, 5 STOPPED). -/
def Dev.replayEnd (d : Dev) (f state : Nat) : Dev :=
  let d := d.updReplay f (fun p => { p with state := state, stopping := false })
  if state = 2 then d.raise baseTL 0 (baseTL + 0x18) else d

end Sys2Proof.Machine
end

