-- ==== Sys2Proof/Machine/TaskOps.lean ====
section
/-! DEFINITION. The core sequencer's operations (Commands, Task Programs and Sync Objects): the op at the program counter, its fields and
reserved bits, issue to an engine queue, retirement, refusals, the end of a task. -/

namespace Sys2Proof.Machine

/-! ### Op fields -/

/-- Byte n of an op. -/
def opb (op n : Nat) : Nat := op / 2 ^ (8 * n) % 256
/-- n bytes of an op from byte o. -/
def opn (op o n : Nat) : Nat := op / 2 ^ (8 * o) % 2 ^ (8 * n)
/-- Bits [hi:lo] of the field that starts at byte o of an op. -/
def opf (op o hi lo : Nat) : Nat := op / 2 ^ (8 * o + lo) % 2 ^ (hi + 1 - lo)
/-- One bit of byte o of an op. -/
def opt (op o i : Nat) : Bool := opf op o i i == 1

/-- The mask of the opcode byte and of the listed fields (byte, high bit, low bit). -/
def opMask (l : List (Nat × Nat × Nat)) : Nat :=
  l.foldl (fun m f => m ||| ((2 ^ (f.2.1 + 1 - f.2.2) - 1) <<< (8 * f.1 + f.2.2))) 255

/-- No reserved bit of an op is set: all its bits lie in the listed fields. -/
def opClean (op : Nat) (l : List (Nat × Nat × Nat)) : Bool := (op &&& opMask l) == op

/-- The signed 16-bit branch offset of bytes 2 and 3, as a target (R352). -/
def branchTarget (pc op : Nat) : Nat := wrapInt 52 ((pc : Int) + 32 * sext 16 (opn op 2 2))

/-- The opcodes that the sequencer knows (R352 and the engine chapters). -/
def opKnown (o : Nat) : Bool :=
  (1 ≤ o && o ≤ 0x0D) || (0x10 ≤ o && o ≤ 0x14) || (0x20 ≤ o && o ≤ 0x21) || (0x30 ≤ o && o ≤ 0x34) || (0x40 ≤ o && o ≤ 0x41) ||
  (0x50 ≤ o && o ≤ 0x56) || (0x60 ≤ o && o ≤ 0x62)

/-! ### The running task -/

/-- The engine's number in err_engine (Table 12.10). -/
def Eng.err : Eng → Nat
  | .me => 1 | .mv => 2 | .ve => 3 | .xp => 4 | .ge => 5 | .dma => 6

/-- The engine's bit in an engine mask (R351). -/
def Eng.bit : Eng → Nat
  | .me => 0 | .mv => 1 | .ve => 2 | .ge => 3 | .dma => 4 | .xp => 5

/-- The queue of an engine. -/
def Core.engQueue (k : Core) : Eng → List QOp
  | .me => k.me.queue | .mv => k.mv.queue | .ve => k.ve.queue | .ge => k.ge.queue | .dma => k.dma.queue | .xp => k.xp.queue

/-- The queue of an engine replaced. -/
def Core.setEngQueue (k : Core) (q : List QOp) : Eng → Core
  | .me => { k with me := { k.me with queue := q } }
  | .mv => { k with mv := { k.mv with queue := q } }
  | .ve => { k with ve := { k.ve with queue := q } }
  | .ge => { k with ge := { k.ge with queue := q } }
  | .dma => { k with dma := { k.dma with queue := q } }
  | .xp => { k with xp := { k.xp with queue := q } }

/-- Entries of an engine's queue (R350). -/
def Eng.cap : Eng → Nat
  | .xp => 4
  | _ => 8

/-- Ops waiting in an engine's queue (R163, R350): leading members of a group that is still open have left the ME queue. -/
def Core.queued (k : Core) (e : Eng) : Nat :=
  match e with
  | .me => (k.me.queue.dropWhile (fun q => q.op % 256 == 0x12 && opt q.op 1 2)).length
  | e => (k.engQueue e).length

def Dev.seq (d : Dev) (core : Nat) : Seq := (d.core core).seq
def Dev.updSeq (d : Dev) (core : Nat) (f : Seq → Seq) : Dev := d.updCore core (fun k => { k with seq := f k.seq })
/-- The running task of a core changed. -/
def Dev.updTask (d : Dev) (core : Nat) (f : Task → Task) : Dev := d.updSeq core (fun q => { q with task := q.task.map f })

/-- Every task of an owner on a core, running or saved, changed. -/
def Dev.updOwnTask (d : Dev) (core : Nat) (o : Owner) (f : Task → Task) : Dev :=
  d.updCore core (fun k => { k with
    seq := { k.seq with task := k.seq.task.map (fun t => if t.own = o then f t else t) }
    saved := k.saved.map (fun s => if s.task.own = o then { s with task := f s.task } else s) })

/-- The facet of a core's requesters. -/
def Ctl.facetOfCore (c : Ctl) (core : Nat) : Nat := (c.coreFacet core).getD 0

/-- The sequencer may issue: a task runs, it is not ending, waits on nothing, and no preemption has stopped it. -/
def Dev.issuing (d : Dev) (core : Nat) : Option Task :=
  let q := d.seq core
  match q.task with
  | some t => if t.ending || (q.stopping || q.wait ≠ .none) then none else some t
  | none => none

/-- An op of the task that a preemption is stopping does not start (R378): it is withdrawn when the task is saved. -/
def Dev.withheld (d : Dev) (core : Nat) (q : QOp) : Bool :=
  let s := d.seq core
  s.stopping && s.task.any (fun t => decide (t.own = q.own))

/-- The op at the program counter of a core that may issue, when it has been fetched and has opcode o. -/
def Dev.curOp (d : Dev) (core o : Nat) : Option (Task × Nat) :=
  match d.issuing core with
  | none => none
  | some t => match (d.seq core).buf.find? (fun e => e.1 == t.pc) with
    | some (_, op) => if op % 256 = o then some (t, op) else none
    | none => none

/-- An op of an owner has retired (R370): the counts of core, channel and task. -/
def Dev.retired (d : Dev) (core : Nat) (o : Owner) : Dev :=
  if o.task.isNone then d
  else ((d.count (baseSQ core + 0x64) 1).count (baseCh o.ch + 0x5C) 1).updOwnTask core o (fun t => { t with ops := w32 (t.ops + 1) })

/-- A control op of the running task has acted: it retires and the task goes on at pc. -/
def Dev.ctlDone (d : Dev) (core : Nat) (t : Task) (pc : Nat) : Dev :=
  (d.retired core t.own).updTask core (fun t => { t with pc := pc % 2 ^ 52 })

/-- The running task ends with a status once its issued ops have completed (R352, R353, R366). -/
def Dev.endWith (d : Dev) (core status : Nat) : Dev :=
  d.updTask core (fun t => { t with ending := true, status := if t.status = 0 then status else t.status })

/-! ### Refusals -/

/-- The violation of an op: its virtual address and address space (R353). kind of Table 17.3; eng as err_engine. -/
def opViolation (c : Ctl) (core eng kind code va as : Nat) : Violation :=
  { kind := kind, block := 0x10 + eng, code := code, reqKind := 1, addrKind := 1, facet := c.facetOfCore core, requester := core * 256 + eng,
    address := va, aux := as }

/-- The violation of the use of a sync object outside the facet (R364). -/
def syncViolation (c : Ctl) (core eng code o : Nat) : Violation :=
  { kind := 5, block := 0x10 + eng, code := code, reqKind := 1, addrKind := 0, facet := c.facetOfCore core, requester := core * 256 + eng,
    address := syncOff o }

/-- The command of an owner records its first refusal (R353, Table 12.10). -/
def Dev.noteRefusal (d : Dev) (o : Owner) (eng code : Nat) : Dev :=
  d.updOwnCmd o (fun k => if k.errEngine = 0xFF then { k with errEngine := eng, errCode := code } else k)

/-- An op of an owner has been refused: its task issues nothing further and ends with OP_REFUSED; a command's own op ends the command's
work with that status (R353). -/
def Dev.refusedFor (d : Dev) (core : Nat) (o : Owner) (eng code : Nat) : Dev :=
  let d := d.noteRefusal o eng code
  match o.task with
  | some _ => d.updOwnTask core o (fun t => { t with ending := true, status := if t.status = 0 then 7 else t.status })
  | none => d.updOwnCmd o (fun k => if k.status = 0 then { k with status := 7 } else k)

/-- The sequencer refuses the op at the program counter (R352): 1 UNKNOWN_OP, 2 BAD_FIELD. -/
def Dev.sqRefuse (d : Dev) (core : Nat) (t : Task) (op code : Nat) (v : Violation) : Dev :=
  let b := baseSQ core
  let d := ((d.setReg (b + 0x18) (code * 65536 + op % 256)).setReg (b + 0x1C) (t.pc % 2 ^ 32)).setReg (b + 0x20) (t.pc / 2 ^ 32)
  ((d.raise b 0 (b + 0x40)).violate v).refusedFor core t.own 0 code

/-- A control op: refused with BAD_FIELD when a bit outside its fields is set, otherwise k. -/
def ctlOp (c : Ctl) (d : Dev) (core o : Nat) (fields : List (Nat × Nat × Nat)) (k : Dev → Task → Nat → Dev) : Dev :=
  match d.curOp core o with
  | none => d
  | some (t, op) =>
    if opClean op fields then k d t op else d.sqRefuse core t op 2 (opViolation c core 0 3 2 t.pc t.as)

/-- BAD_FIELD for a fault of kind k. -/
def Dev.badField (c : Ctl) (d : Dev) (core : Nat) (t : Task) (op kind : Nat) : Dev :=
  d.sqRefuse core t op 2 (opViolation c core 0 kind 2 t.pc t.as)

/-- BAD_FIELD for a sync object outside the facet (R352, R364). -/
def Dev.badSync (c : Ctl) (d : Dev) (core : Nat) (t : Task) (op o : Nat) : Dev :=
  d.sqRefuse core t op 2 (syncViolation c core 0 2 o)

/-! ### Engine queues -/

/-- An op enters an engine's queue with the core's next op number. -/
def Dev.enqueueOp (d : Dev) (core : Nat) (e : Eng) (op va as : Nat) (o : Owner) : Dev :=
  d.updCore core (fun k =>
    let q : QOp := { id := k.seq.nextId, op := op, va := va, own := o, as := as }
    let k := k.setEngQueue (k.engQueue e ++ [q]) e
    { k with seq := { k.seq with nextId := k.seq.nextId + 1, outst := k.seq.outst ++ [{ id := q.id, eng := e, own := o }] } })

/-- The sequencer passes the op with opcode o at the program counter to an engine's queue, and waits while the queue is full (R350).
The second component says that it did. -/
def Dev.issue (d : Dev) (core o : Nat) (e : Eng) : Dev × Bool :=
  match d.curOp core o with
  | none => (d, false)
  | some (t, op) =>
    if e.cap ≤ (d.core core).queued e then (d, false)
    else ((d.enqueueOp core e op t.pc t.as t.own).updTask core (fun t => { t with pc := (t.pc + 32) % 2 ^ 52 }), true)

/-- The op at the head of an engine's queue leaves it. -/
def Dev.popOp (d : Dev) (core : Nat) (e : Eng) : Dev := d.updCore core (fun k => k.setEngQueue ((k.engQueue e).drop 1) e)

/-- An op of a core is no longer outstanding. -/
def Dev.dropOutst (d : Dev) (core id : Nat) : Dev :=
  d.updSeq core (fun q => { q with outst := q.outst.filter (fun x => x.id ≠ id) })

/-- An engine op has completed. -/
def Dev.opDone (d : Dev) (core : Nat) (q : QOp) : Dev := (d.dropOutst core q.id).retired core q.own

/-- An engine refuses an op with a code of its table (R353); the violation is left out where the only cause is a poisoned read. -/
def Dev.opRefused (c : Ctl) (d : Dev) (core : Nat) (e : Eng) (q : QOp) (code : Nat) (logged : Bool) : Dev :=
  let d := if logged then d.violate (opViolation c core e.err 3 code q.va q.as) else d
  (d.dropOutst core q.id).refusedFor core q.own e.err code

/-- The op's sync object, where done_sync is enabled, receives ADD 1 (R362). -/
def Dev.signalDone (d : Dev) (en : Bool) (o : Nat) : Dev := if en then d.syncAdd o 1 else d

/-- No op that the masked engines were given before op number n by an owner's task is outstanding (R351). -/
def Dev.drainedFor (d : Dev) (core : Nat) (o : Owner) (mask n : Nat) : Bool :=
  !((d.seq core).outst.any (fun x => x.own = o && (bit mask x.eng.bit && x.id < n)))

/-! ### Tasks -/

/-- The launch of an owner. -/
def Dev.launchOf (d : Dev) (o : Owner) : Launch := ((d.cmd? o.ch o.seq).bind (·.launch)).getD {}

/-- The reservation use and queue entry of a task that ends are returned (R358, R360). -/
def Dev.freeEntry (d : Dev) (t : Task) : Dev :=
  match t.queue with
  | none => d
  | some q =>
    (d.setQueue q { d.queue q with occupancy := (d.queue q).occupancy - 1 }).updOwnCmd t.own (fun k =>
      { k with launch := k.launch.map (fun l => { l with resv := l.resv.map (fun r => if r.1 = q then (r.1, r.2.1, r.2.2 - 1) else r) }) })

/-- A task has ended with a status (R346, R366): its launch has one task fewer. -/
def Dev.taskGone (d : Dev) (t : Task) (status : Nat) : Dev :=
  (d.freeEntry t).updOwnCmd { t.own with task := none } (fun k => { k with
    status := if k.status = 0 then status else k.status
    launch := k.launch.map (fun l => { l with live := l.live - 1 }) })

/-- Some task of the commands that an abort of the channel found started is still there (R354). -/
def Dev.abortLeft (d : Dev) (ch : Nat) : Bool :=
  let mine := fun (t : Task) => t.own.ch == ch && (d.chan ch).abortSeqs.contains t.own.seq
  d.cores.any (fun (e : Nat × Core) => e.2.seq.task.any mine || e.2.saved.any (fun s => mine s.task))

/-- FE_CH_CTRL.abort clears when every affected task has ended (R354). -/
def Dev.abortCheck (d : Dev) (ch : Nat) : Dev :=
  if (d.chan ch).aborting && !d.abortLeft ch then d.updChan ch (fun h => { h with aborting := false }) else d

end Sys2Proof.Machine
end

