-- ==== Sys2Proof/Machine/Elements.lean ====
section
/-! DEFINITION. Elements of tensors in Core Store (Tensor Layout and Descriptors; Number Formats: special records): reading a descriptor,
reads and writes of elements, out-of-bounds accounting, the placing of special records. -/

namespace Sys2Proof.Machine

/-! ### Descriptors -/

/-- What reading a descriptor for a use gives: the descriptor, or a fault (only because of poison, or for a rule of R270). -/
inductive DescRead where
  | ok (d : Desc)
  | poison
  | bad
  deriving DecidableEq, Repr

/-- A descriptor of Core Store read for a use (R258, R259, R270). -/
def Core.desc (k : Core) (off : Nat) (spaces codings : List Nat) (write : Bool) : DescRead :=
  if storeBytes < off + 128 then .bad
  else
    let b := k.csRead off 128
    if anyPoison b then .poison
    else if descOk (plain b) spaces codings write then .ok (parseDesc off (plain b)) else .bad

/-- What a descriptor breaks that must match an op: none; otherwise whether the refusal has a cause other than poison (R168, R290). -/
def DescRead.cause (x : DescRead) (fits : Desc → Bool) : Option Bool :=
  match x with
  | .ok t => if fits t then none else some true
  | .poison => some false
  | .bad => some true

/-- A Core Store offset that names an object of n bytes' alignment is aligned and inside Core Store (R163). -/
def offOk (off n : Nat) : Bool := off % n = 0 && off < storeBytes

/-! ### Reads -/

/-- n bytes of Core Store as a number, with poison. -/
def Core.word (k : Core) (a n : Nat) : Nat × Bool :=
  let b := k.csRead a n
  (leNat (plain b), anyPoison b)

/-- Element (r, c) of a PLAIN tensor of Core Store in an 8, 16 or 32-bit format: its encoding and poison (R262, R267). -/
def Core.elem (k : Core) (d : Desc) (r c : Nat) : Nat × Bool :=
  if d.inBounds r c then k.word (d.addr r c) d.fmt.bytes else (d.fill % 2 ^ d.fmt.width, false)

/-- The code at (r, c) of a PLAIN sub-byte tensor of Core Store (R261, R267). -/
def Core.code (k : Core) (d : Desc) (r c : Nat) : Nat × Bool :=
  if d.inBounds r c then
    let w := d.fmt.width
    let (v, p) := k.word (d.blockAddr r c) d.fmt.colBytes
    (v / 2 ^ (w * (r % 32)) % 2 ^ w, p)
  else (d.fill % 2 ^ d.fmt.width, false)

/-- The block of rows that holds row r has an in-bounds row in column c (R267). -/
def Desc.blockIn (d : Desc) (r c : Nat) : Bool := r / 32 * 32 < d.rows && c < d.cols

/-- The exponent byte of the block that holds (r, c) (R261, R267). -/
def Core.expByte (k : Core) (d : Desc) (r c : Nat) : Nat × Bool :=
  if d.blockIn r c then k.word (d.blockAddr r c + d.fmt.colBytes) 1 else (0x80, false)

/-! ### Writes -/

/-- A byte placed among bytes to write, by address; where two elements share a byte, the free bit says which stays (R266). -/
def mergeByte (free : Nat → Bool) : List (Nat × PByte) → Nat → PByte → List (Nat × PByte)
  | [], a, b => [(a, b)]
  | (x, y) :: r, a, b =>
    if a < x then (a, b) :: (x, y) :: r
    else if a = x then (x, if free a then y else b) :: r
    else (x, y) :: mergeByte free r a b

/-- Elements (address, bytes, poison) as bytes in ascending address. -/
def mergeElems (free : Nat → Bool) (l : List (Nat × List PByte)) : List (Nat × PByte) :=
  l.foldl (fun m e => (e.2.zip (List.range e.2.length)).foldl (fun m x => mergeByte free m (e.1 + x.2) x.1) m) []

/-- Bytes in ascending address as runs that do not cross a 64 B granule. -/
def byteRuns : List (Nat × PByte) → List (Nat × List PByte)
  | [] => []
  | (a, b) :: r => match byteRuns r with
    | (x, l) :: rest => if x = a + 1 && x % 64 ≠ 0 then (a, b :: l) :: rest else (a, [b]) :: (x, l) :: rest
    | [] => [(a, [b])]

/-- The free bits that decide between elements that share bytes. -/
def Dev.shareBits (d : Dev) (a : Nat) : Bool := (Config.freeValue (d.freeCtr + a)).getLsbD 0

/-- Elements written to a core's store (R268, R289): whole granules of clean data clear poison. `prior`: the bytes that the same op has
written already, where the free bit decides whether the new write stays (R266). -/
def Dev.writeElems (d : Dev) (core : Nat) (l : List (Nat × List PByte)) (prior : Nat → Bool := fun _ => false) : Dev :=
  let k := (byteRuns ((mergeElems d.shareBits l).filter (fun x => !(prior x.1 && d.shareBits x.1)))).foldl (fun k e => Core.csWrite k e.1 e.2) (d.core core)
  { d.setCore core k with freeCtr := d.freeCtr + storeBytes }

/-- An element's bytes. -/
def elemBytes (f : Fmt) (w : Nat) (p : Bool) : List PByte := marked p (toLe f.bytes w)

/-! ### Out of bounds -/

/-- Out-of-bounds positions read as fill are counted (R268). -/
def Dev.oobReads (d : Dev) (core n : Nat) : Dev := d.count (baseSQ core + 0x1F18) n

/-- Elements dropped by an op through a descriptor (R268). eng: 0 ME, 1 MVP, 2 VE, 3 DMA. `first`: the positions dropped in the op's first
write cycle that dropped any. `report`: this op has not yet reported through this descriptor. -/
def Dev.oobDrop (d : Dev) (core eng : Nat) (desc : Desc) (o : Owner) (n : Nat) (first : Option (Nat × Nat)) (report : Bool) : Dev :=
  if n = 0 then d
  else
    let b := baseSQ core + 0x1F00
    let d := (d.count (b + 0x14) n).mark o 4
    if desc.reportOob && report then
      let d := if d.flag b 0 then d else match first with
        | some (r, c) => ((d.setReg (b + 4) (eng * 2 ^ 30 + desc.at_ % 2 ^ 23)).setReg (b + 8) (r % 2 ^ 32)).setReg (b + 0xC) (c % 2 ^ 32)
        | none => d
      d.raise b 0 (b + 0x10)
    else d

/-! ### Special records -/

/-- A special record (Table 4.10). -/
def specialRec (eng tile row col kind : Nat) : Nat :=
  min (2 ^ 32 - 1) tile + (row % 65536) * 2 ^ 32 + (eng * 2 ^ 14 + kind * 2 ^ 12 + col % 4096) * 2 ^ 48

/-- A SPECIAL tile completes (R147): flag i of the status register, its counter, the record of two words, the launch's record. -/
def Dev.placeSpecial (d : Dev) (status i cnt rec_ : Nat) (o : Owner) (v : Nat) : Dev :=
  let d := if d.flag status i then d else (d.setReg rec_ (v % 2 ^ 32)).setReg (rec_ + 4) (v / 2 ^ 32)
  (d.raise status i cnt).updOwnCmd o (fun k => if k.launch.isSome && k.special = 0 then { k with special := v } else k)

/-- The first special element in row-major order among (row, column, kind). -/
def firstSpecial : List (Nat × Nat × Nat) → Option (Nat × Nat × Nat)
  | [] => none
  | (r, c, k) :: l => match firstSpecial l with
    | none => if k = 0 then none else some (r, c, k)
    | some (r', c', k') => if k = 0 then some (r', c', k') else if r < r' || (r = r' && c ≤ c') then some (r, c, k) else some (r', c', k')

/-! ### Merge tiles -/

/-- The ordinal of a task's next VE output tile is taken (R145): the task runs on the core or is saved there. -/
def Dev.takeVeTile (d : Dev) (core : Nat) (own : Owner) : Dev × Nat :=
  let k := d.core core
  if (k.seq.task.map (·.own)) = some own then (d.setCore core { k with ve := { k.ve with tile := k.ve.tile + 1 } }, k.ve.tile)
  else match k.saved.find? (fun s => s.task.own = own) with
    | some s => (d.setCore core { k with saved := k.saved.map (fun x => if x.task.own = own then { x with veTile := x.veTile + 1 } else x) }, s.veTile)
    | none => (d, 0)

/-- A task's open merge tile is complete (R228). -/
def Dev.mergeClose (d : Dev) (core : Nat) (own : Owner) : Dev :=
  match (d.core core).ve.merges.find? (fun m => m.own = own) with
  | none => d
  | some m =>
    let b := baseSQ core + 0x6000
    let (d, t) := d.takeVeTile core own
    let d := match m.special with
      | some (i, k) => d.placeSpecial b 0 (b + 0x20) (b + 0x18) own (specialRec 2 t (i / 32) (i % 32) k)
      | none => d
    d.updCore core (fun k => { k with ve := { k.ve with merges := k.ve.merges.filter (fun x => x.own ≠ own) } })

/-- A merge pass of a task has written an element of a special kind, 0 for none (R228). -/
def Dev.mergeElem (d : Dev) (core : Nat) (own : Owner) (kind : Nat) : Dev :=
  let m := ((d.core core).ve.merges.find? (fun m => m.own = own)).getD { own := own }
  let m := { m with n := m.n + 1, special := if m.special.isNone && kind ≠ 0 then some (m.n, kind) else m.special }
  let d := d.updCore core (fun k => { k with ve := { k.ve with merges := m :: k.ve.merges.filter (fun x => x.own ≠ own) } })
  if m.n = 1024 then d.mergeClose core own else d

end Sys2Proof.Machine
end

