-- ==== Sys2Proof/Machine/Tables.lean ====
section
/-! DEFINITION. Table registries, versions and the Row Directory Cache (Embedding Tables, Baskets and Owner Pooling): registry entries
and version records, reference counts and retirement, cached lookups, accesses of a Gather Engine by virtual address. -/

namespace Sys2Proof.Machine

/-! ### Registry entries -/

/-- RD_TREG of an address space (Table 3.15); 0 for no tables. -/
def baseTreg (as : Nat) : Nat := baseRD + 0x1000 + 8 * as
def Dev.treg (d : Dev) (as : Nat) : Nat := d.fld (baseTreg as) 31 12 * 4096 + d.fld (baseTreg as + 4) 19 0 * 2 ^ 32
/-- The virtual address of a registry entry (R80). -/
def Dev.entryVa (d : Dev) (as table : Nat) : Nat := d.treg as + 128 * table

/-- The version record at offset o of a registry entry or record. -/
def parseVer (b : List Byte) (o : Nat) : Ver where
  rowUnits := byteAt b o
  shards := le b (o + 2) 3
  rows := le b (o + 5) 5
  epoch := le b (o + 0xC) 4
  map := le b (o + 0x10) 8 % 2 ^ 52
  base := le b (o + 0x18) 8 % 2 ^ 52
  dir := le b (o + 0x20) 8 % 2 ^ 52

/-- Row width, slots of a shard, rows of a home shard, bytes of a directory segment (R82). -/
def Ver.width (v : Ver) : Nat := 16 * (v.rowUnits + 1)
def Ver.slots (v : Ver) : Nat := 2 ^ 24 / v.width
def Ver.homeRows (v : Ver) : Nat := cdiv v.rows v.shards
def Ver.segBytes (v : Ver) : Nat := upTo (v.homeRows * 8) 64
/-- The address of a row slot (R82). -/
def Ver.slotVa (v : Ver) (shard slot : Nat) : Nat := v.base + shard * 2 ^ 24 + slot * v.width
/-- The address of the row entry of an index (R85). -/
def Ver.rowVa (v : Ver) (i : Nat) : Nat := v.dir + (i % v.shards) * v.segBytes + i / v.shards * 8
/-- The address of a shard entry (R86) and of a shard's statistics (R112). -/
def Ver.shardVa (v : Ver) (s : Nat) : Nat := v.map + 8 * s
def Ver.statVa (v : Ver) (s : Nat) : Nat := v.map + 8 * v.shards + 32 * s

/-- The state of version slot x (0 A, 1 B) of a registry entry: 0 EMPTY, 1 STAGED, 2 ACTIVE, 3 RETIRING. -/
def slotState (e : List Byte) (x : Nat) : Nat := if x = 0 then byteAt e 4 % 16 else byteAt e 4 / 16
/-- The version record of a slot. -/
def slotVer (e : List Byte) (x : Nat) : Ver := parseVer e (0x20 + 0x30 * x)
/-- The slot in a state, if there is one. -/
def slotIn (e : List Byte) (st : Nat) : Option Nat := if slotState e 0 = st then some 0 else if slotState e 1 = st then some 1 else none
/-- The slot that holds an epoch, EMPTY slots apart. -/
def slotOf (e : List Byte) (epoch : Nat) : Option Nat :=
  (List.range 2).find? (fun x => slotState e x ≠ 0 && (slotVer e x).epoch == epoch)
/-- The entry with a slot's state set. -/
def setSlot (e : List Byte) (x st : Nat) : List Byte :=
  let v := byteAt e 4
  overlay e 4 [BitVec.ofNat 8 (if x = 0 then v / 16 * 16 + st else v % 16 + 16 * st)]

/-- A version record is valid for staging (R84). -/
def recordOk (b : List Byte) : Bool :=
  let v := parseVer b 0
  byteAt b 1 == 0 && (le b 0xA 2 == 0 && (le b 0x28 8 == 0 && (le b 0x10 8 < 2 ^ 52 && (le b 0x18 8 < 2 ^ 52 && (le b 0x20 8 < 2 ^ 52 &&
  (1 ≤ v.shards && (v.shards ≤ 4194304 && (1 ≤ v.rows && (v.map % 64 == 0 && (v.base % 2 ^ 24 == 0 && (v.dir % 64 == 0 &&
  v.homeRows ≤ v.slots)))))))))))

/-! ### Accesses of a Gather Engine -/

/-- n bytes at a virtual address of an address space read by the GE of a core. -/
def Dev.geRead (c : Ctl) (d : Dev) (core as : Nat) (own : Option Owner) (hint va n : Nat) : Dev × Option (List PByte) :=
  d.readVa c (whoCore core 5 ((c.asFacet as).getD 0)) core 2 as own hint va n

/-- Bytes written by the GE of a core; false while it waits. -/
def Dev.geWrite (c : Ctl) (d : Dev) (core as : Nat) (own : Option Owner) (va : Nat) (b : List PByte) : Dev × Bool :=
  d.writeVa c (whoCore core 5 ((c.asFacet as).getD 0)) core 2 as own 0 va b

/-- The core whose GE keeps the registry of an address space (R297, log entry 17): the lowest core of its facet that is not quarantined. -/
def Dev.keeper (c : Ctl) (d : Dev) (as : Nat) : Nat :=
  ((((c.asFacet as).map c.facetCores).getD []).find? (fun n => decide ((d.core n).quar.phase = .none))).getD 0

/-- Bytes within one 64 KiB page as the page tables and HBM hold them: no access, but what a condition of a rule is about (R118, R408). -/
def Dev.peek (c : Ctl) (d : Dev) (as va n : Nat) : Option (List Byte) :=
  if !d.ctxOn as then none
  else
    let w := whoCore 0 5 ((c.asFacet as).getD 0)
    match d.walkFrom c w as va 4 0 (d.ctxRoot as) with
    | (d, level, .leaf e) =>
      let t := leafEntry as level va e false
      let pa := t.pa + va % 2 ^ levelShift level
      if leafGrants t.bits false && pa < 2 ^ 46 then some (plain (Dev.paRead c d w pa n 0 (bit t.bits 2)).2.1) else none
    | _ => none

/-! ### References and retirement -/

/-- The launches that run, as (channel, command). -/
def Dev.launches (d : Dev) : List (Nat × Cmd) :=
  d.chans.flatMap (fun (e : Nat × Channel) => (e.2.cmds.filter (fun k => k.phase = .running && (k.launch.map (·.begun)).getD false)).map (fun k => (e.1, k)))

/-- The launch bound an epoch of a table of an address space. -/
def Launch.bound (l : Launch) (as table epoch : Nat) : Bool := l.as == as && l.epochs.contains (table, epoch)

/-- The refs count of a version (R105): launches that bound it and inbound lists for it that are being served. -/
def Dev.refs (d : Dev) (as table epoch : Nat) : Nat :=
  (d.launches.filter (fun x => (x.2.launch.map (fun l => l.bound as table epoch)).getD false)).length +
  (d.cores.map (fun (e : Nat × Core) => (e.2.ge.lists.filter (fun l => !l.dead && (l.h.as == as && l.h.epochs.contains (table, epoch)))).length)).foldl (· + ·) 0

/-- The refs fields that are due are written (Table 3.1), as far as the keeper's GE does not wait; the others stay due. -/
def Dev.writeRefs (c : Ctl) (d : Dev) : Dev :=
  d.refsDue.foldl (fun d x => match d.retiring.find? (fun r => r.as == x.1 && r.table == x.2) with
    | none => { d with refsDue := d.refsDue.filter (fun y => y ≠ x) }
    | some r => match d.geWrite c (d.keeper c r.as) r.as none (d.entryVa r.as r.table + 8) (marked false (toLe 4 (d.refs r.as r.table r.epoch))) with
      | (d, false) => d
      | (d, true) => { d with refsDue := d.refsDue.filter (fun y => y ≠ x) }.doneOutside (d.keeper c r.as) 2) d

/-- The refs fields of the registry entries of an address space's RETIRING versions follow the counts (Table 3.1). -/
def Dev.putRefs (c : Ctl) (d : Dev) (as : Nat) : Dev :=
  let new := ((d.retiring.filter (fun r => r.as == as)).map (fun r => (r.as, r.table))).filter (fun x => !d.refsDue.contains x)
  { d with refsDue := d.refsDue ++ new }.writeRefs c

/-- The RETIRING version of a table may retire (R105). -/
def Dev.mayRetire (d : Dev) (r : Retiring) : Bool := d.refs r.as r.table r.epoch = 0 && (!r.keepOld || r.release.isSome)

/-- Every Row Directory Cache entry that a test selects is dropped. -/
def Dev.rdDrop (d : Dev) (p : RdEntry → Bool) : Dev := { d with rd := d.rd.filter (fun e => !p e) }

/-- ADD v on an object that a cutover or a release named; an object outside the facet of the address space is a violation (R364). -/
def Dev.rdSignal (c : Ctl) (d : Dev) (as o v : Nat) : Dev :=
  if c.syncFacet o = c.asFacet as then d.syncAdd o v
  else d.violate { kind := 5, block := 9, reqKind := 1, addrKind := 0, facet := (c.asFacet as).getD 0xFF, requester := 5, address := syncOff o }

/-- A RETIRING version becomes EMPTY, and its objects receive ADD 1, or ADD 2 where the cutover and the latest release named the same one (R105). e: the
registry entry as read; bad: it was read poisoned. -/
def Dev.retire (c : Ctl) (d : Dev) (r : Retiring) (e : List Byte) (bad : Bool) : Dev :=
  let k := d.keeper c r.as
  match slotIn e 3 with
  | none => d
  | some x => match d.geWrite c k r.as none (d.entryVa r.as r.table + 4) (marked bad (slice (overlay (setSlot e x 0) 5 [0]) 4 2)) with
    | (d, false) => d
    | (d, true) =>
      let d := { d.doneOutside k 2 with retiring := d.retiring.filter (fun x => x != r) }
      match r.sync, r.release with
      | some a, some b => if a = b then d.rdSignal c r.as a 2 else (d.rdSignal c r.as a 1).rdSignal c r.as b 1
      | a, b => (a.toList ++ b.toList).foldl (fun d o => d.rdSignal c r.as o 1) d

/-- The registry entry of a table, read by the GE of a core, with its poison (R290); an address space without a registry has entries of zeros. -/
def Dev.geEntry (c : Ctl) (d : Dev) (core as table : Nat) : Dev × Option (List Byte × Bool) :=
  if d.treg as = 0 then (d, some (zeros 128, false))
  else match d.geRead c core as none 0 (d.entryVa as table) 128 with
    | (d, some b) => (d, some (plain b, anyPoison b))
    | (d, none) => (d, none)

/-- A row fetched through the point path (R95): bytes and poison; none while the GE waits, or while the governor holds the facet's reads (R29). -/
def Dev.gePoint (c : Ctl) (d : Dev) (core as : Nat) (own : Option Owner) (hint va n : Nat) : Dev × Option (List PByte) :=
  match d.resolve c core 2 as va n false with
  | (d, none) => (d, none)
  | (d, some ps) =>
    if !d.permits ((c.asFacet as).getD 0) then (d, none)
    else if ps.all (fun p => match p.tr with | some (pa, _) => pa < 2 ^ 46 | none => false) then
      let w := whoCore core 5 ((c.asFacet as).getD 0)
      let (d, b) := ps.foldl (fun (acc : Dev × List PByte) p => match p.tr with
        | some (pa, lb) =>
          let (d, x, q, _) := Dev.sliceRead c acc.1 w pa hint (bit lb 2) .point true
          (d, acc.2 ++ marked q (slice x (pa % 64) p.n))
        | none => acc) (d, [])
      (match own with | some o => d.markIf (anyPoison b) o 0 | none => d, some b)
    else d.fetchPieces c (whoCore core 5 ((c.asFacet as).getD 0)) core 2 as own hint ps

/-! ### Row Directory Cache -/

/-- Entries that the cache holds (R88). -/
def rdCap : Nat := 4194304

/-- The entry has these tags. -/
def RdEntry.is (e : RdEntry) (as table slot kind key : Nat) : Bool :=
  e.as == as && (e.table == table && (e.slot == slot && (e.kind == kind && e.key == key)))

/-- The list without its last entry that satisfies a test. -/
def dropLast {α : Type} (p : α → Bool) (l : List α) : List α :=
  match findIdx p l.reverse with
  | some i => (l.reverse.eraseIdx i).reverse
  | none => l

/-- An entry enters the cache at the newest place; at its facet's quota it replaces the facet's least recently used entry, in a full cache
the least recently used of all (R88). A facet with quota 0 caches nothing. -/
def Dev.rdInsert (d : Dev) (e : RdEntry) : Dev :=
  let q := min rdCap (d.fld (baseRD + 0x40 + 4 * e.facet) 22 0)
  if q = 0 then d
  else
    let mine := (d.rd.filter (fun x => x.facet == e.facet)).length
    if q ≤ mine then { d with rd := e :: dropLast (fun x => x.facet == e.facet) d.rd }.count (baseRD + 0x28) 1
    else if rdCap ≤ d.rd.length then { d with rd := e :: d.rd.dropLast }.count (baseRD + 0x28) 1
    else { d with rd := e :: d.rd }

/-- An 8 B directory or shard entry at va, through the cache (R88, R95): its value and poison; none while the GE waits. -/
def Dev.rdLookup (c : Ctl) (d : Dev) (core as table slot kind key va : Nat) : Dev × Option (Nat × Bool) :=
  match d.rd.find? (fun e => e.is as table slot kind key) with
  | some e => ({ d with rd := e :: d.rd.filter (fun x => x != e) }.count (baseRD + 0x20) 1, some (e.value, false))
  | none =>
    match d.gePoint c core as none 0 va 8 with
    | (d, none) => (d, none)
    | (d, some b) =>
      let d := d.count (baseRD + 0x24) 1
      let v := leNat (plain b)
      if anyPoison b then (d, some (v, true))
      else (d.rdInsert { as := as, table := table, slot := slot, kind := kind, key := key, value := v, facet := (c.asFacet as).getD 0 }, some (v, false))

/-- An entry changed in HBM and in the cache as one change (R88); false while the GE waits. -/
def Dev.rdWrite (c : Ctl) (d : Dev) (core as table slot kind key va v : Nat) : Dev × Bool :=
  match d.geWrite c core as none va (marked false (toLe 8 v)) with
  | (d, false) => (d, false)
  | (d, true) =>
    ((d.rdDrop (fun e => e.is as table slot kind key)).rdInsert
      { as := as, table := table, slot := slot, kind := kind, key := key, value := v % 2 ^ 64, facet := (c.asFacet as).getD 0 }, true)

/-- The owner that a shard entry names: coordinate and core; none for UNASSIGNED (Table 3.4). -/
def shardOwner (v : Nat) : Option (Nat × Nat) := if v / 2 ^ 62 = 1 then some (bits v 59 48, bits v 47 41) else none

/-- The row that a row entry names: shard and slot; none for EMPTY (Table 3.5). -/
def rowPlace (v : Nat) : Option (Nat × Nat) := if v / 2 ^ 62 = 1 then some (bits v 61 40, bits v 39 20) else none

/-! ### The epoch of a table in a launch -/

/-- The epoch that a launch has bound for a table (R92), 0 for none; the binding is recorded at first use (R466). cur: the epoch of the
version that is ACTIVE now. A cutover binds the former epoch to the launches that run (Baskets), so that an unbound table still has the
epoch that was ACTIVE when the launch started. -/
def Dev.bindEpoch (c : Ctl) (d : Dev) (o : Owner) (as table cur : Nat) : Dev × Nat :=
  let l := d.launchOf o
  let held := (l.epochs.find? (fun e => e.1 == table)).map (·.2)
  if NatSet.has l.noted table then (d, held.getD 0)
  else
    let w := whoChan o.ch ((c.chFacet o.ch).getD 0)
    let (d, e) :=
      if d.forced c o.ch 3 then
        let (d, h, _) := Dev.paBytes c d w (d.tripBase o.ch) 16
        let (d, r) := d.tripFind c w o.ch (le h 0 8) (fun r => r.type == 3 && (r.launch == o.seq % 2 ^ 32 && (le r.body 0 2 == as && le r.body 2 2 == table)))
          65536 (le h 8 8)
        (d, (r.map (fun r => le r.body 4 4)).getD 0)
      else (d, held.getD (if l.closed then 0 else cur))
    let d := d.updOwnCmd o (fun k => { k with launch := k.launch.map (fun l => { l with
      epochs := (table, e) :: l.epochs.filter (fun x => x.1 ≠ table)
      noted := NatSet.ins l.noted table }) })
    (d.tripFor c { o with task := none } 3 0 0xFF 0xFF (toLe 2 as ++ toLe 2 table ++ toLe 4 e), e)

end Sys2Proof.Machine
end

