-- ==== Sys2Proof/Machine/Launch.lean ====
section
/-! DEFINITION. Stored graphs, launches and the DMA work of commands (Commands, Task Programs and Sync Objects): registry entries, graph
images, the start and the end of a launch. -/

namespace Sys2Proof.Machine

/-! ### Graph registry -/

/-- FE_GREG of an address space (Table 12.14). -/
def baseGreg (as : Nat) : Nat := baseFE + 0x101000 + 8 * as
def Dev.greg (d : Dev) (as : Nat) : Nat := d.fld (baseGreg as) 31 12 * 4096 + d.fld (baseGreg as + 4) 15 0 * 2 ^ 32

/-- A revision record of a graph entry (Table 12.5). -/
structure Rev where
  rev : Nat := 0
  live : Nat := 0
  image : Nat := 0
  deriving DecidableEq, Repr

/-- A graph entry: current revision and its three records. -/
structure GraphEntry where
  current : Nat := 0
  revs : List Rev := [{}, {}, {}]
  deriving DecidableEq, Repr

/-- The entry that 64 B hold. -/
def parseGraph (b : List Byte) : GraphEntry where
  current := le b 0 4
  revs := (List.range 3).map (fun i => ⟨le b (0x10 + 16 * i) 4, le b (0x14 + 16 * i) 4, le b (0x18 + 16 * i) 8 % 2 ^ 48⟩)

/-- The 64 B of an entry. -/
def GraphEntry.bytes (e : GraphEntry) : List Byte :=
  toLe 4 e.current ++ zeros 12 ++ e.revs.flatMap (fun r => toLe 4 r.rev ++ toLe 4 r.live ++ toLe 8 r.image)

/-- Records whose revision is not current and that no launch holds are freed (R346). -/
def GraphEntry.sweep (e : GraphEntry) : GraphEntry :=
  { e with revs := e.revs.map (fun r => if r.rev ≠ e.current && r.live = 0 then {} else r) }

/-- The held record of a revision. -/
def GraphEntry.find (e : GraphEntry) (rev : Nat) : Option Nat := if rev = 0 then none else findIdx (fun r : Rev => r.rev == rev) e.revs

/-- The number of the next revision (R347); none when it would exceed 32 bits. -/
def GraphEntry.nextRev (e : GraphEntry) : Option Nat :=
  let n := (e.revs.map (·.rev)).foldl max e.current + 1
  if n < 2 ^ 32 then some n else none

/-- The record that a new revision takes: a free one, else that of a current revision that no launch holds (R347). -/
def GraphEntry.freeRec (e : GraphEntry) : Option Nat :=
  match findIdx (fun r : Rev => r.rev == 0) e.revs with
  | some i => some i
  | none => findIdx (fun r : Rev => r.rev == e.current && r.live == 0) e.revs

/-- The entry with a new current revision: none for GRAPH_BUSY. -/
def GraphEntry.store (e : GraphEntry) (image : Nat) : Option GraphEntry :=
  match e.nextRev, e.freeRec with
  | some n, some i => some ({ e with current := n, revs := modNth (fun _ => { rev := n, image := image }) i e.revs }.sweep)
  | _, _ => none

/-- The entry of a graph read for a channel: its address, itself, poison. -/
def Dev.graphEntry (c : Ctl) (d : Dev) (w : Who) (as graph : Nat) : Dev × Nat × GraphEntry × Bool :=
  let a := d.greg as + 64 * graph
  let (d, b, p) := Dev.paBytes c d w a 64
  (d, a, parseGraph b, p)

/-- An entry written. -/
def Dev.putGraph (c : Ctl) (d : Dev) (w : Who) (a : Nat) (e : GraphEntry) : Dev := Dev.paPut c d w a e.bytes

/-! ### Graph images -/

/-- Tasks of an image. -/
def imgTasks (b : List Byte) : Nat := le b 4 2
def imgResv (b : List Byte) : Nat := le b 6 2
/-- Reservation i of an image: queue and entries. -/
def imgResvAt (b : List Byte) (i : Nat) : Nat × Nat := (byteAt b (0x40 + 4 * i), le b (0x42 + 4 * i) 2)

/-- An image's bytes meet Table 12.6 in a facet. -/
def imageOk (c : Ctl) (f : Nat) (b : List Byte) : Bool :=
  let n := imgTasks b
  let r := imgResv b
  let queues := (List.range r).map (fun i => (imgResvAt b i).1)
  le b 0 4 == 0x48505247 && (1 ≤ n && (n ≤ 1024 && (r ≤ 16 && (le b 8 4 == 128 + 32 * n && (128 + 32 * n ≤ b.length &&
  (le b 0xC 52 == 0 && ((List.range 16).all (fun i =>
      if i < r then byteAt b (0x41 + 4 * i) == 0 && (1 ≤ (imgResvAt b i).2 && (imgResvAt b i).2 ≤ 32768) else le b (0x40 + 4 * i) 4 == 0) &&
  (queues.eraseDups.length == queues.length &&
  (List.range n).all (fun t =>
    let o := 0x80 + 32 * t
    le b o 8 < 2 ^ 52 && (le b o 8 % 32 == 0 && (le b (o + 9) 7 == 0 && (byteAt b (o + 8) == 0xFF || c.coreFacet (byteAt b (o + 8)) == some f))))))))))))

/-- What reading a whole image gives (R344). -/
inductive ImageRead where
  | ok (b : List Byte)
  | bad
  | poison
  deriving DecidableEq, Repr

/-- The image at a physical address: the header must lie in the facet's HBM, then the whole image. -/
def Dev.readImage (c : Ctl) (d : Dev) (w : Who) (pa : Nat) : Dev × ImageRead :=
  if !c.inHbm w.facet pa 128 then (d, .bad)
  else
    let (d, h, p) := Dev.paBytes c d w pa 128
    if p then (d, .poison)
    else
      let n := le h 8 4
      if n < 128 || (2 ^ 17 < n || !c.inHbm w.facet pa n) then (d, .bad)
      else
        let (d, b, p) := Dev.paBytes c d w (pa + 128) (n - 128)
        (d, if p then .poison else .ok (h ++ b))

/-! ### Launches -/

/-- The ready root tasks of an image. -/
def imageRoots (b : List Byte) (ch seq as level facet : Nat) (args : List Nat) : List Ready :=
  (List.range (imgTasks b)).map (fun t =>
    let o := 0x80 + 32 * t
    { task := { own := { ch := ch, seq := seq, task := some t }, as := as, level := level, pc := le b o 8
                c := (List.range 4).map (fun i => le b (o + 16 + 4 * i) 4) ++ args, named := byteAt b (o + 8) }
      facet := facet })

/-- A launch ends (R346): its revision is let go, its reservations return, its epochs are released, it completes. -/
def Dev.endLaunch (c : Ctl) (d : Dev) (ch seq : Nat) : Dev :=
  match d.cmd? ch seq with
  | none => d
  | some k => match k.launch with
    | none => d
    | some l =>
      let w := whoChan ch ((c.chFacet ch).getD 0)
      let (d, a, e, p) := d.graphEntry c w l.as l.graph
      let e := { e with revs := e.revs.map (fun (r : Rev) => if r.rev = l.revision then { r with live := r.live - 1 } else r) }.sweep
      let d := if p then d else d.putGraph c w a e
      let d := l.resv.foldl (fun d r => d.setQueue r.1 { d.queue r.1 with reserved := (d.queue r.1).reserved - r.2.1 }) d
      (d.finish ch seq).putRefs c l.as

/-! ### DMA work of commands -/

/-- A number as the 32 B of an op. -/
def opOf (b : List Byte) : Nat := leNat (padTo 32 b)

/-- The opcode under which the DMA engine writes a command's inline bytes (an op of the model's own, of no program). -/
def inlineOp : Nat := 0xF0

/-- The op that a COPY command gives to a DMA engine (Table 12.3). -/
def copyOp (k : Cmd) : Nat :=
  if k.inlined.isEmpty then
    opOf (toLe 1 0x60 ++ toLe 1 (3 + 4 * (byteAt k.raw 0x11 % 4)) ++ zeros 2 ++ slice k.raw 0x14 4 ++ slice k.raw 0x18 8 ++ slice k.raw 0x20 8)
  else opOf (toLe 1 inlineOp ++ toLe 1 (4 * (byteAt k.raw 0x11 % 4)) ++ zeros 14 ++ slice k.raw 0x20 8)

/-- The op that writes the inline bytes of a LAUNCH to args_va. -/
def argsOp (k : Cmd) : Nat := opOf (toLe 1 inlineOp ++ zeros 15 ++ slice k.raw 0x18 8)

/-- A DMA queue has room. -/
def Dev.dmaRoom (d : Dev) (core : Nat) : Bool := (d.core core).dma.queue.length < 8

/-- A command's own DMA op has ended: COPY completes; BATCH completes with its last op, or once a refusal has stopped it. -/
def Dev.cmdOpDone (d : Dev) (core : Nat) (o : Owner) : Dev :=
  if o.task.isSome then d
  else match d.cmd? o.ch o.seq with
    | none => d
    | some k =>
      if byteAt k.raw 2 = 2 then d.finish o.ch o.seq
      else if byteAt k.raw 2 = 3 && ((k.next = le k.raw 0x12 2 || k.status ≠ 0) && !((d.core core).dma.queue.any (fun q => q.own = o))) then
        d.finish o.ch o.seq
      else d

end Sys2Proof.Machine
end

