-- ==== Sys2Proof/Machine/Dma.lean ====
section
/-! DEFINITION. The DMA engine and relay transfers (Commands, Task Programs and Sync Objects; Tensor Layout and Descriptors). The op at the
head of the queue runs at DMA_OP_COMPLETE: reads, writes, and then, once its writes to other modules and to the host are answered, its
end. -/

namespace Sys2Proof.Machine

/-- A DMA op enters the queue (R355). -/
def dmaIssue (core o : Nat) (s : State) : Host.Outcome State Fault Refusal := onDev s fun _ d => (d.issue core o .dma).1

/-- DMA_COPY (R355). -/
def execDmaCopy (core : Fin 128) (s : State) : Host.Outcome State Fault Refusal := dmaIssue core 0x60 s
/-- DMA_TENSOR (R356). -/
def execDmaTensor (core : Fin 128) (s : State) : Host.Outcome State Fault Refusal := dmaIssue core 0x61 s
/-- DMA_RELAY (R357). -/
def execDmaRelay (core : Fin 128) (s : State) : Host.Outcome State Fault Refusal := dmaIssue core 0x62 s

/-! ### Ends -/

/-- The DMA engine's requester. -/
def whoDma (c : Ctl) (core : Nat) : Who := whoCore core 6 (c.facetOfCore core)

/-- The progress of an op that has started. -/
def Core.dmaRun (k : Core) (q : QOp) : Option DmaRun := k.dma.runs.find? (fun r => r.id == q.id)

/-- The progress of a core's DMA ops changed. -/
def Dev.updRuns (d : Dev) (core : Nat) (f : List DmaRun → List DmaRun) : Dev :=
  d.updCore core (fun k => { k with dma := { k.dma with runs := f k.dma.runs } })

/-- The progress of one op recorded. -/
def Dev.setRun (d : Dev) (core : Nat) (r : DmaRun) : Dev := d.updRuns core (fun l => r :: l.filter (fun x => x.id != r.id))

/-- An op leaves the head of the queue. -/
def Dev.dmaPop (d : Dev) (core : Nat) (q : QOp) : Dev :=
  ((d.popOp core .dma).updRuns core (fun l => l.filter (fun x => x.id != q.id))).doneOutside core 1

/-- done_sync of a DMA op: enabled, object. -/
def dmaSync (op : Nat) : Bool × Nat := (op % 256 ≠ inlineOp && opt op 27 7, opf op 24 16 0)

/-- The head op completes (R355). -/
def Dev.dmaDone (d : Dev) (core : Nat) (q : QOp) : Dev :=
  ((((d.opDone core q).dmaPop core q).signalDone (dmaSync q.op).1 (dmaSync q.op).2)).cmdOpDone core q.own

/-- A refusal of the head op (R353, R355): 1 BAD_FIELD, 2 BAD_FORMAT, 3 BAD_DESC, 4 BAD_ROUTE. An op of a COPY or LAUNCH command has no
virtual address of its own and is logged with the command's slot. -/
def Dev.dmaRefuse (d : Dev) (core : Nat) (q : QOp) (code : Nat) (v : Option Violation) : Dev :=
  let b := baseSQ core
  let o := if q.op % 256 = inlineOp then 0x60 else q.op % 256
  let d := (d.setReg (b + 0x24) (code * 65536 + o)).raise b 1 (b + 0x44)
  let d := match v with
    | some v => d.violate v
    | none => d
  (((d.dropOutst core q.id).refusedFor core q.own 6 code).dmaPop core q).cmdOpDone core q.own

/-- The violation of a refused DMA op. -/
def dmaViolation (c : Ctl) (d : Dev) (core : Nat) (q : QOp) (kind code : Nat) : Violation :=
  match q.own.task, d.cmd? q.own.ch q.own.seq with
  | none, some k => if byteAt k.raw 2 = 3 then opViolation c core 6 kind code q.va q.as
      else { opViolation c core 6 kind code k.pa 0 with addrKind := 2 }
  | _, _ => opViolation c core 6 kind code q.va q.as

/-- BAD_FIELD with a violation of a kind. -/
def Dev.dmaBad (c : Ctl) (d : Dev) (core : Nat) (q : QOp) (kind code : Nat) : Dev :=
  d.dmaRefuse core q code (some (dmaViolation c d core q kind code))

/-- Bytes moved are counted in units of 64 B. -/
def Dev.dmaMoved (d : Dev) (core n : Nat) : Dev := d.count (baseSQ core + 0x78) (cdiv n 64)

/-- done_sync of an op names an object outside the facet. -/
def dmaSyncBad (c : Ctl) (core : Nat) (op : Nat) : Bool := (dmaSync op).1 && c.syncFacet (dmaSync op).2 ≠ c.coreFacet core

/-! ### Units of 4 KiB -/

/-- What one unit of an op gives: it waits for a read or a translation, it waits for a landing ring, or it has been issued (with n of the op's
positions; whether ABORT ended an access). -/
inductive DmaUnit where
  | wait
  | full
  | ok (n : Nat) (aborted : Bool)
  deriving DecidableEq, Repr

/-- The next 4 KiB of a DMA_COPY, or of the inline bytes of a command (R345, R355). -/
def Dev.dmaCopy (c : Ctl) (d : Dev) (core : Nat) (q : QOp) (inl : Option (List Byte)) (pos total : Nat) : Dev × DmaUnit :=
  let op := q.op
  let n := min 4096 (total - pos)
  let src := opn op 8 8 + pos
  let dst := opn op 16 8 + pos
  let srcV := opt op 1 0
  let dstV := inl.isSome || opt op 1 1
  let hint := opf op 1 3 2
  let w := whoDma c core
  match (if inl.isNone && srcV then d.resolve c core 1 q.as src n false else (d, some [])) with
  | (d, none) => (d, .wait)
  | (d, some sp) => match (if dstV then d.resolve c core 1 q.as dst n true else (d, some [])) with
    | (d, none) => (d, .wait)
    | (d, some dp) =>
      match (match inl with
        | some b => (d, some (marked false ((b.drop pos).take n)))
        | none => if srcV then d.fetchPieces c w core 1 q.as (some q.own) hint sp else (d, some ((d.core core).csRead src n))) with
      | (d, none) => (d, .wait)
      | (d, some b) =>
        let d := (d.markIf (anyPoison b) q.own 0).dmaMoved core n
        let d := if dstV then d.storePieces c w core 1 q.as (some q.own) hint dp b else d.updCore core (fun k => k.csWrite dst b)
        (d, .ok n (anyAborted sp || anyAborted dp))

/-- The distinct 64 B granules that the in-bounds elements of a tensor touch, among positions, in ascending address. -/
def Desc.spans (t : Desc) (l : List (Nat × Nat)) : List (Nat × Nat) :=
  (((l.filter (fun p => t.inBounds p.1 p.2)).map (fun p => t.addr p.1 p.2 / 64)).foldl NatSet.ins []).map (fun g => (64 * g, 64))

/-- The next 4 KiB of a DMA_TENSOR (R266, R356), in row-major order of the destination's positions. -/
def Dev.dmaTensor (c : Ctl) (d : Dev) (core : Nat) (q : QOp) (s t : Desc) (pos total : Nat) : Dev × DmaUnit :=
  let hint := opf q.op 1 3 2
  let n := t.fmt.bytes
  let m := min (4096 / n) (total - pos)
  let l := (List.range m).map (fun i => ((pos + i) / t.cols, (pos + i) % t.cols))
  let w := whoDma c core
  match (if s.space = 1 then d.resolveSpans c core 1 q.as false (s.spans l) else (d, some [])) with
  | (d, none) => (d, .wait)
  | (d, some sp) =>
    match (if s.space = 1 then d.fetchPieces c w core 1 q.as (some q.own) hint sp else (d, some [])) with
    | (d, none) => (d, .wait)
    | (d, some b) =>
      let k := d.core core
      let at_ := fun (r c : Nat) => if !s.inBounds r c then (s.fill % 2 ^ s.fmt.width, false)
        else if s.space = 0 then k.elem s r c
        else
          let g := ((findIdx (fun p : Piece => p.va == s.addr r c / 64 * 64) sp).getD 0) * 64 + s.addr r c % 64
          (leNat (plain ((b.drop g).take n)), anyPoison ((b.drop g).take n))
      let vals := l.map (fun p => at_ p.1 p.2)
      let elems := (l.zip vals).map (fun x => (t.addr x.1.1 x.1.2, elemBytes t.fmt x.2.1 x.2.2))
      let fills := (l.filter (fun p => !s.inBounds p.1 p.2)).length
      let prior := fun (a : Nat) => pos ≠ 0 && t.wrote (0, t.rows) (0, t.cols) (fun r c => decide (r * t.cols + c < pos)) a
      let runs := byteRuns ((mergeElems d.shareBits elems).filter (fun x => !(prior x.1 && d.shareBits x.1)))
      match (if t.space = 1 then d.resolveSpans c core 1 q.as true (runs.map (fun x => (x.1, x.2.length))) else (d, some [])) with
      | (d, none) => (d, .wait)
      | (d, some dp) =>
        let d := ((d.oobReads core fills).markIf (vals.any (·.2)) q.own 0).dmaMoved core (n * m)
        let d := if t.space = 1 then { d.storePieces c w core 1 q.as (some q.own) hint dp (runs.flatMap (·.2)) with freeCtr := d.freeCtr + storeBytes }
          else d.writeElems core elems prior
        (d, .ok m (anyAborted sp || anyAborted dp))

/-! ### Relay transfers -/

/-- The cores of a relay transfer from a core to `last` in chain order (R24, R57, R357); none for BAD_ROUTE. -/
def relayCores (c : Ctl) (core last : Nat) : Option (List Nat) :=
  match c.coreFacet core with
  | none => none
  | some f =>
    let rest := (c.tm.run f).dropWhile (· ≠ core)
    match findIdx (· == last) rest with
    | some i => some (rest.take (i + 1))
    | none => none

/-- Bytes of a transfer reach core n: they wait there to land; a quarantined core takes no copy and passes them on (R357, R461). -/
def Dev.relayTo (d : Dev) (src id total : Nat) : List Nat → List PByte → Dev
  | [], _ => d
  | n :: rest, b =>
    let k := d.core n
    if k.quar.phase ≠ .none then d.relayTo src id total rest b
    else if k.landing.any (fun x => x.src == src && x.id == id) then
      d.setCore n { k with landing := k.landing.map (fun x => if x.src == src && x.id == id then { x with data := x.data ++ b } else x) }
    else d.setCore n { k with landing := k.landing ++ [{ src := src, id := id, data := b, left := total, next := rest }] }

/-- The next 4 KiB of a DMA_RELAY, once what it sent before has left this core's landing (R357). -/
def Dev.dmaRelay (c : Ctl) (d : Dev) (core : Nat) (q : QOp) (pos total : Nat) : Dev × DmaUnit :=
  let op := q.op
  let n := min 4096 (total - pos)
  if (d.core core).landing.any (fun x => x.src == core && (x.id == q.id && !x.data.isEmpty)) then (d, .full)
  else match d.resolve c core 1 q.as (opn op 8 8 + pos) n false with
    | (d, none) => (d, .wait)
    | (d, some ps) => match d.fetchPieces c (whoDma c core) core 1 q.as (some q.own) (opf op 1 3 2) ps with
      | (d, none) => (d, .wait)
      | (d, some b) =>
        ((d.dmaMoved core n).relayTo core q.id ((total - pos) / 64) ((relayCores c core (opb op 2)).getD []) b, .ok n (anyAborted ps))

/-! ### The head op -/

/-- The inline bytes of a command's own op; none for an op of a program or of a COPY from memory. -/
def Dev.inlineOf (d : Dev) (q : QOp) : Option (List Byte) :=
  if q.op % 256 = inlineOp then some (((d.cmd? q.own.ch q.own.seq).map (·.inlined)).getD []) else none

/-- Positions of an op: source bytes, or elements of the destination of a DMA_TENSOR. -/
def Dev.dmaTotal (d : Dev) (q : QOp) (r : DmaRun) : Nat :=
  match d.inlineOf q, r.descs with
  | some b, _ => b.length
  | none, some (_, t) => t.rows * t.cols
  | none, none => opn q.op 4 4

/-- The next unit of an op that has started. -/
def Dev.dmaUnit (c : Ctl) (d : Dev) (core : Nat) (q : QOp) (r : DmaRun) : Dev × DmaUnit :=
  let total := d.dmaTotal q r
  match d.inlineOf q, r.descs with
  | some b, _ => d.dmaCopy c core q (some b) r.pos total
  | none, some (s, t) => d.dmaTensor c core q s t r.pos total
  | none, none => if q.op % 256 = 0x60 then d.dmaCopy c core q none r.pos total else d.dmaRelay c core q r.pos total

/-- The checks of a DMA op and its start (R355 to R357): the op with its progress, or refused. -/
def Dev.dmaStart (c : Ctl) (d : Dev) (core : Nat) (q : QOp) : Dev × Option DmaRun :=
  let op := q.op
  let o := op % 256
  let hint := opf op 1 3 2
  let n := match d.inlineOf q with | some b => b.length | none => opn op 4 4
  let begin := fun (r : DmaRun) => (d.setRun core r, some r)
  let inside := fun (v : Bool) (a : Nat) => if v then a + n ≤ 2 ^ 52 && a < 2 ^ 52 else a + n ≤ storeBytes && a < storeBytes
  let fields : List (Nat × Nat × Nat) :=
    if o = 0x60 then [(1, 3, 0), (4, 31, 0), (8, 63, 0), (16, 63, 0), (24, 16, 0), (27, 7, 7)]
    else if o = 0x61 then [(1, 3, 2), (4, 23, 0), (8, 23, 0), (24, 16, 0), (27, 7, 7)]
    else [(1, 3, 2), (2, 7, 0), (4, 31, 0), (8, 63, 0), (24, 16, 0), (27, 7, 7)]
  if o = inlineOp then (if hint = 3 || !inside true (opn op 16 8) then (d.dmaBad c core q 3 1, none) else begin { id := q.id })
  else if !opClean op fields || hint = 3 then (d.dmaBad c core q 3 1, none)
  else if dmaSyncBad c core op then (d.dmaRefuse core q 1 (some (syncViolation c core 6 1 (dmaSync op).2)), none)
  else if o = 0x60 then
    if !inside (opt op 1 1) (opn op 16 8) || !inside (opt op 1 0) (opn op 8 8) then (d.dmaBad c core q 3 1, none) else begin { id := q.id }
  else if o = 0x61 then
    if !offOk (opn op 4 3) 64 || !offOk (opn op 8 3) 64 then (d.dmaBad c core q 3 1, none)
    else match (d.core core).desc (opn op 4 3) [0, 1] [0] false, (d.core core).desc (opn op 8 3) [0, 1] [0] true with
      | .ok s, .ok t =>
        if s.fmt ≠ t.fmt || (s.fmt.subByte || t.fmt.subByte) then (d.dmaBad c core q 3 2, none) else begin { id := q.id, descs := some (s, t) }
      | .bad, _ => (d.dmaBad c core q 3 3, none)
      | _, .bad => (d.dmaBad c core q 3 3, none)
      | _, _ => (d.dmaRefuse core q 3 none, none)
  else if n % 64 ≠ 0 || 2 ^ 52 < opn op 8 8 + n then (d.dmaBad c core q 3 1, none)
  else match relayCores c core (opb op 2) with
    | none => (d.dmaBad c core q 5 4, none)
    | some cores => begin { id := q.id, relay := if n = 0 then [] else cores.filter (fun m => (d.core m).quar.phase = .none) }

/-- Units of an op are issued until one waits, or all have been; a preemption stops it between units (R378). -/
def Dev.dmaUnits (c : Ctl) (core : Nat) (q : QOp) : Nat → Dev → DmaRun → Dev
  | 0, d, _ => d
  | n + 1, d, r =>
    if r.issued || (!r.moving && d.withheld core q) then d
    else if d.dmaTotal q r ≤ r.pos then d.setRun core { r with issued := true }
    else match d.dmaUnit c core q r with
      | (d, .wait) => d.setRun core { r with moving := true }
      | (d, .full) => d
      | (d, .ok m a) =>
        let r := { r with pos := r.pos + m, moving := false, aborted := r.aborted || a
                          relay := (((d.core core).dmaRun q).map (·.relay)).getD r.relay }
        Dev.dmaUnits c core q n (d.setRun core r) r

/-- The head op starts where it has not, and goes on as far as it can. -/
def Dev.dmaMove (c : Ctl) (d : Dev) (core : Nat) (q : QOp) : Dev :=
  let go := fun (d : Dev) (r : DmaRun) => d.dmaUnits c core q (d.dmaTotal q r + 1) r
  match (d.core core).dmaRun q with
  | some r => go d r
  | none => if d.withheld core q then d
    else match d.dmaStart c core q with
      | (d, some r) => go d r
      | (d, none) => d

/-- Every byte of an op has been issued, its writes have been answered and its relay transfer has landed (R355, R357). -/
def Dev.dmaComplete (d : Dev) (core : Nat) (q : QOp) : Bool :=
  match (d.core core).dmaRun q with
  | some r => r.issued && (r.relay.isEmpty && !d.hl.ext.any (fun e => e.who == 4 * core + 1 && (e.write && e.own == some q.own)))
  | none => false

/-- The landing ring of a core: base and size in bytes (R359). -/
def Dev.ringArea (d : Dev) (core : Nat) : Nat × Nat := (d.fld (baseSQ core + 0x30) 10 0 * 4096, d.fld (baseSQ core + 0x30) 26 16 * 4096)

/-- Units of 64 B written into a ring at byte position p. -/
def Core.ringWrite (k : Core) (base size p : Nat) (b : List PByte) : Core :=
  (List.range (b.length / 64)).foldl (fun k i => k.csWrite (base + (p + 64 * i) % size) ((b.drop (64 * i)).take 64)) k

/-- One core of a transfer has landed its last byte: the op, running or saved, waits for one core fewer. -/
def Dev.relayLanded (d : Dev) (src id core : Nat) : Dev :=
  let f := fun (l : List DmaRun) => l.map (fun (r : DmaRun) => if r.id == id then { r with relay := r.relay.filter (· ≠ core) } else r)
  (d.updRuns src f).updCore src (fun k => { k with saved := k.saved.map (fun s => { s with dma := f s.dma }) })

/-- RELAY_LAND (R357, R359): the transfer at the head of a core's landing ring lands up to 4 KiB, as far as the ring has room, and goes on to
the next core. At the core that sends it, it moves only while its op is the current one (R378), and then the op sends its next 4 KiB. -/
def execRelayLand (core : Fin 128) (s : State) : Host.Outcome State Fault Refusal :=
  onDev s fun c d =>
    let k := d.core core
    let (base, size) := d.ringArea core
    match k.landing with
    | [] => d
    | x :: rest =>
      let room := size / 64 - (k.arrived - k.freed)
      let n := min 64 (min (x.data.length / 64) room)
      if n = 0 || (x.src = core.val && (k.dma.queue.head?.map (·.id)) ≠ some x.id) then d
      else
        let b := x.data.take (64 * n)
        let k := k.ringWrite base size (64 * k.arrived) b
        let left := x.left - n
        let x' := { x with data := x.data.drop (64 * n), left := left }
        let d := d.setCore core { k with arrived := k.arrived + n, landing := if left = 0 then rest else x' :: rest }
        let d := d.relayTo x.src x.id x.left x.next b
        let d := if left = 0 then d.relayLanded x.src x.id core else d
        match (d.core core).dma.queue with
        | q :: _ => if x.src = core.val && q.id = x.id then d.dmaMove c core q else d
        | [] => d

/-- DMA_OP_COMPLETE (R355): the head of the DMA queue moves as far as it can, and completes where it is done. -/
def execDmaOpComplete (core : Fin 128) (s : State) : Host.Outcome State Fault Refusal :=
  onDev s fun c d =>
    match (d.core core).dma.queue with
    | [] => d
    | q :: _ =>
      let launch := q.op % 256 = inlineOp && ((d.cmd? q.own.ch q.own.seq).map (fun k => byteAt k.raw 2 == 1)).getD false
      if launch then d
      else
        let d := d.dmaMove c core q
        if d.dmaComplete core q then d.dmaDone core q else d

/-- The argument write of a launch has completed: its root tasks are ready (R345). -/
def Dev.argsDone (d : Dev) (ch seq : Nat) : Dev :=
  match (d.cmd? ch seq).bind (·.launch) with
  | none => d
  | some l => { d.updCmd ch seq (fun k => { k with launch := k.launch.map (fun l => { l with roots := [] }) }) with ready := d.ready ++ l.roots }

/-- The argument write of a launch has failed: no task runs and the launch ends at once (R345, R366). -/
def Dev.argsFailed (c : Ctl) (d : Dev) (ch seq status : Nat) : Dev :=
  (d.updCmd ch seq (fun k => { k with
    status := if k.status = 0 then status else k.status
    launch := k.launch.map (fun l => { l with roots := [], live := 0 }) })).endLaunch c ch seq

/-- LAUNCH_ARG_WRITE_DONE (R345): the argument write at the head of a core's DMA queue. -/
def execLaunchArgWriteDone (core : Fin 128) (s : State) : Host.Outcome State Fault Refusal :=
  onDev s fun c d =>
    match (d.core core).dma.queue with
    | [] => d
    | q :: _ =>
      match d.cmd? q.own.ch q.own.seq with
      | none => d
      | some k =>
        if q.op % 256 ≠ inlineOp || byteAt k.raw 2 ≠ 1 then d
        else
          let d := d.dmaMove c core q
          let aborted := (((d.core core).dmaRun q).map (·.aborted)).getD false
          if d.dmaComplete core q then
            let d := d.dmaDone core q
            if aborted then d.argsFailed c q.own.ch q.own.seq 0xA else d.argsDone q.own.ch q.own.seq
          else if (d.core core).dma.queue.any (fun x => x.id == q.id) then d
          else d.argsFailed c q.own.ch q.own.seq 7

end Sys2Proof.Machine
end

