-- ==== Sys2Proof/Machine/Window.lean ====
section
/-! DEFINITION. The control window as the host meets it (Architecture and the Two Serving Flows; Trail Map: HOST_ACCESS; Bring-up: ready
bits): which block an offset belongs to, who may write it, what an access that breaks a rule gets. -/

namespace Sys2Proof.Machine

/-- The block of an offset as violation log entries name it (Table 17.2); 0x0E in a reserved range of Table 1.5 or 1.6. -/
def blockCode (off : Nat) : Nat :=
  if off < 0x80000 then off / 0x10000
  else if off < 0xC0000 then 8
  else if off < 0xD0000 then 9
  else if off < 0xE0000 then 0x0A
  else if off < 0x100000 then 0x0E
  else if off < 0x200000 then 0x0B
  else if off < 0x400000 then 0x0C
  else if off < 0x500000 then 0x0D
  else if off < 0x1000000 || 0x2000000 ≤ off then 0x0E
  else
    let o := off % 0x20000
    if o < 0x2000 then 0x10 else if o < 0x4000 then 0x11 else if o < 0x6000 then 0x12 else if o < 0x8000 then 0x13
    else if o < 0xA000 then 0x14 else if o < 0xC000 then 0x15 else if o < 0xE000 then 8 else if o < 0x10000 then 0x0E
    else if o < 0x14000 then 0x11 else if o < 0x18000 then 0x12 else 0x0E

/-- The bit of block_mask that grants a write at an offset (R64). -/
def blockBit (off : Nat) : Nat := if 0x1000000 ≤ off then 14 else blockCode off

/-- The core whose region holds an offset. -/
def coreOf (off : Nat) : Nat := (off - 0x1000000) / 0x20000

/-- The facet of the resource that an offset names, for R54 and R64: `none` names none; `some none` an unused resource. The second
component says whether R64 limits the write by facet_mask. -/
def resourceOf (c : Ctl) (off : Nat) : Option (Option Nat) × Bool :=
  let existing := fun f => if (c.tm.facet? f).isSome then some f else none
  if 0x1000000 ≤ off then (some (c.coreFacet (coreOf off)), true)
  else if baseSY ≤ off && off < 0x500000 then (some (c.syncFacet ((off - baseSY) / 8)), true)
  else if baseFE ≤ off && off < baseSY then
    let o := off - baseFE
    if o < 0x100000 then (some (c.chFacet (o / 0x100)), true)
    else if 0x101000 ≤ o && o < 0x103000 then (some (c.asFacet ((o - 0x101000) / 8)), true)
    else if 0x104000 ≤ o && o < 0x104400 then (some (existing ((o - 0x104000) / 0x40)), true)
    else if 0x108000 ≤ o && o < 0x109000 then (some (c.queueFacet ((o - 0x108000) / 0x10)), true)
    else if 0x109000 ≤ o && o < 0x109400 then (some (existing ((o - 0x109000) / 0x40)), true)
    else if 0x10A000 ≤ o && o < 0x10E000 then (some (c.clientFacet ((o - 0x10A000) / 0x10)), true)
    else if 0x180000 ≤ o then (some (c.syncFacet ((o - 0x180000) / 4)), true)
    else (none, true)
  else if 0x58000 ≤ off && off < 0x5C000 then (some (c.chFacet ((off - 0x58000) / 4)), false)
  else if 0x90000 ≤ off && off < 0xA0000 then (some (c.asFacet ((off - 0x90000) / 0x40)), false)
  else if 0xC1000 ≤ off && off < 0xC3000 then (some (c.asFacet ((off - 0xC1000) / 8)), false)
  else if 0x48000 ≤ off && off < 0x50000 then (some (c.chFacet ((off - 0x48000) / 8)), false)
  else (none, false)

/-- The ready bit of the block at an offset (R438 to R440, log entry 13): HL waits for the host link, RG and AG for Ranger's firmware,
TR, FE and MS for step 5 of Table 16.2, a core region for its core; other blocks are always ready. -/
def blockReady (c : Ctl) (d : Dev) (off : Nat) : Bool :=
  if 0x1000000 ≤ off && off < 0x2000000 then coreReady c d (coreOf off)
  else match blockCode off with
    | 2 => c.stage = .firmware
    | 3 => c.stage = .firmware
    | 5 => d.hl.eklUp
    | 8 => c.blocksReady
    | 0x0A => c.blocksReady
    | 0x0C => c.blocksReady
    | _ => true

/-- A width and alignment that R36 admits. -/
def widthOk (off width : Nat) : Bool :=
  let sy := baseSY ≤ off && off < 0x500000
  (width = 4 && off % 4 = 0) || (width = 8 && (sy && off % 8 = 0))

/-- What the Trail Map, or R65 without one, says of a write by function fn: none where it is granted, else the violation's kind. -/
def writeRight (c : Ctl) (fn off : Nat) : Option Nat :=
  match c.map with
  | none => if fn = 0 && (blockCode off = 0 || blockCode off = 2 || blockCode off = 5) then none else some 2
  | some m =>
    match m.access.find? (fun e => e.fn == fn) with
    | none => some 2
    | some e =>
      if !bit e.blocks (blockBit off) then some 2
      else match resourceOf c off with
        | (some none, _) => some 5
        | (some (some f), true) => if bit e.facets f then none else some 2
        | _ => none

/-- The offset is a register of its block: some row of the register tables lies there, or it lies in an array of words that the tables
describe as one (sync objects, log and fault entries). -/
def isRegister (off : Nat) : Bool :=
  (baseSY ≤ off && off < 0x500000) || !(fieldsAt off).isEmpty

/-- A host write is admitted: the state after the checks, and whether the write goes on to the register (R33, R36, R37, R54, R64, R65,
R440). -/
def checkWrite (c : Ctl) (d : Dev) (fn off width : Nat) : Dev × Bool :=
  let bad := fun kind => (d.violate (hostViolation kind (blockCode off) 0 fn off), false)
  if !widthOk off width || (width = 4 && (baseSY ≤ off && off < 0x500000)) then bad 6
  else if blockCode off = 0x0E then bad 6
  else if !blockReady c d off then (d.count (baseBU + 0xD8) 1, false)
  else match writeRight c fn off with
    | some kind => bad kind
    | none => if isRegister off then (d, true) else bad 6

/-- A host write to a register: k is its effect once admitted. -/
def hostWrite (c : Ctl) (d : Dev) (fn off width : Nat) (k : Dev → Dev) : Dev :=
  let (d, ok) := checkWrite c d fn off width
  if ok then k d else d

/-- A host write dropped and logged as a violation (kind of Table 17.3) with the register's offset. -/
def dropWrite (d : Dev) (kind fn off : Nat) : Dev := d.violate (hostViolation kind (blockCode off) 0 fn off)

/-- The bits of a value that lie in a field, in place. -/
def fieldBits (f : RegField) (v : Nat) : Nat := bits v f.hi f.lo * 2 ^ f.lo

/-- A host write of v by the access types RW and W1C (Table 1.7, R40). -/
def writeFields (d : Dev) (off v : Nat) : Dev :=
  (fieldsAt off).foldl (fun d f => match f.acc with
    | .rw => d.setFld off f.hi f.lo (bits v f.hi f.lo)
    | .w1c => d.setFld off f.hi f.lo (bits (d.reg off) f.hi f.lo - (bits (d.reg off) f.hi f.lo &&& bits v f.hi f.lo))
    | _ => d) d

/-- Only the RW fields of v (a register whose other bits are a command of their own). -/
def writeRw (d : Dev) (off v : Nat) : Dev :=
  (fieldsAt off).foldl (fun d f => match f.acc with
    | .rw => d.setFld off f.hi f.lo (bits v f.hi f.lo)
    | _ => d) d

/-- A write of BU_BOOT (R39, R442): fw_load, effective only in ROM_WAIT, starts the read of a firmware image at BU_FW_SRC. -/
def fwLoadWrite (c : Ctl) (d : Dev) (fn val : Nat) : Ctl × Dev :=
  let (d, ok) := checkWrite c d fn (baseBU + 0xC0) 4
  if !ok || (!bit val 0 || (c.stage ≠ .romWait || c.fwLoad)) then (c, d)
  else ({ c with fwLoad := true }, d.hostGet (d.fld (baseBU + 0xC4) 31 12 * 4096 + d.reg (baseBU + 0xC8) * 2 ^ 32) 64)

/-- BU_STATUS.ready_lost: a ready bit went from 1 to 0 (R439). -/
def Dev.readyLost (d : Dev) : Dev := d.raise (baseBU + 0xD0) 0 (baseBU + 0xD4)

end Sys2Proof.Machine
end

