-- ==== Sys2Proof/Machine/Sequencer.lean ====
section
/-! DEFINITION. Commands of the core sequencer (Commands, Task Programs and Sync Objects): op fetch, the control ops of Table 12.8, deferred
SIGNALs and fences, the landing ring and save area registers, the end of a task. An op acts only when it is the op at the program
counter of a task that may issue; otherwise the command finds nothing to do. -/

namespace Sys2Proof.Machine

/-! ### Fetch -/

/-- The ops of a fetched burst: addresses and ops, up to the first that is poisoned or unknown (R350, R352). -/
def burstOps (pc : Nat) : Nat → List PByte → List (Nat × Nat)
  | 0, _ => []
  | n + 1, b =>
    let one := b.take 32
    let op := leNat (plain one)
    if anyPoison one || !opKnown (op % 256) then [] else (pc, op) :: burstOps (pc + 32) n (b.drop 32)

/-- OP_FETCH (R350): a burst from the program counter up to the end of its 64 KiB page. -/
def execOpFetch (core : Fin 128) (s : State) : Host.Outcome State Fault Refusal :=
  onDev s fun c d =>
    match d.issuing core with
    | none => d
    | some t =>
      if (d.seq core).buf.any (fun e => e.1 == t.pc) then d
      else
        let n := min 64 ((65536 - t.pc % 65536) / 32)
        let w := whoCore core 0 (c.facetOfCore core)
        match d.resolve c core 0 t.as t.pc (32 * n) false with
        | (d, none) => d
        | (d, some ps) =>
          match d.fetchPieces c w core 0 t.as none 0 ps with
          | (d, none) => d
          | (d, some b) =>
            let d := d.doneOutside core 0
            let one := b.take 32
            let op := leNat (plain one)
            if (ps.head?.map (fun p => p.tr.isNone)).getD false then (d.mark t.own 3).endWith core 0xA
            else if anyPoison one then (d.mark t.own 0).endWith core 9
            else if !opKnown (op % 256) then d.sqRefuse core t op 1 (opViolation c core 0 3 1 t.pc t.as)
            else d.updSeq core (fun q => { q with buf := burstOps t.pc n b })

/-! ### Counters and branches -/

/-- END (R352). -/
def execEndOp (core : Fin 128) (s : State) : Host.Outcome State Fault Refusal :=
  onDev s fun c d => ctlOp c d core 1 [] fun d t _ => (d.ctlDone core t (t.pc + 32)).endWith core 0

/-- Counter n of a task. -/
def Task.counter (t : Task) (n : Nat) : Nat := nth 0 t.c n
/-- The running task's counter n set. -/
def Dev.setCounter (d : Dev) (core n v : Nat) : Dev := d.updTask core (fun t => { t with c := modNth (fun _ => w32 v) n t.c })
/-- The running task's predicate n set. -/
def Dev.setPred (d : Dev) (core n : Nat) (b : Bool) : Dev := d.updTask core (fun t => { t with p := setBit t.p n b })

/-- SETC (R352). -/
def execSetc (core : Fin 128) (s : State) : Host.Outcome State Fault Refusal :=
  onDev s fun c d => ctlOp c d core 2 [(1, 2, 0), (4, 31, 0)] fun d t op =>
    (d.setCounter core (opf op 1 2 0) (opn op 4 4)).ctlDone core t (t.pc + 32)

/-- ADDC (R352). -/
def execAddc (core : Fin 128) (s : State) : Host.Outcome State Fault Refusal :=
  onDev s fun c d => ctlOp c d core 3 [(1, 2, 0), (4, 31, 0)] fun d t op =>
    (d.setCounter core (opf op 1 2 0) (t.counter (opf op 1 2 0) + opn op 4 4)).ctlDone core t (t.pc + 32)

/-- A replayed task diverges at its next decision record (R470): it ends with ABORTED. -/
def Dev.divergeTask (c : Ctl) (d : Dev) (core : Nat) (t : Task) (r : Option TripRec) : Dev :=
  (d.divergeAt ((c.chFacet t.own.ch).getD 0) t.own.ch r).endWith core 0xB

/-- A recorded value: while recording it is written, in replay the recorded one is used (R466, R469, R470). k gets the value. -/
def Dev.valueOf (c : Ctl) (d : Dev) (core : Nat) (t : Task) (opc n v flags : Nat) (k : Dev → Nat → Dev) : Dev :=
  if d.forced c t.own.ch 5 then
    match d.nextDecision c t.own with
    | (d, none) => d.divergeTask c core t none
    | (d, some r) =>
      if r.type ≠ 5 || (le r.body 0 8 ≠ t.pc || (byteAt r.body 8 ≠ opc || byteAt r.body 9 ≠ n)) then d.divergeTask c core t (some r)
      else
        let x := le r.body 12 4
        let d := d.tookDecision c t.own r.trip
        let d := if x = v then d else d.updReplay ((c.chFacet t.own.ch).getD 0) (fun p => { p with forced := p.forced + 1 })
        k d x
  else k (d.tripFor c t.own 5 flags core 0 (toLe 8 t.pc ++ toLe 1 opc ++ toLe 1 n ++ zeros 2 ++ toLe 4 v)) v

/-- LDC (R351): a word of Core Store as it stands at issue. -/
def execLdc (core : Fin 128) (s : State) : Host.Outcome State Fault Refusal :=
  onDev s fun c d => ctlOp c d core 4 [(1, 6, 0), (4, 22, 0)] fun d t op =>
    let n := opf op 1 2 0
    let a := opf op 4 22 0 + (if opt op 1 3 then 4 * t.counter (opf op 1 6 4) else 0)
    if a % 4 ≠ 0 || storeBytes < a + 4 then d.badField c core t op 1
    else
      let b := (d.core core).csRead a 4
      let d := d.markIf (anyPoison b) t.own 0
      d.valueOf c core t 4 n (leNat (plain b)) (if anyPoison b then 1 else 0) fun d v => (d.setCounter core n v).ctlDone core t (t.pc + 32)

/-- BR (R352). -/
def execBr (core : Fin 128) (s : State) : Host.Outcome State Fault Refusal :=
  onDev s fun c d => ctlOp c d core 5 [(1, 4, 0), (2, 15, 0)] fun d t op =>
    d.ctlDone core t (if opt op 1 4 || bit t.p (opf op 1 2 0) == opt op 1 3 then branchTarget t.pc op else t.pc + 32)

/-- The condition of BRC. -/
def brcHolds (cond x imm : Nat) : Bool :=
  match cond with
  | 0 => x == imm
  | 1 => x != imm
  | 2 => x < imm
  | _ => imm ≤ x

/-- BRC (R352). -/
def execBrc (core : Fin 128) (s : State) : Host.Outcome State Fault Refusal :=
  onDev s fun c d => ctlOp c d core 6 [(1, 2, 0), (1, 6, 4), (2, 15, 0), (4, 31, 0)] fun d t op =>
    if 3 < opf op 1 6 4 then d.badField c core t op 3
    else d.ctlDone core t (if brcHolds (opf op 1 6 4) (t.counter (opf op 1 2 0)) (opn op 4 4) then branchTarget t.pc op else t.pc + 32)

/-- LOOP (R352). -/
def execLoop (core : Fin 128) (s : State) : Host.Outcome State Fault Refusal :=
  onDev s fun c d => ctlOp c d core 7 [(1, 2, 0), (2, 15, 0)] fun d t op =>
    let n := opf op 1 2 0
    let v := (t.counter n + (2 ^ 32 - 1)) % 2 ^ 32
    (d.setCounter core n v).ctlDone core t (if v = 0 then t.pc + 32 else branchTarget t.pc op)

/-! ### Order -/

/-- FENCE (R351). -/
def execFence (core : Fin 128) (s : State) : Host.Outcome State Fault Refusal :=
  onDev s fun c d => ctlOp c d core 8 [(1, 5, 0)] fun d t op =>
    let m := opf op 1 5 0
    let n := (d.seq core).nextId
    let d' := d.ctlDone core t (t.pc + 32)
    if d.drainedFor core t.own m n then d' else d'.updSeq core (fun q => { q with wait := .fence m n })

/-- FENCE_RELEASE (R351): the last earlier op of the masked engines has completed. -/
def execFenceRelease (core : Fin 128) (s : State) : Host.Outcome State Fault Refusal :=
  onDev s fun _ d =>
    match (d.seq core).task, (d.seq core).wait with
    | some t, .fence m n => if d.drainedFor core t.own m n then d.updSeq core (fun q => { q with wait := .none }) else d
    | _, _ => d

/-- A WAIT's object and value are met, poisoned or still to come (R362, R364). -/
def Dev.waitOn (d : Dev) (core o v : Nat) (eq : Bool) : Dev :=
  let x := d.syncObj o
  if x.poison then (d.updSeq core (fun q => { q with wait := .none })).endWith core 8
  else if waitMet eq v x.value then d.updSeq core (fun q => { q with wait := .none })
  else d.updSeq core (fun q => { q with wait := .sync o eq v })

/-- WAIT (R352, R362, R364). -/
def execWait (core : Fin 128) (s : State) : Host.Outcome State Fault Refusal :=
  onDev s fun c d => ctlOp c d core 9 [(1, 4, 0), (4, 16, 0), (8, 63, 0)] fun d t op =>
    let o := opf op 4 16 0
    if c.syncFacet o ≠ c.coreFacet core then d.badSync c core t op o
    else
      let v := (opn op 8 8 + (if opt op 1 1 then t.counter (opf op 1 4 2) else 0)) % 2 ^ 64
      (d.ctlDone core t (t.pc + 32)).waitOn core o v (opt op 1 0)

/-- A SIGNAL acts on its object (R362, R364). -/
def Dev.actSignal (d : Dev) (set : Bool) (o v : Nat) : Dev := if set then d.syncSet o v else d.syncAdd o v

/-- SIGNAL (R351): at once with mask 0, deferred otherwise. -/
def execSignal (core : Fin 128) (s : State) : Host.Outcome State Fault Refusal :=
  onDev s fun c d => ctlOp c d core 0xA [(1, 0, 0), (2, 5, 0), (4, 16, 0), (8, 63, 0)] fun d t op =>
    let o := opf op 4 16 0
    let m := opf op 2 5 0
    if c.syncFacet o ≠ c.coreFacet core then d.badSync c core t op o
    else
      let d := d.ctlDone core t (t.pc + 32)
      if m = 0 then d.actSignal (opt op 1 0) o (opn op 8 8)
      else d.updSeq core (fun q => { q with deferred := q.deferred ++
        [{ own := t.own, set := opt op 1 0, mask := m, sync := o, operand := opn op 8 8, before := q.nextId }] })

/-- SIGNAL_DEFERRED_ACT (R351): the oldest deferred SIGNAL of the core whose earlier ops have completed. -/
def execSignalDeferredAct (core : Fin 128) (s : State) : Host.Outcome State Fault Refusal :=
  onDev s fun _ d =>
    match findIdx (fun x : Deferred => d.drainedFor core x.own x.mask x.before) (d.seq core).deferred with
    | none => d
    | some i => match ((d.seq core).deferred.drop i).head? with
      | none => d
      | some x => (d.updSeq core (fun q => { q with deferred := q.deferred.eraseIdx i })).actSignal x.set x.sync x.operand

/-- OWN succeeds (R363). -/
def ownSucceeds (x : SyncObj) (claim : Bool) (core : Nat) : Bool := x.owner == some core || (claim && x.owner.isNone)

/-- The owner tag after an OWN; an object that the core's Expander mirrors stays its own (R363, log entry 15). -/
def ownTag (x : SyncObj) (claim : Bool) (core : Nat) : SyncObj :=
  if !ownSucceeds x claim core then x
  else if claim then { x with owner := some core }
  else if x.mirror then x else { x with owner := none }

/-- OWN (R363). -/
def execOwn (core : Fin 128) (s : State) : Host.Outcome State Fault Refusal :=
  onDev s fun c d => ctlOp c d core 0xB [(1, 0, 0), (1, 6, 4), (4, 16, 0)] fun d t op =>
    let o := opf op 4 16 0
    let p := opf op 1 6 4
    if c.syncFacet o ≠ c.coreFacet core then d.badSync c core t op o
    else
      let x := d.syncObj o
      let ok := ownSucceeds x (opt op 1 0) core
      let d := { d with sync := Sparse.set {} d.sync o (ownTag x (opt op 1 0) core) }
      d.valueOf c core t 0xB p (if ok then 1 else 0) 0 fun d v => (d.setPred core p (v == 1)).ctlDone core t (t.pc + 32)

/-! ### Self-enqueue -/

/-- The registers of device queue q (Table 12.14). -/
def baseQueue (q : Nat) : Nat := baseFE + 0x108000 + 0x10 * q
def Dev.queueOn (d : Dev) (q : Nat) : Bool := d.flag (baseQueue q) 31
/-- Entries of a device queue (R358). -/
def Dev.queueCap (d : Dev) (q : Nat) : Nat := 2 ^ (min 11 (d.fld (baseQueue q) 3 0) + 4)
def Dev.queueBase (d : Dev) (q : Nat) : Nat := d.fld (baseQueue q + 4) 31 12 * 4096 + d.fld (baseQueue q + 8) 15 0 * 2 ^ 32

/-- n bytes of free values (log entry 1). -/
def Dev.freeBytes (d : Dev) (n : Nat) : Dev × List Byte :=
  ({ d with freeCtr := d.freeCtr + cdiv n 8 },
   (List.range n).map (fun i => BitVec.ofNat 8 ((Config.freeValue (d.freeCtr + i / 8)).toNat / 2 ^ (8 * (i % 8)))))

/-- Why an ENQUEUE fails (R361): the offset of the counter. -/
def Dev.enqueueFails (d : Dev) (t : Task) (q : Nat) : Option Nat :=
  let r := ((d.launchOf t.own).resv.find? (fun r => r.1 == q)).getD (q, 0, 0)
  if !d.queueOn q then some 0x6C
  else if 8 ≤ t.gen then some 0x70
  else if r.2.1 ≤ r.2.2 then some 0x6C
  else none

/-- An ENQUEUE succeeds (R361): the queue entry, whose format is internal, is written, and the task is ready. -/
def Dev.enqueueTask (c : Ctl) (d : Dev) (core : Nat) (t : Task) (q num va named : Nat) : Dev :=
  let f := c.facetOfCore core
  let (d, b) := d.freeBytes 64
  let u := d.queue q
  let d := Dev.paPut c d (whoCore core 0 f) (d.queueBase q + 64 * (u.tail % d.queueCap q)) b
  let d := (d.setQueue q { u with occupancy := u.occupancy + 1, tail := u.tail + 1 }).count (baseSQ core + 0x68) 1
  let d := d.updOwnCmd t.own (fun k => { k with launch := k.launch.map (fun l => { l with
    live := l.live + 1
    nextTask := max l.nextTask (num + 1)
    resv := l.resv.map (fun r => if r.1 = q then (r.1, r.2.1, r.2.2 + 1) else r) }) })
  let n : Task := {
    own := { t.own with task := some num }, as := t.as, level := t.level, gen := t.gen + 1, pc := va, c := t.c, queue := some q,
    named := named, parent := t.own.task.getD (2 ^ 32 - 1) }
  { d with ready := d.ready ++ [{ task := n, facet := f }] }

/-- An ENQUEUE fails (R361). -/
def Dev.enqueueFailed (d : Dev) (core : Nat) (t : Task) (off : Nat) : Dev :=
  ((d.count (baseSQ core + off) 1).raise (baseSQ core) 2 (baseSQ core + 0x48)).mark t.own 2

/-- ENQUEUE (R361); its outcome is forced in replay (R469). -/
def execEnqueue (core : Fin 128) (s : State) : Host.Outcome State Fault Refusal :=
  onDev s fun c d => ctlOp c d core 0xC [(1, 2, 0), (2, 7, 0), (3, 7, 0), (8, 51, 0)] fun d t op =>
    let p := opf op 1 2 0
    let q := opb op 2
    let named := opb op 3
    let va := opf op 8 51 0
    if va % 32 ≠ 0 then d.badField c core t op 3
    else if c.queueFacet q ≠ c.coreFacet core || (named ≠ 0xFF && c.coreFacet named ≠ c.coreFacet core) then d.badField c core t op 5
    else
      let body := fun (ok : Bool) (num : Nat) =>
        toLe 8 t.pc ++ toLe 1 q ++ toLe 1 named ++ toLe 1 (if ok then 1 else 0) ++ zeros 1 ++ toLe 4 num ++ toLe 8 va ++ zeros 8
      let fin := fun (d : Dev) (ok : Bool) => (d.setPred core p ok).ctlDone core t (t.pc + 32)
      if d.forced c t.own.ch 6 then
        match d.nextDecision c t.own with
        | (d, none) => d.divergeTask c core t none
        | (d, some r) =>
          if r.type ≠ 6 || le r.body 0 8 ≠ t.pc then d.divergeTask c core t (some r)
          else
            let d := d.tookDecision c t.own r.trip
            if byteAt r.body 10 = 1 then fin (d.enqueueTask c core t q (le r.body 12 4) (le r.body 16 8) (byteAt r.body 9)) true
            else fin (d.enqueueFailed core t ((d.enqueueFails t q).getD 0x6C)) false
      else match d.enqueueFails t q with
        | some off => fin ((d.enqueueFailed core t off).tripFor c t.own 6 0 core 0 (body false 0)) false
        | none =>
          let num := (d.launchOf t.own).nextTask
          fin ((d.enqueueTask c core t q num va named).tripFor c t.own 6 0 core 0 (body true num)) true

/-! ### Landing ring and save area -/

/-- RELAY_RING (R359). -/
def execRelayRing (core : Fin 128) (s : State) : Host.Outcome State Fault Refusal :=
  onDev s fun c d => ctlOp c d core 0xD [(1, 0, 0), (4, 31, 0)] fun d t op =>
    let k := d.core core
    let n := opn op 4 4
    if opt op 1 0 then (d.setCore core { k with readPos := k.freed }).ctlDone core t (t.pc + 32)
    else if k.readPos < k.freed + n then d.badField c core t op 3
    else
      let full := d.relayFull core
      let d := (d.setCore core { k with freed := k.freed + n }).ctlDone core t (t.pc + 32)
      if full && !d.relayFull core then d.countFree (baseSQ core + 0x7C) else d

/-- A write of SQ_RELAY (R359): dropped while bytes are not freed or a transfer is landing. -/
def sqRelayWrite (c : Ctl) (d : Dev) (fn core val : Nat) : Dev :=
  hostWrite c d fn (baseSQ core + 0x30) 4 fun d =>
    let k := d.core core
    if k.arrived ≠ k.freed || !k.landing.isEmpty then dropWrite d 4 fn (baseSQ core + 0x30) else writeFields d (baseSQ core + 0x30) val

/-- SQ_RELAY_WRITE (R359). -/
def execSqRelayWrite (fn : Fin 16) (core : Fin 128) (val : Word) (s : State) : Host.Outcome State Fault Refusal :=
  onDev s fun c d => sqRelayWrite c d fn core val.toNat

/-- A write of SQ_SAVE (R379): dropped while a task is saved, or where the enabled area would leave Core Store. -/
def sqSaveWrite (c : Ctl) (d : Dev) (fn core val : Nat) : Dev :=
  hostWrite c d fn (baseSQ core + 0x80) 4 fun d =>
    if !(d.core core).saved.isEmpty then dropWrite d 4 fn (baseSQ core + 0x80)
    else if bit val 31 && 1536 < bits val 10 0 + 99 then dropWrite d 1 fn (baseSQ core + 0x80)
    else writeFields d (baseSQ core + 0x80) val

/-- SQ_SAVE_WRITE (R379). -/
def execSqSaveWrite (fn : Fin 16) (core : Fin 128) (val : Word) (s : State) : Host.Outcome State Fault Refusal :=
  onDev s fun c d => sqSaveWrite c d fn core val.toNat

/-! ### The end of a task -/

/-- The running task of a core is gone with a status; the core is idle. -/
def Dev.endTask (d : Dev) (core : Nat) (t : Task) (status : Nat) : Dev :=
  let d := (d.taskGone t status).count (baseSQ core + 0x60) 1
  let d := d.updSeq core (fun q => { q with
    task := none, buf := [], wait := .none, stopping := false, deferred := q.deferred.filter (fun x => x.own ≠ t.own) })
  let d := d.updCore core (fun k => { k with me := { k.me with reload := none } })
  let d := { d with ready := d.ready.map (fun (r : Ready) => if r.asked && r.core == core then { r with asked := false, core := 0xFF } else r) }
  d.abortCheck t.own.ch

/-- The tasks that a core runs or holds saved. -/
def Dev.tasksOn (d : Dev) (n : Nat) : List Owner := ((d.seq n).task.toList ++ (d.core n).saved.map (·.task)).map (·.own)

/-- A task of core n that state d has is gone in state d'. -/
def Dev.endedOn (d d' : Dev) (n : Nat) : Bool := (d.tasksOn n).any (fun o => !(d'.tasksOn n).contains o)

/-- A core reaches a batch-step boundary: a pending bin takes effect and its clock relocks (R375, R448). -/
def boundary (c : Ctl) (d : Dev) (core : Nat) : Ctl :=
  if !(d.core core).saved.isEmpty || ((d.seq core).task.isSome || c.load.isSome) then c
  else { c with margins := modNth (fun m => match m.pending with
    | some b => { m with fBin := b, pending := none, relock := true }
    | none => m) (c.phys core) c.margins }

/-- The margin overlay in flash after a bin has been applied (R450). -/
def Ctl.persistBin (c c' : Ctl) (core : Nat) : Ctl :=
  let p := c.phys core
  let m := nth {} c'.margins p
  if (nth {} c.margins p).fBin = m.fBin then c'
  else { c' with flash := { c'.flash with overlay := Sparse.set {} c'.flash.overlay p { vOff := m.vOff, vCeil := m.vCeil, fBin := m.fBin } } }

/-- AG_STATUS.bin is set when a bin took effect (R453). -/
def Dev.binEvent (d : Dev) (c c' : Ctl) (core : Nat) : Dev :=
  if (nth {} c.margins (c.phys core)).fBin = (nth {} c'.margins (c.phys core)).fBin then d else d.raise baseAG 2 (baseAG + 0x18)

/-- The batch-step boundaries that the end of tasks between two states makes (R375): of every core on which a task has ended and that then holds none
(a core that still runs one is at no boundary, log entry 129). -/
def boundaries (c : Ctl) (d d' : Dev) : Ctl × Dev :=
  ((d.cores.map (·.1)).filter (d.endedOn d')).foldl (fun x n =>
    (x.1.persistBin (boundary x.1 x.2 n) n, x.2.binEvent x.1 (boundary x.1 x.2 n) n)) (c, d')

/-- A command that may end tasks: its effect f, and the batch-step boundaries that it makes. -/
def onTasks (s : State) (f : Ctl → Dev → Dev) : Host.Outcome State Fault Refusal :=
  onAll s fun c d => boundaries c d (f c d)

/-- An ending task may end (R352, R354): its issued ops have completed, its deferred SIGNALs have acted and the sequencer waits on no fault; a task that an
abort found in WAIT waits only until no requester of its core waits on a fault entry. -/
def Dev.mayEnd (d : Dev) (core : Nat) (t : Task) : Bool :=
  let q := d.seq core
  match q.wait with
  | .sync _ _ _ => !d.coreFaults core
  | _ => !(q.outst.any (fun x => x.own = t.own) || (q.deferred.any (fun x => x.own = t.own) || d.faultWaits (4 * core)))

/-- TASK_END (R352, R375, R448). -/
def execTaskEnd (core : Fin 128) (s : State) : Host.Outcome State Fault Refusal :=
  onTasks s fun _ d =>
    match (d.seq core).task with
    | none => d
    | some t => if !t.ending || !d.mayEnd core t then d else (d.mergeClose core t.own).endTask core t t.status

end Sys2Proof.Machine
end

