-- ==== Sys2Proof/Machine/Channels.lean ====
section
/-! DEFINITION. Submission channels (Commands, Task Programs and Sync Objects): configuration, doorbells, slot reading, the checks of a
command, completion records and the fallback ring, aborts. -/

namespace Sys2Proof.Machine

/-! ### Channel registers (Table 12.13) -/

def Dev.chOn (d : Dev) (ch : Nat) : Bool := d.flag (baseCh ch) 31
/-- Slots of the ring, records of the completion ring (R333). -/
def Dev.ringSlots (d : Dev) (ch : Nat) : Nat := 2 ^ (min 11 (d.fld (baseCh ch) 29 26) + 5)
def Dev.cmplSlots (d : Dev) (ch : Nat) : Nat := 2 ^ (min 11 (d.fld (baseCh ch) 25 22) + 5)
def Dev.chLevel (d : Dev) (ch : Nat) : Nat := d.fld (baseCh ch) 21 20
def Dev.chAs (d : Dev) (ch : Nat) : Nat := d.fld (baseCh ch) 19 10
def Dev.chClient (d : Dev) (ch : Nat) : Nat := d.fld (baseCh ch) 9 0
def Dev.ringPa (d : Dev) (ch : Nat) : Nat := d.fld (baseCh ch + 4) 31 6 * 64 + d.fld (baseCh ch + 8) 15 0 * 2 ^ 32
def Dev.cmplPa (d : Dev) (ch : Nat) : Nat := d.fld (baseCh ch + 0xC) 31 5 * 32 + d.fld (baseCh ch + 0x10) 15 0 * 2 ^ 32
/-- FE_CH_CMPL_CONS. -/
def Dev.cmplCons (d : Dev) (ch : Nat) : Nat := d.reg (baseCh ch + 0x2C)

/-- The generation of slot or record index i of a ring of n (R336, R367). -/
def genOf (i n : Nat) : Nat := i / n % 65535 + 1

/-- Commands of a channel that have started and not completed (R341); a LAUNCH starts at its LAUNCH_START. -/
def Channel.outstanding (h : Channel) : Nat :=
  (h.cmds.filter (fun k => k.phase = .running || (k.phase = .started && byteAt k.raw 2 ≠ 1))).length

/-- The completion ring is full (R367). -/
def Dev.cmplFull (d : Dev) (ch : Nat) : Bool := w32 ((d.chan ch).cmplProd + 2 ^ 32 - d.cmplCons ch) = d.cmplSlots ch

/-! ### Configuration -/

/-- [pa, pa + n) lies in the facet's valid HBM, or in an enabled host window of the facet (R333). -/
def Dev.ringPlaced (c : Ctl) (d : Dev) (f pa n : Nat) : Bool :=
  pa % 64 = 0 &&
  (c.inHbm f pa n ||
   (2 ^ 46 ≤ pa && (pa + n ≤ 2 ^ 47 && ((pa - 2 ^ 46) / 2 ^ 36 = (pa + n - 1 - 2 ^ 46) / 2 ^ 36 &&
    (let b := baseTR + 0x20000 + 0x10 * ((pa - 2 ^ 46) / 2 ^ 36 % 1024)
     d.flag b 31 && (d.fld b 19 16 = f && (pa % 2 ^ 36 + n ≤ d.fld (b + 0xC) 20 0 * 65536)))))))

/-- Why an enable is dropped (R333): the kind of the violation. -/
def Dev.enableRefused (c : Ctl) (d : Dev) (ch : Nat) : Option Nat :=
  match c.chFacet ch with
  | none => some 5
  | some f =>
    if !d.ringPlaced c f (d.ringPa ch) (64 * d.ringSlots ch) || !d.ringPlaced c f (d.cmplPa ch) (32 * d.cmplSlots ch) then some 1
    else if c.asFacet (d.chAs ch) ≠ some f || c.clientFacet (d.chClient ch) ≠ some f then some 5
    else none

/-- A channel is enabled: its counts start at 0 (R333); commands that an earlier enable had consumed and not started are gone. -/
def Dev.enableCh (d : Dev) (ch : Nat) : Dev :=
  let waiting := (d.chan ch).cmds.filter (fun k => k.phase ≠ .done && byteAt k.raw 2 = 1)
  let d := waiting.foldl (fun d k => d.updClient k.client (fun x => { x with outstanding := x.outstanding - 1 })) d
  (d.updChan ch (fun h => { h with
    await := false, prod := 0, cons := 0, rereads := 0, retrying := false, slots := [], cmds := [], fin := [], record := none, readback := false
    cmplProd := 0 })).setReg (baseCh ch + 0x2C) 0

/-- A write of FE_CH_CFG and the ring addresses, offsets 0x00 to 0x10 (R333, R369, R371). -/
def feChCfgWrite (c : Ctl) (d : Dev) (fn ch word val : Nat) : Dev :=
  let off := baseCh ch + 4 * word
  hostWrite c d fn off 4 fun d =>
    let h := d.chan ch
    let countsZero := fun (d : Dev) => if word = 3 then (d.updChan ch (fun h => { h with cmplProd := 0 })).setReg (baseCh ch + 0x2C) 0 else d
    if d.chOn ch then
      if word = 0 && !bit val 31 then
        if h.outstanding = 0 && h.cons = h.prod then writeFields d off val else dropWrite d 4 fn off
      else if h.held && word = 0 then d.setFld off 25 22 (bits val 25 22)
      else if h.held && (word = 3 || word = 4) then countsZero (writeFields d off val)
      else dropWrite d 4 fn off
    else
      let d' := countsZero (writeFields d off val)
      if word = 0 && bit val 31 then
        match d'.enableRefused c ch with
        | some kind => dropWrite d kind fn off
        | none => d'.enableCh ch
      else d'

/-- FE_CH_CFG_WRITE (R333). -/
def execFeChCfgWrite (fn : Fin 16) (ch : Fin 4096) (word : Fin 5) (val : Word) (s : State) : Host.Outcome State Fault Refusal :=
  onDev s fun c d => feChCfgWrite c d fn ch word val.toNat

/-! ### Doorbells -/

/-- The producer index that a doorbell names (R339). -/
def doorbellIndex (cons slots p g : Nat) : Option Nat :=
  let p0 := cons + (p + 65536 - cons % 65536) % 65536
  [p0, p0 + 65536].find? (fun x => 1 ≤ x && (x ≤ cons + slots && genOf (x - 1) slots = g))

/-- A doorbell accepted: the producer count rises, AWAIT ends (R339, R340). -/
def Dev.ring' (d : Dev) (ch p : Nat) : Dev :=
  d.updChan ch (fun h => { h with prod := max h.prod p, await := false, rereads := if h.await then 0 else h.rereads })

/-- DOORBELL (R339, R468). -/
def execDoorbell (fn : Fin 16) (ch : Fin 4096) (val : Word) (s : State) : Host.Outcome State Fault Refusal :=
  onDev s fun c d => hostWrite c d fn (baseCh ch + 0x14) 4 fun d =>
    let h := d.chan ch
    let g := bits val.toNat 31 16
    let p := bits val.toNat 15 0
    if !d.chOn ch then dropWrite d 5 fn (baseCh ch + 0x14)
    else if ((c.chFacet ch).map (fun f => (d.replayOf f).state == 1)).getD false then dropWrite d 4 fn (baseCh ch + 0x14)
    else match doorbellIndex h.cons (d.ringSlots ch) p g with
      | none => dropWrite (d.raise (baseCh ch + 0x18) 4 (baseCh ch + 0x4C)) 5 fn (baseCh ch + 0x14)
      | some x =>
        let d := d.ring' ch x
        (d.trip c ch 2 0 {} (toLe 2 g ++ toLe 2 p ++ zeros 4 ++ toLe 8 (d.chan ch).prod)).1

/-! ### The checks of a command (R342, Table 12.3) -/

/-- The bytes [o, o + n) of a slot are zero for each listed range. -/
def zeroAt (b : List Byte) (l : List (Nat × Nat)) : Bool := l.all (fun x => le b x.1 x.2 == 0)

/-- A field of the first slot is out of range or reserved. -/
def badFields (b : List Byte) : Bool :=
  let o := byteAt b 2
  let n := le b 4 2
  if 16 ≤ byteAt b 3 || le b 6 2 ≠ 0 then true
  else if o = 1 then !zeroAt b [(0x11, 3), (0x30, 16)] || 1024 < n
  else if o = 2 then !zeroAt b [(0x12, 2), (0x28, 24)] || (1024 < n || (3 ≤ byteAt b 0x11 || (0 < n && !zeroAt b [(0x14, 4), (0x18, 8)])))
  else if o = 7 then !zeroAt b [(0x12, 2), (0x20, 32)] || (1024 < n || (2 ≤ byteAt b 0x11 || (le b 0x18 8 % 64 ≠ 0 || 2 ^ 48 ≤ le b 0x18 8)))
  else if n ≠ 0 then true
  else if o = 3 then !zeroAt b [(0x11, 1), (0x14, 4), (0x20, 32)] || (le b 0x12 2 = 0 || (le b 0x18 8 % 32 ≠ 0 || 2 ^ 52 ≤ le b 0x18 8))
  else if o = 4 then !zeroAt b [(0x11, 3), (0x20, 32)] || (4 ≤ byteAt b 0x10 || 2 ^ 17 ≤ le b 0x14 4)
  else if o = 5 then
    let kind := byteAt b 0x10
    let va := le b 0x18 8
    let pages := le b 0x20 4
    !zeroAt b [(0x11, 1), (0x14, 4), (0x28, 24)] || (3 ≤ kind || (1024 ≤ le b 0x12 2 || ((kind = 2 && le b 0x12 2 ≠ 0) ||
      ((if kind = 0 then va % 65536 ≠ 0 || (2 ^ 52 ≤ va || pages = 0) else va ≠ 0 || pages ≠ 0) || bits (le b 0x24 4) 30 17 ≠ 0))))
  else if o = 6 then !zeroAt b [(0x11, 7), (0x20, 32)] || (le b 0x18 8 % 64 ≠ 0 || 2 ^ 48 ≤ le b 0x18 8)
  else if o = 8 then !zeroAt b [(0x11, 47)]
  else if o = 9 then !zeroAt b [(0x10, 48)]
  else true

/-- The violation of a refused command: its slot's physical address (R342). -/
def commandViolation (ch f kind code pa : Nat) : Violation :=
  { kind := kind, block := 0x0C, code := code, reqKind := 2, addrKind := 2, facet := f, requester := ch, address := pa }

/-- What R342 says of a command's first slot: the violation of its refusal. -/
def commandFault (c : Ctl) (ch f pa : Nat) (b : List Byte) : Option Violation :=
  let o := byteAt b 2
  let sync := fun (s : Nat) => if c.syncFacet s = some f then none
    else some { commandViolation ch f 5 1 pa with addrKind := 0, address := syncOff s }
  if badFields b then some (commandViolation ch f 3 1 pa)
  else if (o = 2 || o = 3) && (byteAt b 0x10 ≠ 0xFF && c.coreFacet (byteAt b 0x10) ≠ some f) then some (commandViolation ch f 5 1 pa)
  else if o = 4 then sync (le b 0x14 4)
  else if o = 5 then
    if byteAt b 0x10 ≠ 2 && c.asFacet (le b 0x12 2) ≠ some f then some (commandViolation ch f 5 1 pa)
    else if bit (le b 0x24 4) 31 then sync (le b 0x24 4 % 2 ^ 17) else none
  else none

/-! ### Slot reading -/

/-- A command whose slots have been read is accepted; the consumer count passes them (R340). -/
def Dev.acceptCmd (d : Dev) (ch : Nat) (slots : List (List Byte)) (pa : Nat) (bad : Option Violation) : Dev :=
  let h := d.chan ch
  let raw := slots.flatten
  let b := le raw 4 2
  let k : Cmd := {
    seq := h.cons, slots := slots.length, pa := pa, raw := raw, inlined := if bad.isSome then [] else ((slots.drop 1).flatMap (fun s => slice s 4 60)).take b
    bad := bad, client := d.chClient ch }
  let d := d.setChan ch { h with cmds := h.cmds ++ [k], slots := [], cons := h.cons + slots.length, rereads := 0, retrying := false }
  if byteAt raw 2 = 1 then d.updClient (d.chClient ch) (fun x => { x with outstanding := x.outstanding + 1 }) else d

/-- The physical address of slot index i. -/
def Dev.slotPa (d : Dev) (ch i : Nat) : Nat := d.ringPa ch + 64 * (i % d.ringSlots ch)

/-- A slot read and current joins its command; the first slot's faults, a continuation slot's faults or the last slot end the command's
reading (R337, R340, R342). -/
def Dev.takeSlot (c : Ctl) (d : Dev) (ch : Nat) (b : List Byte) : Dev :=
  let h := d.chan ch
  let f := (c.chFacet ch).getD 0
  let pa := d.slotPa ch (h.cons + h.slots.length)
  match h.slots with
  | [] =>
    match commandFault c ch f pa b with
    | some v => d.acceptCmd ch [b] pa (some v)
    | none => if le b 4 2 = 0 then d.acceptCmd ch [b] pa none else d.setChan ch { h with slots := [b], rereads := 0, retrying := false }
  | first :: _ =>
    let slots := h.slots ++ [b]
    if byteAt b 2 ≠ 0xF || byteAt b 3 ≠ 0 then d.acceptCmd ch slots pa (some (commandViolation ch f 3 1 pa))
    else if slots.length = 1 + cdiv (le first 4 2) 60 then d.acceptCmd ch slots (d.slotPa ch h.cons) none
    else d.setChan ch { h with slots := slots, rereads := 0, retrying := false }

/-- The 64 B of a slot as read, with poison; none where the ring's host window refuses the read or the host does not answer (R333, R429). -/
def Dev.readSlot (c : Ctl) (d : Dev) (ch pa : Nat) (host : HostData) : Dev × Option (List Byte × Bool) :=
  let w := whoChan ch ((c.chFacet ch).getD 0)
  if pa < 2 ^ 46 then
    let (d, b, p) := Dev.paBytes c d w pa 64
    (d, some (b, p))
  else match d.hostCheck w.facet pa false with
    | .inr k => (d.violate (windowViolation w k pa), none)
    | .inl _ =>
      if !d.attached then (d.count (baseHL + 0x40) 1, none)
      else match host with
        | .data b ep => (d, some (padTo 64 b, ep))
        | .failed => (d, none)

/-- The front end may read a slot of a channel. -/
def Dev.mayRead (d : Dev) (ch : Nat) : Bool :=
  let h := d.chan ch
  d.chOn ch && (!h.await && h.cons + h.slots.length < h.prod)

/-- One read of the next slot (R340): re-reads are counted; the 16th failed one parks the channel. -/
def Dev.slotTry (c : Ctl) (d : Dev) (ch : Nat) (host : HostData) (again : Bool) : Dev :=
  let h := d.chan ch
  let i := h.cons + h.slots.length
  let (d, r) := d.readSlot c ch (d.slotPa ch i) host
  let d := if again then (d.count (baseCh ch + 0x50) 1).updChan ch (fun h => { h with rereads := h.rereads + 1 }) else d
  let good := match r with
    | some (b, p) => !p && le b 0 2 = genOf i (d.ringSlots ch)
    | none => false
  if good then d.takeSlot c ch ((r.map (·.1)).getD [])
  else if 16 ≤ (d.chan ch).rereads then
    (d.updChan ch (fun h => { h with await := true, retrying := false, rereads := 0 })).raise (baseCh ch + 0x18) 1 (baseCh ch + 0x40)
  else d.updChan ch (fun h => { h with retrying := true })

/-- A launch of a facet, started or still to start, has not ended. -/
def Dev.launchesLeft (c : Ctl) (d : Dev) (f : Nat) : Bool :=
  d.chans.any (fun e => c.chFacet e.1 == some f && e.2.cmds.any (fun k => byteAt k.raw 2 = 1 && k.phase ≠ .done))

/-- In replay, the next record of the facet's rings takes effect when it belongs to this channel (R468, R470). -/
def Dev.replayStep (c : Ctl) (d : Dev) (f ch : Nat) : Dev :=
  if (d.replayOf f).stopping then d.replayEnd f 5
  else match d.replayHead c f with
    | (d, none) => if d.launchesLeft c f then d else d.replayEnd f 2
    | (d, some (n, r)) =>
      if n ≠ ch then d
      else
        let d := d.replayTook f ch r
        if r.type = 1 then
          let slots := (List.range (r.body.length / 64)).map (fun i => slice r.body (64 * i) 64)
          let used := if le r.body 4 2 = 0 || badFields (slice r.body 0 64) then 1 else min slots.length (1 + cdiv (le r.body 4 2) 60)
          let d := d.updChan ch (fun h => { h with cons := r.launch, slots := [] })
          (slots.take used).foldl (fun d b => d.takeSlot c ch b) d
        else if r.type = 2 then d.ring' ch (le r.body 8 8)
        else d.diverge f ch r.trip 4

/-- SLOT_READ (R340, R468). -/
def execSlotRead (ch : Fin 4096) (host : HostData) (s : State) : Host.Outcome State Fault Refusal :=
  onDev s fun c d =>
    match c.chFacet ch with
    | none => d
    | some f =>
      if (d.replayOf f).state = 1 then d.replayStep c f ch
      else if d.mayRead ch && !(d.chan ch).retrying then d.slotTry c ch host false else d

/-- SLOT_REREAD (R340). -/
def execSlotReread (ch : Fin 4096) (host : HostData) (s : State) : Host.Outcome State Fault Refusal :=
  onDev s fun c d => if d.mayRead ch && (d.chan ch).retrying then d.slotTry c ch host true else d

/-! ### Completion records -/

/-- The 32 B completion record of a command (Table 12.10). -/
def Cmd.record (k : Cmd) (gen : Nat) (fenceDone : Bool) : List Byte :=
  slice k.raw 8 8 ++ toLe 4 k.seq ++ toLe 2 gen ++ toLe 2 k.status ++
  toLe 1 (setBit k.cflags 1 fenceDone) ++ toLe 1 k.errEngine ++ toLe 1 k.errCode ++ zeros 1 ++ toLe 4 k.tasks ++ toLe 8 k.special

/-- The fallback ring of a facet (Table 12.14): register base, address, records. -/
def baseFb (f : Nat) : Nat := baseFE + 0x104000 + 0x40 * f
def Dev.fbPa (d : Dev) (f : Nat) : Nat := d.fld (baseFb f) 31 12 * 4096 + d.fld (baseFb f + 4) 15 0 * 2 ^ 32
def Dev.fbSlots (d : Dev) (f : Nat) : Nat := 2 ^ (min 10 (d.fld (baseFb f + 8) 3 0) + 6)
/-- The fallback ring takes a record (R368). -/
def Dev.fbRoom (d : Dev) (f : Nat) : Bool :=
  d.fbPa f ≠ 0 && w32 (d.reg (baseFb f + 0xC) + 2 ^ 32 - d.reg (baseFb f + 0x10)) < d.fbSlots f

/-- The record has been written; the interrupt that it asks for is raised (R367). -/
def Dev.recordOut (d : Dev) (ch : Nat) (r : CmplRec) : Dev :=
  let d := d.updChan ch (fun h => { h with record := none, readback := false })
  if r.irq then d.irq ch else d

/-- A record goes to the facet's fallback ring, or waits for room there (R368, Table 12.12). -/
def Dev.toFallback (c : Ctl) (d : Dev) (ch : Nat) (r : CmplRec) : Dev :=
  let f := (c.chFacet ch).getD 0
  if !d.fbRoom f then d.updChan ch (fun h => { h with record := some r, readback := false })
  else
    let b := r.bytes ++ toLe 2 ch ++ zeros 6 ++ toLe 8 r.failedPa ++ zeros 16
    let d := Dev.paPut c d (whoChan ch f) (d.fbPa f + 64 * (d.reg (baseFb f + 0xC) % d.fbSlots f)) b
    let d := ((d.count (baseFb f + 0xC) 1).raise (baseFE + 0x100000) 0 (baseFE + 0x100004)).count (baseCh ch + 0x30) 1
    (d.irq (4096 + f)).recordOut ch r

/-- A completion write to a host window has failed (R368): the channel is held, the record goes to the fallback ring. -/
def Dev.recordFailed (c : Ctl) (d : Dev) (ch : Nat) (r : CmplRec) (pa : Nat) : Dev :=
  let d := (d.updChan ch (fun h => { h with held := true })).raise (baseCh ch + 0x18) 2 (baseCh ch + 0x44)
  let d := d.raise baseHL 2 (baseHL + 0x28)
  (d.irq (4096 + (c.chFacet ch).getD 0)).toFallback c ch { r with failedPa := pa }

/-- The address of the next completion record (R367). -/
def Dev.recordPa (d : Dev) (ch : Nat) : Nat := d.cmplPa ch + 32 * ((d.chan ch).cmplProd % d.cmplSlots ch)

/-- A record for the completion ring, with the generation of the place where it goes (R367): one that waited keeps its other bytes. -/
def Dev.stamped (d : Dev) (ch : Nat) (r : CmplRec) : CmplRec :=
  { r with bytes := overlay r.bytes 12 (toLe 2 (genOf (d.chan ch).cmplProd (d.cmplSlots ch))) }

/-- The channel's record is written (R367, R368, R423, R424): to HBM at once, to a host window as a posted write with its read-back. -/
def Dev.writeRecord (c : Ctl) (d : Dev) (ch : Nat) (r : CmplRec) : Dev :=
  let h := d.chan ch
  let w := whoChan ch ((c.chFacet ch).getD 0)
  let pa := d.recordPa ch
  if h.held || r.failedPa ≠ 0 then d.toFallback c ch r
  else if d.cmplFull ch then d.updChan ch (fun h => { h with record := some r })
  else
    let r := d.stamped ch r
    if pa < 2 ^ 46 then
      ((Dev.paPut c d w pa r.bytes).updChan ch (fun h => { h with cmplProd := h.cmplProd + 1 })).recordOut ch r
    else match d.hostCheck w.facet pa true with
      | .inr k => (d.violate (windowViolation w k pa)).recordFailed c ch r pa
      | .inl a =>
        if !d.attached then (d.count (baseHL + 0x44) 1).recordFailed c ch r pa
        else
          let (d, id) := d.hostPost a r.bytes false false
          (d.emit (.hostRead id a 32)).updChan ch (fun h => { h with record := some r, readback := true })

/-- Writes of a command that leave the module are still unanswered (R426). -/
def Dev.writesOut (d : Dev) (ch seq : Nat) : Bool :=
  d.hl.ext.any (fun e => e.write && (match e.own with | some o => o.ch == ch && o.seq == seq | none => false))

/-- COMPLETION_RECORD_WRITE (R365, R366, R425, R426, R466): the record that waits, or that of the oldest completed command. -/
def execCompletionRecordWrite (ch : Fin 4096) (s : State) : Host.Outcome State Fault Refusal :=
  onDev s fun c d =>
    let h := d.chan ch
    match h.record, h.fin with
    | some r, _ => if h.readback then d else d.writeRecord c ch r
    | none, [] => d
    | none, seq :: rest =>
      match d.cmd? ch seq with
      | none => d.updChan ch (fun h => { h with fin := rest })
      | some k =>
        let fence := bit (byteAt k.raw 3) 2
        if fence && d.writesOut ch seq then d
        else
          let lost := d.hl.failed.contains (ch.val, seq)
          let b := k.record (genOf h.cmplProd (d.cmplSlots ch)) (fence && !lost)
          let d := { d with hl := { d.hl with failed := d.hl.failed.filter (fun x => x != (ch.val, seq)) } }
          let d := d.updChan ch (fun h => { h with fin := rest, cmds := h.cmds.filter (fun x => x.seq ≠ seq) })
          let d := if fence && lost then d.raise baseHL 3 (baseHL + 0x2C) else d
          let d := (d.trip c ch 0xB (if k.lostRec then 2 else 0) { launch := seq % 2 ^ 32 } b).1
          if bit (byteAt k.raw 3) 0 || k.status ≠ 0 then d.writeRecord c ch { bytes := b, irq := bit (byteAt k.raw 3) 3 } else d

/-- COMPLETION_READBACK_DONE (R424): success, or failure, which leaving ATTACHED is as well. -/
def execCompletionReadbackDone (ch : Fin 4096) (ok : Bool) (s : State) : Host.Outcome State Fault Refusal :=
  onDev s fun c d =>
    let h := d.chan ch
    match h.record with
    | none => d
    | some r =>
      if !h.readback then d
      else if ok && d.attached then (d.updChan ch (fun h => { h with cmplProd := h.cmplProd + 1 })).recordOut ch r
      else d.recordFailed c ch r (d.recordPa ch)

/-- RELEASE_HOLD (R369). -/
def execReleaseHold (fn : Fin 16) (ch : Fin 4096) (s : State) : Host.Outcome State Fault Refusal :=
  onDev s fun c d => hostWrite c d fn (baseCh ch + 0x1C) 4 fun d => d.updChan ch (fun h => { h with held := false })

/-! ### Abort -/

/-- A relay transfer is given up: nothing more of it lands beyond what has left its source. -/
def Dev.cancelRelay (d : Dev) (src id : Nat) : Dev :=
  { d with cores := d.cores.map (fun (e : Nat × Core) => (e.1, { e.2 with landing := e.2.landing.filterMap (fun x =>
      if x.src = src && x.id = id then
        (if e.1 = src || x.data.isEmpty then none else some { x with left := x.data.length / 64 })
      else some x) })) }

/-- A saved task ends with ABORTED; its withdrawn ops and stopped DMA op are discarded (R385). -/
def Dev.dropSaved (d : Dev) (core : Nat) (v : Saved) : Dev :=
  let ids := v.ops.map (·.2.id)
  let d := v.dma.foldl (fun d r => d.cancelRelay core r.id) d
  let d := d.updCore core (fun k => { k with
    saved := k.saved.filter (fun x => x != v)
    seq := { k.seq with outst := k.seq.outst.filter (fun x => !ids.contains x.id) } })
  (d.taskGone v.task 0xB).count (baseSQ core + 0x60) 1

/-- The running task of a core meets an abort (R354): in WAIT it ends at once, unless a requester of its core waits on a fault entry, which ends it
when the waiter is released. -/
def Dev.abortRunning (d : Dev) (core : Nat) (t : Task) : Dev :=
  let ending := fun (q : Seq) => { q with
    task := q.task.map (fun t => { t with ending := true, status := if t.status = 0 then 0xB else t.status }) }
  match (d.seq core).wait with
  | .sync _ _ _ => if d.coreFaults core then d.updSeq core ending else d.endTask core t 0xB
  | _ => d.updSeq core (fun q => { ending q with wait := .none })

/-- The tasks of a channel that are ready and not placed are discarded, and the root tasks that wait for an argument write (R354). -/
def Dev.abortReady (d : Dev) (ch : Nat) : Dev :=
  let mine := d.ready.filter (fun r => r.task.own.ch == ch)
  let d := { d with ready := d.ready.filter (fun r => r.task.own.ch != ch) }
  let d := mine.foldl (fun d r => d.taskGone r.task 0xB) d
  d.updChan ch (fun h => { h with cmds := h.cmds.map (fun k => if k.phase ≠ .running then k
    else { k with status := if k.status = 0 && (k.launch.map (fun l => !l.roots.isEmpty)).getD false then 0xB else k.status
                  launch := k.launch.map (fun l => { l with live := l.live - l.roots.length, roots := [] }) }) })

/-- The tasks of a channel on a core, running and saved, meet an abort (R354, R385). -/
def Dev.abortOn (ch : Nat) (d : Dev) (n : Nat) : Dev :=
  let d := ((d.core n).saved.filter (fun v => v.task.own.ch == ch)).foldl (fun d v => d.dropSaved n v) d
  match (d.seq n).task with
  | some t => if t.own.ch = ch then d.abortRunning n t else d
  | none => d

/-- An abort of a channel is written: the commands that have started are noted. -/
def Dev.abortNoted (d : Dev) (ch : Nat) : Dev :=
  d.updChan ch (fun h => { h with aborting := true, abortSeqs := (h.cmds.filter (fun k => k.phase == .running)).map (·.seq) })

/-- FE_CH_ABORT (R354, R385): every task of the channel's started commands. -/
def execFeChAbort (fn : Fin 16) (ch : Fin 4096) (s : State) : Host.Outcome State Fault Refusal :=
  onTasks s fun c d => hostWrite c d fn (baseCh ch + 0x1C) 4 fun d =>
    ((List.range 128).foldl (Dev.abortOn ch) ((d.abortNoted ch).abortReady ch)).abortCheck ch

end Sys2Proof.Machine
end

