-- ==== Sys2Proof/Machine/FrontEnd.lean ====
section
/-! DEFINITION. The front end's commands (Commands, Task Programs and Sync Objects, Table 12.3): their start in ring order, launches, copies,
sync operations, invalidations, graph operations; writes of the graph registries and of device queues. -/

namespace Sys2Proof.Machine

/-! ### Start -/

/-- The channel's completion record waits for room (R341, R367, R368): in the completion ring, or, while the channel is held or the record's own write has
failed, in the fallback ring. -/
def Dev.recordWaits (c : Ctl) (d : Dev) (ch : Nat) : Bool :=
  let h := d.chan ch
  (h.record.isSome || !h.fin.isEmpty) && (!h.readback &&
  (if h.held || h.record.any (fun r => r.failedPa ≠ 0) then !d.fbRoom ((c.chFacet ch).getD 0) else d.cmplFull ch))

/-- A SYNC wait that has started and not completed (R341). -/
def Cmd.syncWaits (k : Cmd) : Bool :=
  (k.phase = .started || k.phase = .running) && (byteAt k.raw 2 == 4 && 2 ≤ byteAt k.raw 0x10)

/-- The front end may start commands of a channel now, but for the serial bit (R341). -/
def Dev.startsOpen (c : Ctl) (d : Dev) (ch : Nat) : Bool :=
  let h := d.chan ch
  h.outstanding < 16 && (!d.recordWaits c ch && (!h.cmds.any Cmd.syncWaits && c.fstate ((c.chFacet ch).getD 0) = .running))

/-- The serial bit of a command holds it back (R341): an earlier command has not completed. -/
def Channel.serialHolds (h : Channel) (k : Cmd) : Bool :=
  bit (byteAt k.raw 3) 1 && h.cmds.any (fun x => x.seq < k.seq && x.phase ≠ .done)

/-- The next command that has not started. -/
def Channel.nextCmd (h : Channel) : Option Cmd := h.cmds.find? (fun k => k.phase == .accepted)

/-- A LAUNCH still waits to start. -/
def Channel.launchWaits (h : Channel) : Bool := h.cmds.any (fun k => k.phase = .started && byteAt k.raw 2 = 1)

/-- Replay of the channel's facet lets commands start (R470). -/
def Dev.replayLets (c : Ctl) (d : Dev) (ch : Nat) : Bool :=
  match c.chFacet ch with
  | some f => !((d.replayOf f).state = 3 || (d.replayOf f).state = 4) || d.tripMode ch ≠ 2
  | none => true

/-- COMMAND_START (R341, R342, R466). A refused command completes with BAD_COMMAND; a LAUNCH waits for its own conditions (R345). -/
def execCommandStart (ch : Fin 4096) (s : State) : Host.Outcome State Fault Refusal :=
  onDev s fun c d =>
    let h := d.chan ch
    match h.nextCmd with
    | none => d
    | some k =>
      if h.launchWaits || (!d.startsOpen c ch || (h.serialHolds k || !d.replayLets c ch)) then d
      else
        let d := d.tripFor c { ch := ch, seq := k.seq } 1 0 0xFF 0xFF k.raw
        match k.bad with
        | some v => ((d.violate v).count (baseCh ch + 0x54) 1).finishWith ch k.seq 1
        | none =>
          let d := d.updCmd ch k.seq (fun k => { k with phase := .started })
          if byteAt k.raw 2 = 1 then d else d.count (baseCh ch + 0x54) 1

/-- The started command of an opcode that has not been carried out yet. -/
def Channel.startedCmd (h : Channel) (o : Nat) : Option Cmd := h.cmds.find? (fun k => k.phase == .started && byteAt k.raw 2 == o)

/-- A command acts: k runs on the started command with opcode o. -/
def onCmd (ch o : Nat) (s : State) (f : Ctl → Dev → Cmd → Dev) : Host.Outcome State Fault Refusal :=
  onDev s fun c d => match (d.chan ch).startedCmd o with
    | none => d
    | some k => f c d k

/-- The command is under way. -/
def Dev.running (d : Dev) (ch seq : Nat) : Dev := d.updCmd ch seq (fun k => { k with phase := .running })

/-- NOP (R342). -/
def execNop (ch : Fin 4096) (s : State) : Host.Outcome State Fault Refusal := onCmd ch 9 s fun _ d k => d.finish ch k.seq

/-! ### SYNC and INVALIDATE -/

/-- SYNC (R362, R364). -/
def execSync (ch : Fin 4096) (s : State) : Host.Outcome State Fault Refusal :=
  onCmd ch 4 s fun _ d k =>
    let o := le k.raw 0x14 4 % 2 ^ 17
    let v := le k.raw 0x18 8
    let op := byteAt k.raw 0x10
    if op = 0 then (d.syncAdd o v).finish ch k.seq
    else if op = 1 then (d.syncSet o v).finish ch k.seq
    else if (d.syncObj o).poison then d.finishWith ch k.seq 8
    else if k.waitHolds (d.syncObj o).value then d.finish ch k.seq
    else d.running ch k.seq

/-- INVALIDATE (R319). -/
def execInvalidate (ch : Fin 4096) (s : State) : Host.Outcome State Fault Refusal :=
  onCmd ch 5 s fun c d k =>
    let f := (c.chFacet ch).getD 0
    if 16 ≤ d.xl.invs.length then
      ((d.raise baseTR 3 (baseTR + 0x1C)).violate (commandViolation ch f 4 0xC k.pa)).finishWith ch k.seq 0xC
    else
      let v : Inval := {
        kind := byteAt k.raw 0x10, as := le k.raw 0x12 2, va := le k.raw 0x18 8, pages := le k.raw 0x20 4, facet := f
        syncEn := bit (le k.raw 0x24 4) 31, sync := le k.raw 0x24 4 % 2 ^ 17, cmd := some { ch := ch, seq := k.seq } }
      ({ d.count (baseTR + 0x118) 1 with xl := { d.xl with invs := d.xl.invs ++ [v] } }).running ch k.seq

/-! ### COPY and BATCH -/

/-- The core of a COPY or BATCH: the named one, or the one that the dispatcher chose among those of the facet; it must be ready and have room
in its DMA queue. -/
def Dev.copyCore (c : Ctl) (d : Dev) (ch : Nat) (k : Cmd) (chosen : Nat) : Option Nat :=
  let n := if byteAt k.raw 0x10 = 0xFF then chosen else byteAt k.raw 0x10
  if c.coreFacet n = c.chFacet ch && (coreReady c d n && d.dmaRoom n) then some n else none

/-- COPY (R342, Table 12.3): its op enters the DMA queue. -/
def execCopy (ch : Fin 4096) (core : Fin 128) (s : State) : Host.Outcome State Fault Refusal :=
  onCmd ch 2 s fun c d k =>
    match d.copyCore c ch k core with
    | none => d
    | some n => ((d.enqueueOp n .dma (copyOp k) k.pa (d.chAs ch) { ch := ch, seq := k.seq }).updCmd ch k.seq (fun k => { k with core := n })).running ch k.seq

/-- The DMA ops among descriptors that a BATCH takes, in order, up to the first that is none (Table 12.8). -/
def batchOps (va : Nat) : List (List PByte) → List (Nat × Nat)
  | [] => []
  | b :: r =>
    let op := leNat (plain b)
    if anyPoison b || !(0x60 ≤ op % 256 && op % 256 ≤ 0x62) then [] else (va, op) :: batchOps (va + 32) r

/-- BATCH (R342, Table 12.3): descriptors are fetched through the core's sequencer and enter its DMA queue as it has room. A descriptor that is
no DMA op ends the command with OP_REFUSED, one read poisoned with FETCH_POISON, an aborted fetch with FAULT_ABORT. -/
def execBatch (ch : Fin 4096) (core : Fin 128) (s : State) : Host.Outcome State Fault Refusal :=
  onDev s fun c d =>
    match (d.chan ch).cmds.find? (fun k => (k.phase == .started || k.phase == .running) && byteAt k.raw 2 == 3) with
    | none => d
    | some k =>
      match (if k.core = 0xFF then d.copyCore c ch k core else if d.dmaRoom k.core then some k.core else none) with
      | none => d
      | some n =>
        let count := le k.raw 0x12 2
        let own : Owner := { ch := ch, seq := k.seq }
        if count ≤ k.next || k.status ≠ 0 then d
        else
          let room := 8 - (d.core n).dma.queue.length
          let take := min (min 64 room) (count - k.next)
          let va := le k.raw 0x18 8 + 32 * k.next
          let w := whoCore n 0 (c.facetOfCore n)
          match d.resolve c n 0 (d.chAs ch) va (32 * take) false with
          | (d, none) => d
          | (d, some ps) => match d.fetchPieces c w n 0 (d.chAs ch) none 0 ps with
            | (d, none) => d
            | (d, some b) =>
              let d := (d.doneOutside n 0).updCmd ch k.seq (fun k => { k with core := n, phase := .running })
              let ops := batchOps va ((List.range take).map (fun i => (b.drop (32 * i)).take 32))
              let d := ops.foldl (fun d x => d.enqueueOp n .dma x.2 x.1 (d.chAs ch) own) d
              let d := d.updCmd ch k.seq (fun k => { k with next := k.next + ops.length })
              if ops.length = take then d
              else
                let one := (b.drop (32 * ops.length)).take 32
                let d := if anyAborted ps then (d.mark own 3).updCmd ch k.seq (fun k => { k with status := 0xA })
                  else if anyPoison one then (d.mark own 0).updCmd ch k.seq (fun k => { k with status := 9 })
                  else (d.violate (opViolation c n 0 3 1 (va + 32 * ops.length) (d.chAs ch))).refusedFor n own 0 1
                d.cmdOpDone n own

/-! ### Graphs -/

/-- The graph commands' requester and registry: none when the address space has no registry (R343). -/
def withGraph (c : Ctl) (d : Dev) (ch : Nat) (k : Cmd) (f : Dev → Who → Nat → GraphEntry → Dev) : Dev :=
  let w := whoChan ch ((c.chFacet ch).getD 0)
  let as := d.chAs ch
  if d.greg as = 0 then d.finishWith ch k.seq 2
  else match d.graphEntry c w as (byteAt k.raw 0x10) with
    | (d, a, e, p) => if p then (d.mark { ch := ch, seq := k.seq } 0).finishWith ch k.seq 0xD else f d w a e

/-- GRAPH_POISON (R343, R344). -/
def Dev.graphPoison (d : Dev) (ch seq : Nat) : Dev := (d.mark { ch := ch, seq := seq } 0).finishWith ch seq 0xD

/-- GRAPH_STORE (R344, R347). -/
def execGraphStore (ch : Fin 4096) (s : State) : Host.Outcome State Fault Refusal :=
  onCmd ch 6 s fun c d k => withGraph c d ch k fun d w a e =>
    let pa := le k.raw 0x18 8
    match d.readImage c w pa with
    | (d, .bad) => d.finishWith ch k.seq 5
    | (d, .poison) => d.graphPoison ch k.seq
    | (d, .ok b) =>
      if !imageOk c w.facet b then d.finishWith ch k.seq 5
      else match e.store pa with
        | none => d.finishWith ch k.seq 3
        | some e => (d.putGraph c w a e).finish ch k.seq

/-- Packed patch records applied to bytes (R347): none where a record is cut short or leaves the image. n bounds the records. -/
def applyPatch : Nat → List Byte → List Byte → Option (List Byte)
  | 0, _, img => some img
  | n + 1, p, img =>
    if p.isEmpty then some img
    else
      let o := le p 0 4
      let len := le p 4 2
      if p.length < 6 + len || img.length < o + len then none else applyPatch n (p.drop (6 + len)) (overlay img o (slice p 6 len))

/-- GRAPH_PATCH (R347). -/
def execGraphPatch (ch : Fin 4096) (s : State) : Host.Outcome State Fault Refusal :=
  onCmd ch 7 s fun c d k => withGraph c d ch k fun d w a e =>
    let inPlace := bit (byteAt k.raw 0x11) 0
    let rcv := le k.raw 0x18 8
    match e.find (le k.raw 0x14 4) with
    | none => d.finishWith ch k.seq 2
    | some i =>
      let r := nth {} e.revs i
      if inPlace && r.live ≠ 0 then (d.violate (commandViolation ch w.facet 4 4 a)).finishWith ch k.seq 4
      else match d.readImage c w r.image with
        | (d, .bad) => d.finishWith ch k.seq 5
        | (d, .poison) => d.graphPoison ch k.seq
        | (d, .ok b) =>
          match applyPatch 1024 k.inlined b with
          | none => d.finishWith ch k.seq 5
          | some b =>
            let n := le b 8 4
            if !imageOk c w.facet b || (!inPlace && !c.inHbm w.facet rcv n) then d.finishWith ch k.seq 5
            else if inPlace then (Dev.paPut c d w r.image b).finish ch k.seq
            else match e.store rcv with
              | none => d.finishWith ch k.seq 3
              | some e => ((Dev.paPut c d w rcv (b.take n)).putGraph c w a e).finish ch k.seq

/-- GRAPH_RETIRE (R346). -/
def execGraphRetire (ch : Fin 4096) (s : State) : Host.Outcome State Fault Refusal :=
  onCmd ch 8 s fun c d k => withGraph c d ch k fun d w a e => (d.putGraph c w a { e with current := 0 }.sweep).finish ch k.seq

/-! ### Launches -/

/-- What the start conditions of a LAUNCH say (R343 to R345, R360). -/
inductive LaunchCheck where
  | fail (status : Nat) (v : Option Violation) (poison : Bool)
  | waitResv
  | waitCore
  | go (a : Nat) (e : GraphEntry) (i : Nat) (img : List Byte) (core : Option Nat)
  deriving DecidableEq, Repr

/-- The first reservation of an image that is at fault (R360): its status and violation. -/
def Dev.resvFault (c : Ctl) (d : Dev) (ch f : Nat) (pa : Nat) (b : List Byte) : Option (Option Violation) :=
  (List.range (min 16 (imgResv b))).findSome? (fun i =>
    let (q, n) := imgResvAt b i
    if c.queueFacet q ≠ some f then some (some (commandViolation ch f 5 6 (pa + 0x40 + 4 * i)))
    else if d.queueOn q && d.queueCap q < n then some none
    else none)

/-- Every reservation of an image can be granted now (R360). -/
def Dev.resvGrant (d : Dev) (b : List Byte) : Bool :=
  (List.range (min 16 (imgResv b))).all (fun i =>
    let (q, n) := imgResvAt b i
    d.queueOn q && (d.queue q).reserved + n ≤ d.queueCap q)

/-- The core that writes the inline bytes of a launch (R345): ready, with room in its DMA queue; none where there is no such core yet. An image that
software has overwritten may name a core of another facet: by R348 and R17 no other facet is affected, and the model takes it as no name (log entry 116). -/
def Dev.argsCore (c : Ctl) (d : Dev) (f : Nat) (b : List Byte) : Option Nat :=
  let named := byteAt b 0x88
  let ready := fun n => coreReady c d n && d.dmaRoom n
  if c.coreFacet named = some f then (if ready named then some named else none)
  else match (c.facetCores f).find? (coreReady c d) with
    | some n => if d.dmaRoom n then some n else none
    | none => none

/-- The checks of a LAUNCH. -/
def Dev.launchCheck (c : Ctl) (d : Dev) (ch : Nat) (k : Cmd) : Dev × LaunchCheck :=
  let f := (c.chFacet ch).getD 0
  let w := whoChan ch f
  let as := d.chAs ch
  if d.greg as = 0 then (d, .fail 2 none false)
  else
    let (d, a, e, p) := d.graphEntry c w as (byteAt k.raw 0x10)
    let rev := if le k.raw 0x14 4 = 0 then e.current else le k.raw 0x14 4
    if p then (d, .fail 0xD none true)
    else match e.find rev with
      | none => (d, .fail 2 none false)
      | some i =>
        let pa := (nth {} e.revs i).image
        match d.readImage c w pa with
        | (d, .bad) => (d, .fail 5 none false)
        | (d, .poison) => (d, .fail 0xD none true)
        | (d, .ok b) =>
          match d.resvFault c ch f pa b with
          | some v => (d, .fail 6 v false)
          | none =>
            if !d.resvGrant b then (d, .waitResv)
            else if k.inlined.isEmpty then (d, .go a e i b none)
            else match d.argsCore c f b with
              | none => (d, .waitCore)
              | some n => (d, .go a e i b (some n))

/-- LAUNCH (R345): a LAUNCH that can never start completes; one whose conditions hold is prepared for its start. -/
def execLaunch (ch : Fin 4096) (s : State) : Host.Outcome State Fault Refusal :=
  onCmd ch 1 s fun c d k =>
    match d.launchCheck c ch k with
    | (d, .fail st v poison) =>
      let d := d.markIf poison { ch := ch, seq := k.seq } 0
      let d := match v with
        | some v => d.violate v
        | none => d
      (d.count (baseCh ch + 0x54) 1).finishWith ch k.seq st
    | (d, .waitResv) =>
      if k.resvWaited then d else (d.count (baseCh ch + 0x60) 1).updCmd ch k.seq (fun k => { k with resvWaited := true })
    | (d, .waitCore) => d
    | (d, .go _ e i _ _) => d.updCmd ch k.seq (fun k => { k with launch := some {
        graph := byteAt k.raw 0x10, revision := (nth {} e.revs i).rev, imagePa := (nth {} e.revs i).image, level := d.chLevel ch, as := d.chAs ch } })

/-- LAUNCH_START (R345): at one instant the revision is pinned, the reservations are granted and the launch's epochs are those that are ACTIVE
now; the root tasks are ready, or wait for the argument write. -/
def execLaunchStart (ch : Fin 4096) (s : State) : Host.Outcome State Fault Refusal :=
  onCmd ch 1 s fun c d k =>
    if k.launch.isNone || (!d.startsOpen c ch || (d.chan ch).serialHolds k) then d
    else match d.launchCheck c ch k with
      | (d, .go a e i b core) =>
        let f := (c.chFacet ch).getD 0
        let r := nth {} e.revs i
        let d := Dev.paPut c d (whoChan ch f) (a + 0x14 + 16 * i) (toLe 4 (r.live + 1))
        let resv := (List.range (min 16 (imgResv b))).map (fun i => imgResvAt b i)
        let d := resv.foldl (fun d x => d.setQueue x.1 { d.queue x.1 with reserved := (d.queue x.1).reserved + x.2 }) d
        let args := (List.range 4).map (fun j => le k.raw (0x20 + 4 * j) 4)
        let roots := imageRoots b ch k.seq (d.chAs ch) (d.chLevel ch) f args
        let l : Launch := {
          graph := byteAt k.raw 0x10, revision := r.rev, imagePa := r.image, level := d.chLevel ch, as := d.chAs ch
          resv := resv.map (fun x => (x.1, x.2, 0)), live := roots.length, nextTask := roots.length
          roots := if core.isSome then roots else [], begun := true }
        let d := (d.count (baseCh ch + 0x54) 1).updCmd ch k.seq (fun k => { k with phase := .running, launch := some l })
        match core with
        | none => { d with ready := d.ready ++ roots }
        | some n => d.enqueueOp n .dma (argsOp k) k.pa (d.chAs ch) { ch := ch, seq := k.seq }
      | (d, _) => d.updCmd ch k.seq (fun k => { k with launch := none })

/-- LAUNCH_END (R346): the first launch of the channel whose tasks have all ended. -/
def execLaunchEnd (ch : Fin 4096) (s : State) : Host.Outcome State Fault Refusal :=
  onDev s fun c d =>
    match (d.chan ch).cmds.find? (fun k => k.phase == .running && (k.launch.map (fun l => l.begun && (l.live = 0 && l.roots.isEmpty))).getD false) with
    | none => d
    | some k =>
      let d := d.endLaunch c ch k.seq
      match c.chFacet ch with
      | some f => if (d.replayOf f).state = 1 && !d.launchesLeft c f then
          (match d.replayHead c f with
           | (d, none) => d.replayEnd f 2
           | (d, some _) => d) else d
      | none => d

/-! ### Registers of the front end -/

/-- Some revision record of a registry at base b is nonzero (R343). -/
def Dev.registryHeld (c : Ctl) (d : Dev) (as : Nat) : Dev × Bool :=
  if d.greg as = 0 then (d, false)
  else
    let (d, b, _) := Dev.paBytes c d (whoChan 0 ((c.asFacet as).getD 0)) (d.greg as) (256 * 64)
    (d, (List.range 256).any (fun g => (parseGraph (slice b (64 * g) 64)).revs.any (fun r => r != {})))

/-- A write of FE_GREG (R343). -/
def feGregWrite (c : Ctl) (d : Dev) (fn as : Nat) (high : Bool) (val : Nat) : Dev :=
  let off := baseGreg as + (if high then 4 else 0)
  hostWrite c d fn off 4 fun d =>
    match d.registryHeld c as with
    | (d, true) => dropWrite d 4 fn off
    | (d, false) =>
      let d' := writeFields d off val
      if d'.greg as ≠ 0 && !(match c.asFacet as with | some f => c.inHbm f (d'.greg as) (256 * 64) | none => false) then dropWrite d 1 fn off
      else d'

/-- FE_GREG_WRITE (R343). -/
def execFeGregWrite (fn : Fin 16) (asp : Fin 1024) (high : Bool) (val : Word) (s : State) : Host.Outcome State Fault Refusal :=
  onDev s fun c d => feGregWrite c d fn asp high val.toNat

/-- A write of a device queue's configuration (R358). -/
def queueCfgWrite (c : Ctl) (d : Dev) (fn q word val : Nat) : Dev :=
  let off := baseQueue q + 4 * word
  hostWrite c d fn off 4 fun d =>
    if d.queueOn q && !(word = 0 && (!bit val 31 && (d.queue q).reserved = 0)) then dropWrite d 4 fn off else writeFields d off val

/-- DEVICE_QUEUE_CONFIG_WRITE (R358). -/
def execDeviceQueueConfigWrite (fn : Fin 16) (q : Fin 256) (word : Fin 3) (val : Word) (s : State) : Host.Outcome State Fault Refusal :=
  onDev s fun c d => queueCfgWrite c d fn q word val.toNat

end Sys2Proof.Machine
end

