-- ==== Sys2Proof/Machine/Flags.lean ====
section
/-! DEFINITION. The arithmetic of the Vector Engine's stages on FP32 bit patterns (Vector Engine and Fused Chains, Tables 7.5 and 7.6):
comparisons, conversions and the lookup-table ops with their accuracy. -/

namespace Sys2Proof.Machine

/-- FP32 bits as a number, and back (R139). -/
def f32 (w : Nat) : Num := Fmt.fp32.decode w
def to32 (x : Num) : Nat := Fmt.fp32.narrowFloat x

/-- 1.0 and the infinities. -/
def one32 : Nat := 0x3F800000
def posInf32 : Nat := 0x7F800000
def negInf32 : Nat := 0xFF800000

/-- IEEE 754-2019 minimum (Table 7.5): NaN propagates, -0 lies below +0. -/
def Num.min2 (a b : Num) : Num :=
  match a, b with
  | .nan, _ => .nan
  | _, .nan => .nan
  | a, b => if a.lt b then a else if b.lt a then b else if a.neg then a else b

/-- IEEE 754-2019 maximum. -/
def Num.max2 (a b : Num) : Num := (a.negate.min2 b.negate).negate

/-- a rounded to an integral value, ties to even; the sign of a zero result is a's (Table 7.5, RINT). -/
def Num.rint (a : Num) : Num :=
  match a with
  | .fin n m e => .fin n (quantize m e 0) 0
  | x => x

/-- F2U (Table 7.5). -/
def Num.f2u (a : Num) : Nat :=
  match a with
  | .nan => 0
  | .inf n => if n then 0 else 2 ^ 32 - 1
  | .fin n m e => if n then 0 else min (2 ^ 32 - 1) (quantize m e 0)

/-- A comparison of Table 7.5. -/
def compare32 (op : Nat) (a b : Num) : Bool :=
  match a, b with
  | .nan, _ => op = 3
  | _, .nan => op = 3
  | a, b => match op with
    | 0 => a.lt b
    | 1 => !b.lt a
    | 2 => a.eqv b
    | 3 => !a.eqv b
    | 4 => !a.lt b
    | _ => b.lt a

/-! ### Real functions in fixed point: integers counted in units of 2^-200 -/

/-- The scale of the fixed point. -/
def fxBits : Nat := 200
def fxOne : Int := 2 ^ 200

/-- A finite number in fixed point, rounded down. -/
def Num.fx : Num → Int
  | .fin n m e =>
    let s := e + fxBits
    let k : Int := if 0 ≤ s then m * 2 ^ s.toNat else ((m / 2 ^ (-s).toNat : Nat) : Int)
    if n then -k else k
  | _ => 0

/-- A fixed-point integer times 2^k as a number. -/
def ofFx (v k : Int) : Num := .fin (v < 0) v.natAbs (k - fxBits)

def fxMul (a b : Int) : Int := a * b / fxOne
def fxDiv (a b : Int) : Int := if b = 0 then 0 else a * fxOne / b

/-- ln 2, from the sum of 1 / (k 2^k). -/
def fxLn2 : Int := (List.range 220).foldl (fun s i => s + fxOne / (((i + 1) * 2 ^ (i + 1) : Nat) : Int)) 0

/-- The Taylor sum of e^r for small r: the terms from `i` on, `t` being the present one. -/
def fxExpSum (r : Int) : Nat → Nat → Int → Int
  | 0, _, _ => 0
  | n + 1, i, t => t + fxExpSum r n (i + 1) (fxMul t r / ((i + 1 : Nat) : Int))

/-- e^x as a fixed-point mantissa and a power of two. -/
def fxExp (x : Int) : Int × Int :=
  let k := x / fxLn2
  (fxExpSum (x - k * fxLn2) 70 0 fxOne, k)

/-- e^x in fixed point for x at most 0. -/
def fxExpNeg (x : Int) : Int :=
  let (m, k) := fxExp x
  m / 2 ^ (-k).toNat

/-- Sum of z^(2i+1) / (2i+1). -/
def fxAtanhSum (z2 : Int) : Nat → Nat → Int → Int
  | 0, _, _ => 0
  | n + 1, i, t => t / ((2 * i + 1 : Nat) : Int) + fxAtanhSum z2 n (i + 1) (fxMul t z2)

/-- ln (m * 2^e) of a positive number. -/
def fxLog (m : Nat) (e : Int) : Int :=
  let top := Nat.log2 m
  let a : Int := m * 2 ^ (fxBits - top)
  let z := fxDiv (a - fxOne) (a + fxOne)
  2 * fxAtanhSum (fxMul z z) 80 0 z + (e + top) * fxLn2

/-- The integer square root, bit by bit. -/
def isqrt (x : Nat) : Nat → Nat → Nat
  | 0, r => r
  | n + 1, r => if (r + 2 ^ n) * (r + 2 ^ n) ≤ x then isqrt x n (r + 2 ^ n) else isqrt x n r

/-- Pi in fixed point. -/
def fxPi : Int := 314159265358979323846264338327950288419716939937510582097494459 * fxOne / 10 ^ 62

/-- Sum of (-1)^i z^(2i+1) / (i! (2i+1)): t is z^(2i+1) / i!. -/
def fxErfSum (z2 : Int) : Nat → Nat → Int → Int
  | 0, _, _ => 0
  | n + 1, i, t => t / ((2 * i + 1 : Nat) : Int) - fxErfSum z2 n (i + 1) (fxMul t z2 / ((i + 1 : Nat) : Int))

/-- The standard normal distribution function at x. -/
def fxPhi (x : Int) : Int :=
  if 8 * fxOne < x then fxOne
  else if x < -(8 * fxOne) then 0
  else
    let z := fxDiv x (isqrt (2 * fxOne * fxOne).toNat 202 0)
    fxOne / 2 + fxDiv (fxErfSum (fxMul z z) 300 0 z) (isqrt (fxPi * fxOne).toNat 202 0)

/-! ### The lookup-table ops -/

/-- The special values of Table 7.6, by op (0 EXP to 8 GELU). -/
def lutSpecial (op : Nat) (a : Num) : Option Num :=
  let zero := fun (n : Bool) => Num.fin n 0 0
  let one := Num.fin false 1 0
  let neg := a.neg && !a.isZero
  match op, a with
  | _, .nan => some .nan
  | 0, .inf n => some (if n then zero false else .inf false)
  | 0, x => if x.isZero then some one else if !neg && 887228 * fxOne < 10000 * x.fx then some (.inf false) else none
  | 1, .inf n => some (if n then .nan else .inf false)
  | 1, x => if x.isZero then some (.inf true) else if neg then some .nan else if x.eqv one then some (zero false) else none
  | 2, .inf n => some (zero n)
  | 2, x => if x.isZero then some (.inf x.neg) else none
  | 3, .inf n => some (if n then .nan else zero false)
  | 3, x => if x.isZero then some (.inf x.neg) else if neg then some .nan else none
  | 4, .inf n => some (if n then .nan else .inf false)
  | 4, x => if x.isZero then some x else if neg then some .nan else none
  | 5, .inf n => some (.fin n 1 0)
  | 5, x => if x.isZero then some x else none
  | 6, .inf n => some (if n then zero false else one)
  | 6, x => if x.isZero then some (.fin false 1 (-1)) else none
  | _, .inf n => some (if n then zero true else .inf false)
  | _, x => if x.isZero then some x else none

/-- 1 / (1 + e^-x). -/
def fxSigmoid (x : Int) : Int :=
  let e := fxExpNeg (if x < 0 then x else -x)
  if x < 0 then fxDiv e (fxOne + e) else fxDiv fxOne (fxOne + e)

/-- |x| cut to 512: beyond it every function of Table 7.6 has reached its limit within its accuracy. -/
def fxCut (x : Int) : Int := if 512 * fxOne < x then 512 * fxOne else if x < -(512 * fxOne) then -(512 * fxOne) else x

/-- The real value of a lookup-table op at a finite argument that is no special case, to far beyond its accuracy. -/
def lutReal (op : Nat) (a : Num) : Num :=
  match a with
  | .fin n m e =>
    let x := fxCut a.fx
    match op with
    | 0 => let r := fxExp x; ofFx r.1 r.2
    | 1 => ofFx (fxLog m e) 0
    | 2 => .fin n (2 ^ 120 / m) (-120 - e)
    | 3 => let odd := e % 2; let m2 := m * 2 ^ odd.toNat
      .fin false (isqrt (2 ^ 300 / m2) 160 0) (-150 - (e - odd) / 2)
    | 4 => let odd := e % 2; let m2 := m * 2 ^ odd.toNat
      .fin false (isqrt (m2 * 2 ^ 200) 120 0) ((e - odd) / 2 - 100)
    | 5 => let t := fxExpNeg (if 0 ≤ x then -(2 * x) else 2 * x)
      let v := fxDiv (fxOne - t) (fxOne + t)
      ofFx (if x < 0 then -v else v) 0
    | 6 => ofFx (fxSigmoid x) 0
    | 7 => if x = 512 * fxOne then a else if x = -(512 * fxOne) then .fin true 0 0 else ofFx (fxMul x (fxSigmoid x)) 0
    | _ => if x = 512 * fxOne then a else if x = -(512 * fxOne) then .fin true 0 0 else ofFx (fxMul x (fxPhi x)) 0
  | x => x

/-- The exact results of RECIP, RSQRT and SQRT: r is one (Table 7.6). -/
def lutExact (op : Nat) (a r : Num) : Bool :=
  let one := Num.fin false 1 0
  match op with
  | 2 => (r.mul a).eqv one
  | 3 => ((r.mul r).mul a).eqv one
  | 4 => (r.mul r).eqv a
  | _ => false

/-- The distance that Table 7.6 admits from a real value v. -/
def lutTol (op : Nat) (v : Num) : Num :=
  let k := if op < 2 then 2 else if op < 5 then 1 else 4
  let q : Int := match v with
    | .fin _ m e => if m = 0 then -149 else max ((Nat.log2 m : Int) + e - 23) (-149)
    | _ => -149
  let t := Num.fin false k q
  let a := Num.fin false 1 (-22)
  if op < 5 then t else if t.lt a then a else t

/-- A lookup-table op (R213): the special values and the exact results as Table 7.6 states them; any other result is the part's own, a
free value within the stated accuracy. -/
def lut32 (op w : Nat) : Nat :=
  let a := f32 w
  match lutSpecial op a with
  | some r => to32 r
  | none =>
    let v := lutReal op a
    let near := to32 v
    if lutExact op a (f32 near) then near
    else
      let free := Config.lut op w % 2 ^ 32
      match f32 free with
      | .fin n m e => if (lutTol op v).lt (Num.sum [.fin n m e, v.negate]).abs then near else to32 (.fin n m e)
      | _ => near

/-! ### Stages -/

/-- The result of an ARITH stage: `bits` are the operands' FP32 bits (Table 7.5, R212). -/
def arith32 (op : Nat) (l : List Nat) : Nat :=
  let a := f32 (nth 0 l 0)
  let b := f32 (nth 0 l 1)
  let c := f32 (nth 0 l 2)
  match op with
  | 0 => to32 (a.add b)
  | 1 => to32 (a.add b.negate)
  | 2 => to32 (a.mul b)
  | 3 => to32 ((a.mul b).add c)
  | 4 => to32 (c.add (a.mul b).negate)
  | 5 => to32 (a.min2 b)
  | 6 => to32 (a.max2 b)
  | 7 => to32 a.abs
  | 8 => to32 a.negate
  | _ => nth 0 l 0

/-- The result of a CMP stage. -/
def cmp32 (op : Nat) (l : List Nat) : Nat :=
  let a := f32 (nth 0 l 0)
  if op = 8 then (if a.isZero then nth 0 l 2 else nth 0 l 1)
  else if compare32 op a (f32 (nth 0 l 1)) then one32 else 0

/-- The result of a CVT stage; p0 names QUANT's format. -/
def cvt32 (op p0 w : Nat) : Nat :=
  let a := f32 w
  match op with
  | 0 => let f := (fmtOf (p0 % 16)).getD .fp32; to32 (f.decode (f.narrow 0 a).1)
  | 1 => to32 a.rint
  | 2 => to32 (Num.ofInt w)
  | _ => a.f2u

/-- An element widened to FP32 bits (R203). -/
def widen32 (f : Fmt) (w : Nat) : Nat := if f = .fp32 then w % 2 ^ 32 else to32 (f.decodeIn w)

/-- FP32 bits narrowed to a format, with the special kind of the element (R145, R203): FP32 keeps its bits. -/
def narrow32 (f : Fmt) (w : Nat) : Nat × Nat :=
  if f = .fp32 then (w % 2 ^ 32, match f32 w with | .nan => 1 | .inf n => if n then 3 else 2 | _ => 0) else f.narrow 0 (f32 w)

end Sys2Proof.Machine
end

