-- ==== Sys2Proof/Machine/Gather.lean ====
section
/-! DEFINITION. The Gather Engine's baskets and lists (Embedding Tables, Baskets and Owner Pooling): intake at the requester, index
lists, rounds, fetches and forwards at the owner, the records that come back, the report. -/

namespace Sys2Proof.Machine

def Dev.ge (d : Dev) (core : Nat) : Ge := (d.core core).ge
def Dev.updGe (d : Dev) (core : Nat) (f : Ge → Ge) : Dev := d.updCore core (fun k => { k with ge := f k.ge })

/-- Bytes of an area of Table 3.14: 1 GE_DLV, 2 GE_ACC, 3 GE_MAP. -/
def Dev.geArea (d : Dev) (core i : Nat) : Nat := d.fld (baseGE core + 4 * i) 26 16 * 4096

/-- An event flag of GE_STATUS with its counter (Table 3.14). -/
def Dev.geEvent (d : Dev) (core i : Nat) : Dev := d.raise (baseGE core + 0x10) i (baseGE core + 0x20 + 4 * i)

/-! ### Messages -/

/-- A message of the response class (R397). -/
def GeMsg.isResponse : GeMsg → Bool
  | .list .. => false
  | .forward .. => false
  | .put _ => false
  | .rowData .. => false
  | _ => true

/-- The FACET_UNAVAILABLE answer to a request or bulk message for a core of the module with coordinate `owner`, and who gets it (R75, R461). -/
def GeMsg.unavailable (owner core : Nat) : GeMsg → Option (BasketRef × GeMsg)
  | .list h _ _ => some (h.bk, .listError h.bk owner core 1)
  | .forward h _ => h.fwd.map (fun f => (f.2, .forwardAck f.2 f.1 1 [0, 0, 0, 0]))
  | .put j => some (j.origin, .putDone j.origin 0 0xB false 1)
  | .rowData src .. => some (src, .rowAck src 1)
  | _ => none

/-- The message answers an op that the block runs for a mirror record (R409). -/
def GeMsg.ofMirror : GeMsg → Bool
  | .putDone rcv .. => 2 ^ 64 ≤ rcv.num
  | _ => false

/-- A message held for a core. -/
def Dev.holdMsg (d : Dev) (core : Nat) (port : Option Nat) (m : GeMsg) : Dev :=
  d.updGe core (fun g => { g with inbox := g.inbox ++ [{ port := port, m := m }] })

/-- A response reaches a core's mesh router: held, or discarded and counted while the core is quarantined (R461). -/
def Dev.putResponse (d : Dev) (core : Nat) (port : Option Nat) (m : GeMsg) : Dev :=
  if (d.core core).quar.phase = .none || m.ofMirror then d.holdMsg core port m else d.count (baseRG + 0x220) 1

/-- The first message that satisfies a test, and the inbox without it. -/
def takeMsg (p : GeMsg → Bool) (l : List InMsg) : Option (InMsg × List InMsg) :=
  match findIdx (fun x : InMsg => p x.m) l with
  | none => none
  | some i => (l.drop i).head?.map (fun x => (x, l.eraseIdx i))

/-- A request or bulk message that found no route is answered with ROUTE_DOWN and counted at its port (R402). -/
def Dev.noRoute (c : Ctl) (d : Dev) (coord : Nat) : Dev :=
  match c.nextPort coord with
  | some p => d.routeDown p
  | none => d

/-- A response for the GE of a core: with no route it is dropped and counted in the port's lost counter (R402). -/
def Dev.geRespond (c : Ctl) (d : Dev) (f : Nat) (rcv : BasketRef) (payload : Nat) (m : GeMsg) : Dev :=
  if rcv.coord = c.coord then d.putResponse rcv.core none m
  else match d.route c f rcv.coord with
    | some p => d.inject c p rcv.coord .response payload (.ge rcv.core m)
    | none => match c.nextPort rcv.coord with
      | some p => d.raise (basePort p) 3 (basePort p + 0x1C)
      | none => d

/-- A message reaches a core's mesh router, which answers a request for a quarantined core with FACET_UNAVAILABLE (R461). -/
def Dev.putMsg (c : Ctl) (d : Dev) (core : Nat) (port : Option Nat) (m : GeMsg) : Dev :=
  if m.isResponse then d.putResponse core port m
  else if (d.core core).quar.phase = .none then d.holdMsg core port m
  else match m.unavailable c.coord core with
    | some (rcv, a) => d.geRespond c (c.facetOfCore core) rcv 0 a
    | none => d

/-- A request or bulk message for the GE of a core of this or another module; false where its route fails the check of R395. -/
def Dev.geSend (c : Ctl) (d : Dev) (f : Nat) (cls : PktClass) (coord core payload : Nat) (m : GeMsg) : Dev × Bool :=
  if coord = c.coord then (d.putMsg c core none m, true)
  else match d.route c f coord with
    | some p => (d.inject c p coord cls payload (.ge core m), true)
    | none => (d, false)

/-- A bag of a basket as one number. -/
def bagKey (s b : Nat) : Nat := s * 1024 + b

/-- Groups by bag, with the sum of their references. -/
def lostBags (l : List Group) : List (Nat × Nat × Nat) :=
  l.foldl (fun (m : List (Nat × Nat × Nat)) g =>
    if m.any (fun x => x.1 == g.sample && x.2.1 == g.bag) then
      m.map (fun x => if x.1 == g.sample && x.2.1 == g.bag then (x.1, x.2.1, x.2.2 + g.refs) else x)
    else m ++ [(g.sample, g.bag, g.refs)]) []

/-! ### The descriptor of a basket -/

def opUnpooled (op : Nat) : Bool := opt op 1 0
def opRefMode (op : Nat) : Nat := opf op 1 2 1
def opSamples (op : Nat) : Nat := opf op 2 12 0
def opBags (op : Nat) : Nat := opf op 4 10 0
/-- Bytes of one output position. -/
def opPos (op : Nat) : Nat := opf op 6 8 0 * 16
def opEntryVa (op : Nat) : Nat := opf op 8 51 0
def opOutVa (op : Nat) : Nat := opf op 16 51 0
def opEntries (op : Nat) : Nat := opn op 24 4
def opBasketSync (op : Nat) : Nat := opf op 28 16 0

/-- Table 3.7. -/
def basketOk (op : Nat) : Bool :=
  opClean op [(1, 4, 0), (2, 12, 0), (4, 10, 0), (6, 8, 0), (8, 51, 0), (16, 51, 0), (24, 31, 0), (28, 31, 20), (28, 16, 0)] &&
  (opRefMode op ≠ 3 && (opf op 1 4 3 ≠ 3 && (1 ≤ opSamples op && (opSamples op ≤ 4096 && (1 ≤ opBags op && (opBags op ≤ 1024 &&
  (1 ≤ opPos op && (opPos op ≤ 4096 && (opEntryVa op % 16 == 0 && opOutVa op % 64 == 0)))))))))

/-- Bytes of bag map that a basket needs (R94). -/
def basketMap (op : Nat) : Nat := if opUnpooled op then 0 else cdiv (opSamples op * opBags op) 8

/-- The address of bag (s, b), or of position n of an unpooled basket (R91). -/
def bagVa (op s b : Nat) : Nat := opOutVa op + 64 + (s * opBags op + b) * opPos op
def posVa (op n : Nat) : Nat := opOutVa op + 64 + n * opPos op

/-- A report (Table 3.10). -/
def reportBytes (l : List Nat) : List Byte := padTo 64 (l.flatMap (fun x => toLe 4 (min (2 ^ 32 - 1) x)))

/-- done_sync of a GE op receives ADD 1; an object outside the facet is a violation (R364). -/
def Dev.geSignal (c : Ctl) (d : Dev) (core o : Nat) : Dev :=
  if c.syncFacet o = c.coreFacet core then d.syncAdd o 1 else d.violate (syncViolation c core 5 0 o)

/-! ### Intake (R93) -/

/-- The basket with a number changed. -/
def Dev.updBasket (d : Dev) (core num : Nat) (f : Basket → Basket) : Dev :=
  d.updGe core (fun g => { g with baskets := g.baskets.map (fun b => if b.num == num then f b else b) })

/-- The epoch bound for a table with the version that holds it here, read at the table's first use in the basket; none while the GE waits. A registry entry
read poisoned carries its poison to the groups of the table (R290). -/
def Dev.geTable (c : Ctl) (d : Dev) (core : Nat) (o : Owner) (as table : Nat) (r : Reading) :
    Dev × Option (Reading × Nat × Option (Nat × Ver) × Bool) :=
  match r.vers.find? (fun v => v.1 == table) with
  | some v => (d, some (r, v.2))
  | none =>
    match d.geEntry c core as table with
    | (d, none) => (d, none)
    | (d, some (e, bad)) =>
      let (d, ep) := (d.markIf bad o 0).bindEpoch c o as table (if (slotIn e 2).isSome then le e 0 4 else 0)
      let v := if ep = 0 then none else (slotOf e ep).map (fun x => (x, slotVer e x))
      (d, some ({ r with vers := (table, ep, v, bad) :: r.vers }, ep, v, bad))

/-- Groups that could not be sent, added under an owner (none: no owner is known) and a flag of Table 3.9. -/
def Reading.lose (r : Reading) (o : Option (Nat × Nat)) (flag : Nat) (l : List Group) : Reading :=
  let key := fun (x : Option (Nat × Nat) × Nat × List Group) => x.1 == o && x.2.1 == flag
  if r.lost.any key then { r with lost := r.lost.map (fun x => if key x then (x.1, x.2.1, x.2.2 ++ l) else x) }
  else { r with lost := r.lost ++ [(o, flag, l)] }

/-- Where a group goes: to the list of an owner, or nowhere, with a flag. -/
inductive Route where
  | owner (o : Nat × Nat)
  | lost (flag : Nat)
  deriving DecidableEq, Repr

/-- A group whose entries are all in joins the open packet of its owner (step 6). -/
def Reading.place (r : Reading) (t : Route) (g : Group) : Reading :=
  match t with
  | .lost flag => r.lose none flag [g]
  | .owner o =>
    if r.cut.contains o then r.lose (some o) 5 [g]
    else if r.packets.any (fun x => x.1 == o) then
      { r with packets := r.packets.map (fun x => if x.1 == o then (x.1, x.2 ++ [g]) else x) }
    else { r with packets := r.packets ++ [(o, [g])] }

/-- The route that is stored with the last group. -/
def Reading.routeOf (x : Option (Nat × Nat) × Nat × Group) : Route :=
  match x.1 with
  | some o => .owner o
  | none => .lost x.2.1

/-- The last group takes no further entry. -/
def Reading.close (r : Reading) : Reading :=
  match r.last with
  | none => r
  | some x => { r.place (Reading.routeOf x) x.2.2 with last := none }

/-- An entry joins the last group (step 4): the references are summed, and the weights in the order of the entries, which R96 leaves open (log entry 120). -/
def Group.join (l g : Group) : Group :=
  { l with refs := l.refs + g.refs, wsum := to32 ((f32 l.wsum).add (f32 g.wsum)), pos := l.pos ++ g.pos, poison := l.poison || g.poison }

/-- Two entries are for one row and one bag. -/
def Group.same (l g : Group) : Bool := l.table == g.table && (l.index == g.index && (l.sample == g.sample && l.bag == g.bag))

/-- What steps 1 to 3 make of entry n of a basket. -/
inductive EntryFate where
  | skip (field : Nat)
  | group (g : Group) (v : Option (Nat × Ver))
  deriving DecidableEq, Repr

/-- Steps 1 to 3 of R93; none while the GE waits. -/
def Dev.entryFate (c : Ctl) (d : Dev) (core : Nat) (q : QOp) (r : Reading) (e : List PByte) : Dev × Option (Reading × EntryFate) :=
  let b := plain e
  let table := le b 6 2
  let s := le b 8 2
  let bag := le b 10 2
  let ref := le b 12 4
  let mode := opRefMode q.op
  if byteAt b 5 ≠ 0 || (4096 ≤ table || (opSamples q.op ≤ s || opBags q.op ≤ bag)) then (d, some (r, .skip 2))
  else match d.geTable c core q.own q.as table r with
    | (d, none) => (d, none)
    | (d, some (r, ep, v, bad)) =>
      let i := le b 0 5
      if ep = 0 then (d, some (r, .skip 1))
      else if (v.map (fun v => decide (v.2.rows ≤ i))).getD false then (d, some (r, .skip 3))
      else if mode = 2 && ref = 0 then (d, some (r, .skip 5))
      else (d, some (r, .group {
        table := table, index := i, sample := s, bag := bag, refs := if mode = 2 then ref else 1, wsum := if mode = 1 then ref else 0
        pos := [r.n], poison := anyPoison e || bad } v))

/-- The owner of a group's home shard by this module's shard map (step 5), or EPOCH_MISS, or OWNER_ERROR where the shard is UNASSIGNED or its entry is read
poisoned (log entry 62); none while the GE waits. -/
def Dev.groupRoute (c : Ctl) (d : Dev) (core as : Nat) (g : Group) : Option (Nat × Ver) → Dev × Option Route
  | none => (d, some (.lost 3))
  | some (x, v) =>
    let h := g.index % v.shards
    match d.rdLookup c core as g.table x 0 h (v.shardVa h) with
    | (d, none) => (d, none)
    | (d, some (e, p)) => (d, some (match (if p then none else shardOwner e) with
      | none => .lost 5
      | some o => .owner o))

/-- A list in pieces of n. -/
def chunks {α : Type} (n : Nat) : Nat → List α → List (List α)
  | 0, _ => []
  | k + 1, l => if l.isEmpty then [] else l.take n :: chunks n k (l.drop n)

/-- The bags of groups. -/
def bagSet (l : List Group) : NatSet := l.foldl (fun s g => NatSet.ins s (bagKey g.sample g.bag)) []

/-- A packet of an owner's list leaves (R93); where its route fails the check of R395 the list ends here, and its groups are lost. -/
def Dev.sendList (c : Ctl) (d : Dev) (core : Nat) (b : Basket) (r : Reading) (o : Nat × Nat) (l : List Group) (last : Bool) : Dev × Reading :=
  let q := b.op
  let h : ListHdr := {
    bk := { coord := c.coord, core := core, num := b.num }, as := q.as, facet := b.facet, unpooled := opUnpooled q.op, refMode := opRefMode q.op
    hint := opf q.op 1 4 3, pool := opf q.op 28 31 26
    epochs := (r.vers.filter (fun v => l.any (fun g => g.table == v.1))).map (fun v => (v.1, v.2.1)) }
  match d.geSend c b.facet .request o.1 o.2 (16 * l.length) (.list h l last) with
  | (d, true) =>
    let bags := fun (s : NatSet) => (bagSet l).foldl NatSet.ins s
    let open_ := fun (x : List (Nat × Nat × NatSet)) =>
      if x.any (fun y => y.1 == o.1 && y.2.1 == o.2) then x.map (fun y => if y.1 == o.1 && y.2.1 == o.2 then (y.1, y.2.1, bags y.2.2) else y)
      else x ++ [(o.1, o.2, bags [])]
    (d.updBasket core b.num (fun b => { b with open_ := open_ b.open_ }),
     { r with packets := r.packets.map (fun x => if x.1 == o then (x.1, []) else x) })
  | (d, false) =>
    let sent := b.open_.find? (fun y => y.1 == o.1 && y.2.1 == o.2)
    let d := match sent with
      | some y => d.updBasket core b.num (fun b => { b with
          open_ := b.open_.filter (fun z => !(z.1 == o.1 && z.2.1 == o.2)), ownerError := y.2.2.foldl NatSet.ins b.ownerError })
      | none => d
    (d, { r with packets := r.packets.filter (fun x => x.1 ≠ o), cut := r.cut ++ [o] }.lose (some o) 5 l)

/-- A record without data for the bags of groups that were lost: their references as its count (R102). flags: Table 3.8. -/
def lostRecs (flags : Nat) (l : List Group) : List Rec :=
  (lostBags l).map (fun x => { sample := x.1, bag := x.2.1, count := min (2 ^ 32 - 1) x.2.2, kind := 2, flags := flags })

/-- The requester itself writes the records for what it could not send, one for each (sample, bag) of each list (R93, R395). -/
def Dev.ownLost (d : Dev) (core num : Nat) (bk : BasketRef) (l : List (Option (Nat × Nat) × Nat × List Group)) : Dev :=
  l.foldl (fun d x => (lostRecs (2 ^ x.2.1) x.2.2).foldl (fun d rec_ => (d.geEvent core x.2.1).holdMsg core none (.flagged { bk with num := num } rec_)) d) d

/-- The entries that BASKET records force in replay (R469): the record and those that continue it. none: the replay diverges. -/
def Dev.replayEntries (c : Ctl) (d : Dev) (o : Owner) : Nat → Nat → Bool → Dev × Option (List PByte)
  | 0, _, _ => (d, some [])
  | n + 1, left, more =>
    match d.nextDecision c o with
    | (d, none) => (d, none)
    | (d, some r) =>
      if r.type ≠ 7 || bit r.flags 2 ≠ more then (d, none)
      else
        let d := d.tookDecision c o r.trip
        let k := min left 4092
        let b := marked (bit r.flags 0) (slice r.body (if more then 0 else 32) (16 * k))
        if left ≤ 4092 then (d, some b)
        else match d.replayEntries c o n (left - k) true with
          | (d, none) => (d, none)
          | (d, some b') => (d, some (b ++ b'))

/-- The BASKET records of a basket (Table 17.9). -/
def Dev.tripBasket (c : Ctl) (d : Dev) (core : Nat) (q : QOp) (b : List PByte) : Dev :=
  let parts := chunks 65472 (b.length + 1) b
  let first := parts.head?.getD []
  let flag := fun (x : List PByte) => if anyPoison x then 1 else 0
  let d := d.tripFor c q.own 7 (flag first) core 5 (toLe 32 q.op ++ plain first)
  (parts.drop 1).foldl (fun d x => d.tripFor c q.own 7 (4 + flag x) core 5 (plain x)) d

/-- The entries' bytes up to the end of the next 256 B, from memory; none while the GE waits. -/
def Dev.readMore (c : Ctl) (d : Dev) (core : Nat) (q : QOp) (r : Reading) : Dev × Option Reading :=
  let va := opEntryVa q.op + r.bytes.length
  match d.geRead c core q.as (some q.own) 0 va (min (256 - va % 256) (16 * opEntries q.op - r.bytes.length)) with
  | (d, none) => (d, none)
  | (d, some b) => (d.doneOutside core 2, some { r with bytes := r.bytes ++ b })

/-- What handling one entry of a basket gives: the GE waits, a packet boundary comes first, or the entry has been handled. -/
inductive IntakeStep where
  | wait
  | boundary (o : Nat × Nat)
  | took (r : Reading)
  deriving DecidableEq, Repr

/-- The next entry of a basket (R93). An entry that does not join the last group closes it; where that completes a packet, a boundary falls before the
entry (R384). A skipped entry of an unpooled basket has zeros written to its position (R101). -/
def Dev.intakeEntry (c : Ctl) (d : Dev) (core : Nat) (b : Basket) (r : Reading) : Dev × Reading × IntakeStep :=
  let q := b.op
  match (if r.bytes.length < 16 * r.n + 16 then d.readMore c core q r else (d, some r)) with
  | (d, none) => (d, r, .wait)
  | (d, some r) =>
    let e := (r.bytes.drop (16 * r.n)).take 16
    match d.entryFate c core q r e with
    | (d, none) => (d, r, .wait)
    | (d, some (r, fate)) =>
      let joins := match fate, r.last with
        | .group g _, some x => x.2.2.same g
        | _, _ => false
      let closed := if joins then r else r.close
      match closed.packets.find? (fun x => 256 ≤ x.2.length) with
      | some x => (d, closed, .boundary x.1)
      | none =>
        let next := fun (d : Dev) (k : Option Nat) (r : Reading) =>
          (d.updBasket core b.num (fun b => { b with counts := match k with
            | some k => modNth (· + 1) k (modNth (· + 1) 0 b.counts)
            | none => modNth (· + 1) 0 b.counts }), r, IntakeStep.took { r with n := r.n + 1 })
        match fate with
        | .skip k =>
          if !opUnpooled q.op then next d (some k) closed
          else match d.geWrite c core q.as (some q.own) (posVa q.op r.n) (marked false (zeros (opPos q.op))) with
            | (d, false) => (d, closed, .wait)
            | (d, true) => next d (some k) closed
        | .group g v =>
          match joins, closed.last with
          | true, some x => next d none { closed with last := some (x.1, x.2.1, x.2.2.join g) }
          | _, _ => match d.groupRoute c core q.as g v with
            | (d, none) => (d, closed, .wait)
            | (d, some (.owner o)) => next d none { closed with last := some (some o, 0, g) }
            | (d, some (.lost f)) => next d none { closed with last := some (none, f, g) }

/-- The end of a basket's intake: the open packets leave with their end markers, what could not be sent is recorded, and so is the basket in the Trip
Log. -/
def Dev.intakeEnd (c : Ctl) (d : Dev) (core num : Nat) (r : Reading) : Dev :=
  let r := r.close
  let (d, r) := r.packets.foldl (fun (acc : Dev × Reading) x => match (acc.1.ge core).baskets.find? (fun b => b.num == num) with
    | some b => acc.1.sendList c core b acc.2 x.1 x.2 true
    | none => acc) (d, r)
  match (d.ge core).baskets.find? (fun b => b.num == num) with
  | none => d
  | some b =>
    let d := ((d.ownLost core num { coord := c.coord, core := core } r.lost).tripBasket c core b.op r.bytes).count (baseGE core + 0x44) (opEntries b.op.op)
    (d.updBasket core num (fun b => { b with reading := none })).doneOutside core 2

/-- Entries of a basket are read and handled up to the next packet boundary, as far as the GE does not wait; n bounds the entries. -/
def Dev.intake (c : Ctl) (d : Dev) (core num : Nat) (r : Reading) : Nat → Dev
  | 0 => d.intakeEnd c core num r
  | n + 1 =>
    match (d.ge core).baskets.find? (fun b => b.num == num) with
    | none => d
    | some b => match d.intakeEntry c core b r with
      | (d, r, .wait) => d.updBasket core num (fun b => { b with reading := some r })
      | (d, r, .boundary o) =>
        let l := ((r.packets.find? (fun x => x.1 == o)).map (·.2)).getD []
        let (d, r) := d.sendList c core b r o l false
        d.updBasket core num (fun b => { b with reading := some r })
      | (d, _, .took r) => d.intake c core num r n

/-- The basket for which the GE reads entries: of those with entries left the highest level, then the oldest (R384). -/
def Dev.readsFor (d : Dev) (core : Nat) : Option (Basket × Reading) :=
  let l := (d.ge core).baskets.filterMap (fun b => b.reading.map (fun r => (b, r)))
  let level := fun (b : Basket) => (d.launchOf b.op.own).level
  let top := (l.map (fun x => level x.1)).foldl max 0
  l.find? (fun x => level x.1 = top)

/-- A basket at the head of the queue starts (R91 to R94), where it may. -/
def Dev.basketStart (c : Ctl) (d : Dev) (core : Nat) (q : QOp) : Dev :=
  if !basketOk q.op then
    match d.geWrite c core q.as (some q.own) (opOutVa q.op) (marked false (reportBytes [2])) with
    | (d, false) => d
    | (d, true) => (((((d.doneOutside core 2).popOp core .ge).geSignal c core (opBasketSync q.op)).count (baseGE core + 0x58) 1).opRefused c core .ge q 2 true)
  else
    let used := ((d.ge core).baskets.map (fun b => basketMap b.op.op)).foldl (· + ·) 0
    if 16 ≤ (d.ge core).baskets.length || d.geArea core 3 < used + basketMap q.op then d
    else
      let start := fun (d : Dev) (b : List PByte) => (d.popOp core .ge).updGe core (fun g => { g with baskets := g.baskets ++ [{
        num := q.id, op := q, facet := c.facetOfCore core, reading := some { bytes := b } }] })
      if d.forced c q.own.ch 7 then
        match d.replayEntries c q.own (opEntries q.op / 4092 + 1) (opEntries q.op) false with
        | (d, some b) => start (d.markIf (anyPoison b) q.own 0) b
        | (d, none) =>
          let d := (d.divergeAt ((c.chFacet q.own.ch).getD 0) q.own.ch (d.nextDecision c q.own).2).popOp core .ge
          (d.dropOutst core q.id).updOwnTask core q.own (fun t => { t with ending := true, status := if t.status = 0 then 0xB else t.status })
      else start d []

/-- GE_BASKET (R91, R94): the op enters the GE queue. -/
def execGeBasket (core : Fin 128) (s : State) : Host.Outcome State Fault Refusal := onDev s fun _ d => (d.issue core 0x50 .ge).1

/-- BASKET_START (R94, R384): the basket at the head of the GE queue starts, where it may; then entries are read up to the next packet boundary. -/
def execBasketStart (core : Fin 128) (s : State) : Host.Outcome State Fault Refusal :=
  onDev s fun c d =>
    let d := match (d.ge core).queue with
      | [] => d
      | q :: _ => if q.op % 256 = 0x50 && !d.withheld core q then d.basketStart c core q else d
    match d.readsFor core with
    | some (b, r) => d.intake c core b.num r (opEntries b.op.op - r.n)
    | none => d

/-! ### Lists at the owner -/

/-- What an owner says of an inbound request for an address space that came by a port (R75, R98, R102, R461): none where it serves it,
`some true` for an error response, `some false` for OWNER_ERROR. -/
def Dev.ownerCheck (c : Ctl) (d : Dev) (core as : Nat) (port : Option Nat) : Option Bool :=
  match c.coreFacet core with
  | none => some true
  | some f =>
    if (d.core core).quar.phase ≠ .none || !d.takesInbound c f then some true
    else if c.asFacet as ≠ some f then some false
    else match port with
      | some p => if bit (c.facet f).ports p then none else some false
      | none => none

/-- An inbound request that names an address space in no facet is a violation (R54); which address its entry holds no rule says (log entry 115). -/
def Dev.unusedAs (c : Ctl) (d : Dev) (as : Nat) (port : Option Nat) (src : BasketRef) : Dev :=
  if (c.asFacet as).isSome then d
  else
    let (d, a) := d.free
    d.violate {
      kind := 5, block := 0x15, addrKind := 1, address := a.toNat, aux := as
      reqKind := match port with
        | none => 1
        | some p => if p = 6 then 4 else 3
      facet := match port with
        | none => (c.coreFacet src.core).getD 0xFF
        | some _ => 0xFF
      requester := match port with
        | none => src.core * 256 + 5
        | some p => if p = 6 then 0 else src.coord }

/-- An inbound index list that the owner serves: no forward, and not refused. -/
def InList.inbound (l : InList) : Bool := l.h.fwd.isNone && !l.dead

/-- The list with a number changed. -/
def Dev.updList (d : Dev) (core num : Nat) (f : InList → InList) : Dev :=
  d.updGe core (fun g => { g with lists := g.lists.map (fun l => if l.num == num then f l else l) })

/-- The list with a number. -/
def Dev.list? (d : Dev) (core num : Nat) : Option InList := (d.ge core).lists.find? (fun l => l.num == num)

/-- Groups that a list cannot serve are lost, with a flag of Table 3.9 (3 EPOCH_MISS, 4 CHAIN_MISSING, 5 OWNER_ERROR): the references are summed by
(sample, bag) until the list ends (R102). -/
def InList.lose (l : InList) (flag : Nat) (gs : List Group) : InList :=
  (lostBags gs).foldl (fun l x =>
    let same := fun (y : Nat × Nat × Nat × Nat) => y.1 == x.1 && y.2.1 == x.2.1
    if l.lost.any same then { l with lost := l.lost.map (fun y => if same y then (y.1, y.2.1, y.2.2.1 ||| 2 ^ flag, y.2.2.2 + x.2.2) else y) }
    else { l with lost := l.lost ++ [(x.1, x.2.1, 2 ^ flag, x.2.2)] }) l

/-- Groups of a list are lost. -/
def Dev.loseIn (d : Dev) (core num flag : Nat) (gs : List Group) : Dev := d.updList core num (fun l => l.lose flag gs)

/-- The flagged records without data of a list: one for each (sample, bag) of which something was lost (R102). -/
def Dev.sendLost (c : Ctl) (d : Dev) (core : Nat) (l : InList) : Dev :=
  l.lost.foldl (fun d x =>
    let d := ([3, 4, 5].filter (fun i => bit x.2.2.1 i)).foldl (fun d i => d.geEvent core i) d
    d.geRespond c (c.facetOfCore core) l.h.bk 16
      (.flagged l.h.bk { sample := x.1, bag := x.2.1, count := min (2 ^ 32 - 1) x.2.2.2, kind := 2, flags := x.2.2.1 })) d

/-- The partials that a list holds are sent, and its accumulators start anew (R99). -/
def Dev.sendPartials (c : Ctl) (d : Dev) (core : Nat) (l : InList) : Dev :=
  let d := l.accs.foldl (fun d a =>
    let data := a.elems.flatMap (toLe 4)
    d.geRespond c (c.facetOfCore core) l.h.bk (16 + data.length) (.partialRec l.h.bk {
      sample := a.sample, bag := a.bag, count := min (2 ^ 32 - 1) a.count, wsum := a.wsum, kind := 2
      flags := if 2 ^ 32 ≤ a.count then a.flags ||| 2 else a.flags, data := data })) d
  (d.count (baseGE core + 0x54) l.accs.length).updList core l.num (fun l => { l with accs := [] })

/-- The end of a list (R99): once nothing of it is left its partials, the records of what it lost and its list-end record are sent, or a forward is
acknowledged (R98). -/
def Dev.listCheck (c : Ctl) (d : Dev) (core num : Nat) : Dev :=
  match d.list? core num with
  | none => d
  | some l =>
    if !l.ended || (!l.todo.isEmpty || (!l.fwdRows.isEmpty || (l.round.isSome || (d.ge core).ring.any (fun r => r.ofList && r.num == num)))) then d
    else
      let d := (d.sendPartials c core l).sendLost c core l
      let f := c.facetOfCore core
      let d := match l.h.fwd with
        | none => d.geRespond c f l.h.bk 16 (.listEnd l.h.bk c.coord core l.counts)
        | some (n, rcv) => d.geRespond c f rcv 16 (.forwardAck rcv n 0 l.counts)
      ((d.updGe core (fun g => { g with lists := g.lists.filter (fun x => x.num ≠ num) })).count (baseGE core + 0x48) 1).putRefs c l.h.as

/-- A list is held. -/
def Dev.addList (c : Ctl) (d : Dev) (core : Nat) (l : InList) : Dev :=
  (d.updGe core (fun g => { g with lists := g.lists ++ [{ l with num := g.nextList }], nextList := g.nextList + 1 })).putRefs c l.h.as

/-- Epochs bound by the tables of a further packet of a list. -/
def addEpochs (l new : List (Nat × Nat)) : List (Nat × Nat) := l ++ new.filter (fun e => !l.any (fun x => x.1 == e.1))

/-- A packet of an index list (R95). A list that has been accepted is served to its end (R75); of one that the owner refuses with OWNER_ERROR the
references are counted until its end (R102). -/
def Dev.listArrive (c : Ctl) (d : Dev) (core : Nat) (x : InMsg) (rest : List InMsg) (h : ListHdr) (l : List Group) (last : Bool) : Dev :=
  let d := d.unusedAs c h.as x.port h.bk
  let took := d.updGe core (fun g => { g with inbox := rest })
  let held := (d.ge core).lists.find? (fun y => y.h.bk = h.bk && (y.h.fwd.isNone && !y.ended))
  match if held.isSome && (d.core core).quar.phase = .none then none else d.ownerCheck c core h.as x.port with
  | some true => took.geRespond c h.facet h.bk 0 (.listError h.bk c.coord core 1)
  | some false =>
    let num := (took.ge core).nextList
    (took.addList c core ({ port := x.port, h := h, ended := last, dead := true : InList }.lose 5 l)).listCheck c core num
  | none =>
    match held with
    | some y =>
      let d := took.updList core y.num (fun y => if y.dead then { y.lose 5 l with ended := last }
        else { y with h := { y.h with epochs := addEpochs y.h.epochs h.epochs }, todo := y.todo ++ l, ended := last })
      (d.putRefs c h.as).listCheck c core y.num
    | none =>
      let num := (took.ge core).nextList
      if 64 ≤ ((d.ge core).lists.filter InList.inbound).length then d
      else (took.addList c core { port := x.port, h := h, todo := l, ended := last }).listCheck c core num

/-- INDEX_LIST_ARRIVAL (R95). -/
def execIndexListArrival (core : Fin 128) (s : State) : Host.Outcome State Fault Refusal :=
  onDev s fun c d =>
    match takeMsg (fun m => match m with | .list .. => true | _ => false) (d.ge core).inbox with
    | some (x, rest) => (match x.m with
      | .list h l last => d.listArrive c core x rest h l last
      | _ => d)
    | none => d

/-- FORWARD_ARRIVAL (R98). -/
def execForwardArrival (core : Fin 128) (s : State) : Host.Outcome State Fault Refusal :=
  onDev s fun c d =>
    match takeMsg (fun m => match m with | .forward .. => true | _ => false) (d.ge core).inbox with
    | some (x, rest) => (match x.m with
      | .forward h rows =>
        let d := (d.updGe core (fun g => { g with inbox := rest })).unusedAs c h.as x.port h.bk
        match d.ownerCheck c core h.as x.port, h.fwd with
        | some true, some (n, rcv) => d.geRespond c h.facet rcv 0 (.forwardAck rcv n 1 [0, 0, 0, 0])
        | some false, some _ =>
          (d.addList c core ({ port := x.port, h := h, ended := true, dead := true : InList }.lose 5 (rows.flatMap (·.groups)))).listCheck c core (d.ge core).nextList
        | _, _ => d.addList c core { port := x.port, h := h, fwdRows := rows, ended := true }
      | _ => d)
    | none => d

/-! ### Rounds -/

/-- A group joins a round (R95): rows with their groups, and the number of distinct (row, bag); none where the round is full. -/
def addToRound (t : List (List Group) × Nat) (g : Group) : Option (List (List Group) × Nat) :=
  match findIdx (fun r : List Group => match r.head? with | some x => x.table == g.table && x.index == g.index | none => false) t.1 with
  | some i =>
    if (nth [] t.1 i).any (fun x => x.sample == g.sample && x.bag == g.bag) then some (modNth (· ++ [g]) i t.1, t.2)
    else if 32768 ≤ t.2 then none
    else some (modNth (· ++ [g]) i t.1, t.2 + 1)
  | none => if 8192 ≤ t.1.length || 32768 ≤ t.2 then none else some (t.1 ++ [[g]], t.2 + 1)

/-- The groups of the next round, by row, and the groups that are left. -/
def takeRound : List Group → List (List Group) × Nat → List (List Group) × List Group
  | [], t => (t.1, [])
  | g :: r, t => match addToRound t g with
    | some t => takeRound r t
    | none => (t.1, g :: r)

/-- The rows of a forward that fit in a round, and those left. -/
def takeFwdRound (l : List FwdRow) : List FwdRow × List FwdRow :=
  let n := (l.foldl (fun (acc : Nat × Nat × Bool) r =>
    let k := (lostBags r.groups).length
    if acc.2.2 || (8192 ≤ acc.1 || (0 < acc.1 && 32768 < acc.2.1 + k)) then (acc.1, acc.2.1, true) else (acc.1 + 1, acc.2.1 + k, false)) (0, 0, false)).1
  (l.take n, l.drop n)

/-- What an owner finds of a row. -/
inductive RowFate where
  | lost (flag : Nat)
  | absent
  | fetch (w : RowWork)
  | away (coord core shard slot : Nat)
  deriving DecidableEq, Repr

/-- The fate of a row that lies in (shard, slot) of a version, for a core whose own map says who owns the shard; none while the GE waits. A row entry that
names a shard UNASSIGNED there, or a shard entry read poisoned, is an OWNER_ERROR (log entry 62); one that names no shard or slot of the version is taken
as poisoned (log entry 63). -/
def Dev.placeRow (c : Ctl) (d : Dev) (core as : Nat) (x : Nat) (v : Ver) (table index shard slot : Nat) (gs : List Group) (mayForward : Bool) :
    Dev × Option RowFate :=
  let w : RowWork := { table := table, epoch := v.epoch, index := index, shard := shard, slot := slot, va := v.slotVa shard slot, width := v.width, groups := gs }
  if v.shards ≤ shard || v.slots ≤ slot then (d, some (.fetch { w with poison := true }))
  else match d.rdLookup c core as table x 0 shard (v.shardVa shard) with
    | (d, none) => (d, none)
    | (d, some (e, p)) => (d, some (match (if p then none else shardOwner e) with
      | none => .lost 5
      | some o => if o = (c.coord, core) then .fetch w else if mayForward then .away o.1 o.2 shard slot else .lost 5))

/-- Groups of a table whose registry entry was read poisoned carry the poison (R290). -/
def poisonedIf (bad : Bool) (l : List Group) : List Group := if bad then l.map (fun g => { g with poison := true }) else l

/-- The fate of a row of an index list at its home owner (R95, R98, R102, R106). -/
def Dev.homeRow (c : Ctl) (d : Dev) (core : Nat) (h : ListHdr) (table index : Nat) (gs : List Group) : Dev × Option RowFate :=
  let ep := ((h.epochs.find? (fun e => e.1 == table)).map (·.2)).getD 0
  match d.geEntry c core h.as table with
  | (d, none) => (d, none)
  | (d, some (e, bad)) => match slotOf e ep with
    | none => (d, some (.lost 3))
    | some x =>
      let gs := poisonedIf bad gs
      let v := slotVer e x
      let home := index % v.shards
      match d.rdLookup c core h.as table x 0 home (v.shardVa home) with
      | (d, none) => (d, none)
      | (d, some (s, sp)) =>
        if sp || shardOwner s ≠ some (c.coord, core) then (d, some (.lost 5))
        else if v.rows ≤ index then (d, some .absent)
        else match d.rdLookup c core h.as table x 1 index (v.rowVa index) with
          | (d, none) => (d, none)
          | (d, some (r, rp)) =>
            if rp then (d, some (.fetch { table := table, epoch := ep, index := index, width := v.width, poison := true, groups := gs }))
            else match rowPlace r with
              | none => (d, some .absent)
              | some (shard, slot) => d.placeRow c core h.as x v table index shard slot gs true

/-- The fate of a row of a forward (R98). -/
def Dev.fwdRow (c : Ctl) (d : Dev) (core : Nat) (h : ListHdr) (r : FwdRow) : Dev × Option RowFate :=
  match d.geEntry c core h.as r.table with
  | (d, none) => (d, none)
  | (d, some (e, bad)) => match slotOf e r.epoch with
    | none => (d, some (.lost 3))
    | some x => d.placeRow c core h.as x (slotVer e x) r.table r.index r.shard r.slot (poisonedIf bad r.groups) false

/-- The fates of the rows of a round; none while the GE waits. -/
def Dev.fates {α : Type} (d : Dev) (f : Dev → α → Dev × Option RowFate) : List α → Dev × Option (List (α × RowFate))
  | [] => (d, some [])
  | a :: r => match f d a with
    | (d, none) => (d, none)
    | (d, some x) => match d.fates f r with
      | (d, none) => (d, none)
      | (d, some l) => (d, some ((a, x) :: l))

/-- Statistics of a shard for the round (R112): references, fetches, bytes, forwards. -/
def addStats (l : List (Nat × Nat × Nat × List Nat)) (table epoch shard : Nat) (v : List Nat) : List (Nat × Nat × Nat × List Nat) :=
  if l.any (fun x => x.1 == table && (x.2.1 == epoch && x.2.2.1 == shard)) then
    l.map (fun x => if x.1 == table && (x.2.1 == epoch && x.2.2.1 == shard) then (table, epoch, shard, (x.2.2.2.zip v).map (fun y => y.1 + y.2)) else x)
  else l ++ [(table, epoch, shard, v)]

/-- References of groups. -/
def refsOf (l : List Group) : Nat := (l.map (·.refs)).foldl (· + ·) 0

/-- The forwards of a round leave, one message for each owner (R98). `away`: row, coordinate, core. -/
def Dev.sendForwards (c : Ctl) (d : Dev) (core num : Nat) (h : ListHdr) (away : List (FwdRow × Nat × Nat)) : Dev :=
  ((away.map (·.2)).eraseDups).foldl (fun d o =>
    let rows := (away.filter (fun a => a.2 == o)).map (·.1)
    let n := (d.ge core).nextFwd
    let h' := { h with fwd := some (n, { coord := c.coord, core := core, num := num })
                       epochs := ((rows.map (fun r => (r.table, r.epoch))).eraseDups) }
    match d.geSend c (c.facetOfCore core) .request o.1 o.2 (16 * (rows.map (fun r => r.groups.length + 1)).foldl (· + ·) 0) (.forward h' rows) with
    | (d, true) =>
      (d.updGe core (fun g => { g with nextFwd := n + 1 })).updList core num (fun l => { l with fwds := l.fwds ++ [(n, rows)] })
    | (d, false) => (d.noRoute c o.1).loseIn core num 5 (rows.flatMap (·.groups))) d

/-- A round starts with the fates of its rows (R95). Its EMPTY rows count in `absent`, each row once (log entry 121). -/
def Dev.roundGo (c : Ctl) (d : Dev) (core : Nat) (l : InList) (fates : List (List Group × Nat × Nat × RowFate)) : Dev :=
  let rnd := (d.ge core).nextRound
  let rows := fates.filterMap (fun x => match x.2.2.2 with | .fetch w => some w | _ => none)
  let away := fates.filterMap (fun x => match x.2.2.2 with
    | .away k n shard slot =>
      some (({ table := x.2.1, epoch := ((l.h.epochs.find? (fun e => e.1 == x.2.1)).map (·.2)).getD 0, index := x.2.2.1, shard := shard, slot := slot
               groups := x.1 } : FwdRow), k, n)
    | _ => none)
  let absent := (fates.filter (fun x => x.2.2.2 == .absent)).length
  let rounds := nth 0 l.counts 1
  let d := if rounds = 1 then d.geEvent core 0 else d
  let d := fates.foldl (fun d x => match x.2.2.2 with
    | .lost flag => d.loseIn core l.num flag x.1
    | _ => d) d
  let d := (d.updGe core (fun g => { g with nextRound := rnd + 1 })).updList core l.num (fun l => { l with
    round := some rnd
    rows := rows
    counts := [nth 0 l.counts 0, rounds + 1, nth 0 l.counts 2 + away.length, nth 0 l.counts 3 + absent] })
  (d.count (baseGE core + 0x50) away.length).sendForwards c core l.num l.h away

/-- The statistics that a home owner's forwards add: to the home shard of the row. -/
def Dev.forwardStats (c : Ctl) (d : Dev) (core : Nat) (l : InList) (fates : List (List Group × Nat × Nat × RowFate)) : Dev × List (Nat × Nat × Nat × List Nat) :=
  fates.foldl (fun (acc : Dev × List (Nat × Nat × Nat × List Nat)) x => match x.2.2.2 with
    | .away .. =>
      let ep := ((l.h.epochs.find? (fun e => e.1 == x.2.1)).map (·.2)).getD 0
      let (d, e) := acc.1.geEntry c core l.h.as x.2.1
      (match e.bind (fun e => (slotOf e.1 ep).map (slotVer e.1)) with
       | some v => (d, addStats acc.2 x.2.1 ep (x.2.2.1 % v.shards) [refsOf x.1, 0, 0, 1])
       | none => (d, acc.2))
    | _ => acc) (d, [])

/-- The pool chain of an owner (R225): entry of the chain table at GE_CHAIN. -/
def Dev.chainOff (d : Dev) (core entry : Nat) : Nat := d.fld (baseGE core) 14 0 * 256 + 256 * entry

/-- The list that the owner takes up next: a forward, which is served beside the list in work, or the oldest list where it has no round running. -/
def Ge.nextList? (g : Ge) : Option InList :=
  match g.lists.find? (fun l => l.h.fwd.isSome && (l.round.isNone && !l.fwdRows.isEmpty)) with
  | some l => some l
  | none => match g.lists.find? InList.inbound with
    | some l => if l.round.isNone && !l.todo.isEmpty then some l else none
    | none => none

/-- The round of a list whose chain is known (R95): the groups taken, the groups left. -/
def Dev.roundStart (c : Ctl) (d : Dev) (core : Nat) (l : InList) : Dev :=
  if l.h.fwd.isSome then
    let (now, left) := takeFwdRound l.fwdRows
    match d.fates (fun d r => d.fwdRow c core l.h r) now with
    | (d, none) => d
    | (d, some fs) =>
      (d.updList core l.num (fun l => { l with fwdRows := left })).roundGo c core l (fs.map (fun x => (x.1.groups, x.1.table, x.1.index, x.2)))
  else
    let (now, left) := takeRound l.todo ([], 0)
    if left.isEmpty && !l.ended then d
    else
      let head := fun (gs : List Group) => gs.head?.getD {}
      match d.fates (fun d gs => d.homeRow c core l.h (head gs).table (head gs).index gs) now with
      | (d, none) => d
      | (d, some fs) =>
        let fs := fs.map (fun x => (x.1, (head x.1).table, (head x.1).index, x.2))
        let (d, st) := d.forwardStats c core l fs
        (d.updList core l.num (fun l => { l with todo := left, stats := st })).roundGo c core l fs

/-- ROW_FETCH_COMPLETE's tuple of one bag of a row (R96): multiplicity, weight sum, poison of its entries. -/
def tupleOf (mode : Nat) (l : List Group) : Nat × Nat × Bool :=
  let n := refsOf l
  let ws := l.map (·.wsum)
  let order := if (Config.weightOrder ws).isPerm ws then Config.weightOrder ws else ws
  let w := match order with
    | [] => 0
    | a :: r => r.foldl (fun x y => to32 ((f32 x).add (f32 y))) a
  (n, if mode = 1 then w else to32 (Num.ofInt n), l.any (·.poison))

/-- Bytes that a core's delivery ring holds (R97). -/
def Ge.ringBytes (g : Ge) : Nat := (g.ring.map (fun r => 16 + r.len)).foldl (· + ·) 0

/-- A record has room in a core's delivery ring. -/
def Dev.ringRoom (d : Dev) (core len : Nat) : Bool := decide ((d.ge core).ringBytes + 16 + len ≤ d.geArea core 1)

/-- The bytes of a delivery record (Table 3.8). -/
def Rec.bytes (r : Rec) : List Byte :=
  toLe 2 r.sample ++ toLe 2 r.bag ++ toLe 4 r.count ++ toLe 4 r.wsum ++ toLe 1 r.kind ++ toLe 1 r.flags ++ toLe 2 r.data.length ++ r.data

/-- The record that the bytes of a ring hold. -/
def parseRec (b : List Byte) : Rec where
  sample := le b 0 2
  bag := le b 2 2
  count := le b 4 4
  wsum := le b 8 4
  kind := byteAt b 12
  flags := byteAt b 13
  data := b.drop 16

/-- Bytes written to the delivery ring of a core at a position; they wrap at its end. -/
def Core.dlvWrite (k : Core) (base size pos : Nat) (b : List PByte) : Core :=
  let n := min b.length (size - pos)
  (k.csWrite (base + pos) (b.take n)).csWrite base (b.drop n)

/-- Bytes of the delivery ring. -/
def Core.dlvRead (k : Core) (base size pos n : Nat) : List PByte :=
  let m := min n (size - pos)
  k.csRead (base + pos) m ++ k.csRead base (n - m)

/-- The delivery ring's base in Core Store. -/
def Dev.dlvBase (d : Dev) (core : Nat) : Nat := d.fld (baseGE core + 4) 10 0 * 4096

/-- A record enters the delivery ring of a core (R97). -/
def Dev.ringPut (d : Dev) (core : Nat) (ofList : Bool) (num : Nat) (r : Rec) : Dev :=
  let pos := (d.ge core).ringPos
  let size := d.geArea core 1
  (d.updCore core (fun k => k.dlvWrite (d.dlvBase core) size pos (marked false r.bytes))).updGe core (fun g => { g with
    ring := g.ring ++ [{ ofList := ofList, num := num, pos := pos, len := r.data.length }]
    ringPos := (pos + 16 + r.data.length) % size })

/-- A record as it stands in the ring: one with a poisoned granule is poisoned (R287). -/
def Dev.ringGetRec (d : Dev) (core : Nat) (x : RingRec) : Rec :=
  let b := (d.core core).dlvRead (d.dlvBase core) (d.geArea core 1) x.pos (16 + x.len)
  let r := parseRec (plain b)
  if anyPoison b && !bit r.flags 0 then { r with flags := r.flags + 1 } else r

/-- Tuples of a row enter the ring as far as it has room (R96, R103); the groups that are left. -/
def Dev.deliverTuples (d : Dev) (core : Nat) (l : InList) (row : List PByte) : Nat → List Group → Dev × List Group
  | 0, gs => (d, gs)
  | _ + 1, [] => (d, [])
  | n + 1, g :: r =>
    if !d.ringRoom core row.length then (d, g :: r)
    else
      let same := fun (x : Group) => x.sample == g.sample && x.bag == g.bag
      let (total, w, p) := tupleOf l.h.refMode ((g :: r).filter same)
      let sat := 2 ^ 32 ≤ total
      let poison := p || anyPoison row
      let d := if sat then d.geEvent core 1 else d
      let d := if poison then d.geEvent core 2 else d
      let d := d.ringPut core true l.num {
        sample := g.sample, bag := g.bag, count := min (2 ^ 32 - 1) total, wsum := w, kind := 1
        flags := (if poison then 1 else 0) + (if sat then 2 else 0), data := plain row }
      d.deliverTuples core l row n (r.filter (fun x => !same x))

/-- The row of an unpooled list goes to the requester with its positions (R101). -/
def Dev.deliverRow (c : Ctl) (d : Dev) (core : Nat) (l : InList) (row : List PByte) (gs : List Group) : Dev :=
  let bad := gs.any (·.poison)
  let d := if bad || anyPoison row then d.geEvent core 2 else d
  let poison := (List.range (cdiv row.length 64)).map (fun i => bad || anyPoison ((row.drop (64 * i)).take 64))
  d.geRespond c (c.facetOfCore core) l.h.bk (row.length + 4 * (gs.flatMap (·.pos)).length)
    (.row l.h.bk (bagSet gs) (gs.flatMap (·.pos)) (plain row) poison)

/-- The rows that the running rounds of a core have still to deliver, as (list, row): a row that the ring has taken in part comes first. -/
def Ge.rowsOut (g : Ge) : List (InList × RowWork) :=
  let all := g.lists.flatMap (fun l => l.rows.map (fun r => (l, r)))
  all.filter (fun x => x.2.got.isSome) ++ all.filter (fun x => x.2.got.isNone)

/-- ROW_FETCH_COMPLETE (R96, R112): row n of those that are out; the first of them while the ring has taken a row in part. Bytes fetched count
64 for each granule touched (log entry 122). -/
def execRowFetchComplete (core : Fin 128) (n : Nat) (s : State) : Host.Outcome State Fault Refusal :=
  onDev s fun c d =>
    let out := (d.ge core).rowsOut
    let i := if (out.head?.map (fun x => x.2.got.isSome)).getD false then 0 else n
    match (out.drop i).head? with
    | none => d
    | some (l, w) =>
      let (d, got) := match w.got with
        | some b => (d, some b)
        | none =>
          if w.poison then (d, some (marked true (zeros w.width)))
          else match d.gePoint c core l.h.as none l.h.hint w.va w.width with
            | (d, none) => (d, none)
            | (d, some b) =>
              let d := (d.count (baseGE core + 0x4C) 1).doneOutside core 2
              (d.updList core l.num (fun l => { l with
                counts := modNth (· + 1) 0 l.counts
                stats := addStats l.stats w.table w.epoch w.shard [refsOf w.groups, 1, 64 * (granules w.va w.width).length, 0] }), some b)
      match got with
      | none => d
      | some b =>
        let put := fun (d : Dev) (gs : List Group) => d.updList core l.num (fun l => { l with
          rows := l.rows.filterMap (fun r => if r = w then (if gs.isEmpty then none else some { w with got := some b, groups := gs }) else some r) })
        if l.h.unpooled then put (d.deliverRow c core l b w.groups) []
        else
          let (d, gs) := d.deliverTuples core l b w.groups.length w.groups
          put d gs

/-- FORWARD_ACK_ARRIVAL (R98): an error makes the forward's tuples OWNER_ERROR (R398). -/
def execForwardAckArrival (core : Fin 128) (s : State) : Host.Outcome State Fault Refusal :=
  onDev s fun _ d =>
    match takeMsg (fun m => match m with | .forwardAck .. => true | _ => false) (d.ge core).inbox with
    | some (x, rest) =>
      let d := d.updGe core (fun g => { g with inbox := rest })
      (match x.m with
      | .forwardAck rcv n err counts =>
        match (d.list? core rcv.num).bind (fun l => (l.fwds.find? (fun f => f.1 == n)).map (fun f => (l, f.2))) with
        | none => d
        | some (l, rows) =>
          let d := if err ≠ 0 then d.loseIn core l.num 5 (rows.flatMap (·.groups)) else d
          d.updList core l.num (fun l => { l with
            fwds := l.fwds.filter (fun f => f.1 ≠ n)
            counts := [nth 0 l.counts 0 + nth 0 counts 0, nth 0 l.counts 1, nth 0 l.counts 2, nth 0 l.counts 3 + nth 0 counts 3] })
      | _ => d)
    | none => d

/-- The statistics of a round are added (R112); false while the GE waits, with those not yet added left in the list. -/
def Dev.writeStats (c : Ctl) (d : Dev) (core num as : Nat) : List (Nat × Nat × Nat × List Nat) → Dev × Bool
  | [] => (d, true)
  | (table, epoch, shard, v) :: r =>
    let left := fun (d : Dev) => d.updList core num (fun l => { l with stats := r })
    match d.geEntry c core as table with
    | (d, none) => (d, false)
    | (d, some (e, _)) => match slotOf e epoch with
      | none => (left d).writeStats c core num as r
      | some x =>
        let va := (slotVer e x).statVa shard
        match d.geRead c core as none 0 va 32 with
        | (d, none) => (d, false)
        | (d, some b) =>
          let sum := (List.range 4).flatMap (fun i => toLe 8 (min (2 ^ 64 - 1) (le (plain b) (8 * i) 8 + nth 0 v i)))
          match d.geWrite c core as none va (marked (anyPoison b) sum) with
          | (d, false) => (d, false)
          | (d, true) => (left d).writeStats c core num as r

/-- OWNER_ROUND_END (R95, R112): a round whose fetches are delivered and whose forwards are acknowledged. -/
def execOwnerRoundEnd (core : Fin 128) (s : State) : Host.Outcome State Fault Refusal :=
  onDev s fun c d =>
    match (d.ge core).lists.find? (fun l => l.round.isSome && (l.rows.isEmpty && l.fwds.isEmpty)) with
    | none => d
    | some l => match d.writeStats c core l.num l.h.as l.stats with
      | (d, false) => d
      | (d, true) => ((d.doneOutside core 2).updList core l.num (fun l => { l with round := none })).listCheck c core l.num

/-! ### What comes back to the requester -/

/-- A basket's bag positions zero-filled, once (R100); false while the GE waits. -/
def Dev.zeroFill (c : Ctl) (d : Dev) (core : Nat) (b : Basket) : Dev × Bool :=
  if b.zeroed || opUnpooled b.op.op then (d, true)
  else match d.geWrite c core b.op.as (some b.op.own) (bagVa b.op.op 0 0) (marked false (zeros (opSamples b.op.op * opBags b.op.op * opPos b.op.op))) with
    | (d, false) => (d, false)
    | (d, true) => (d.updBasket core b.num (fun b => { b with zeroed := true }), true)

/-- The first message of a kind taken with its basket; a message for a basket that is gone is dropped. -/
def withBasket (core : Nat) (d : Dev) (p : GeMsg → Option BasketRef) (k : Dev → Dev → Basket → GeMsg → Dev) : Dev :=
  match takeMsg (fun m => (p m).isSome) (d.ge core).inbox with
  | none => d
  | some (x, rest) =>
    let took := d.updGe core (fun g => { g with inbox := rest })
    match (p x.m).bind (fun bk => (d.ge core).baskets.find? (fun b => b.num == bk.num)) with
    | none => took
    | some b => k d took b x.m

/-- PARTIAL_ARRIVAL (R100): it waits while the ring is full, or while a row's tuples are only in part in the ring. -/
def execPartialArrival (core : Fin 128) (s : State) : Host.Outcome State Fault Refusal :=
  onDev s fun c d => withBasket core d (fun m => match m with | .partialRec bk _ => some bk | _ => none) fun d took b m =>
    match m with
    | .partialRec _ r =>
      if !d.ringRoom core r.data.length || (d.ge core).rowsOut.any (fun x => x.2.got.isSome) then d
      else match took.zeroFill c core b with
        | (_, false) => (d.zeroFill c core b).1
        | (d, true) =>
          let key := bagKey r.sample r.bag
          let first := !NatSet.has b.first key
          (d.updBasket core b.num (fun b => { b with
            first := NatSet.ins b.first key
            satBags := if bit r.flags 1 then NatSet.ins b.satBags key else b.satBags })).ringPut core false b.num
              { r with flags := if first then r.flags ||| 4 else r.flags }
    | _ => took

/-- What a flagged record adds to its basket (R102, R103). -/
def Basket.flag (b : Basket) (r : Rec) : Basket :=
  let key := bagKey r.sample r.bag
  { b with
    epochMiss := if bit r.flags 3 then NatSet.ins b.epochMiss key else b.epochMiss
    chainMissing := if bit r.flags 4 then NatSet.ins b.chainMissing key else b.chainMissing
    ownerError := if bit r.flags 5 then NatSet.ins b.ownerError key else b.ownerError }

/-- FLAGGED_RECORD_ARRIVAL (R97, R102): the record is counted and enters the delivery ring, where it waits for room as any record does; and the error
response to an index list, which counts as OWNER_ERROR for each of its bags (R398). -/
def execFlaggedRecordArrival (core : Fin 128) (s : State) : Host.Outcome State Fault Refusal :=
  onDev s fun _ d => withBasket core d (fun m => match m with | .flagged bk _ => some bk | .listError bk .. => some bk | _ => none) fun d took b m =>
    match m with
    | .flagged _ r =>
      if !d.ringRoom core r.data.length || (d.ge core).rowsOut.any (fun x => x.2.got.isSome) then d
      else (took.updBasket core b.num (fun b => b.flag r)).ringPut core false b.num r
    | .listError _ o n _ =>
      match b.open_.find? (fun x => x.1 == o && x.2.1 == n) with
      | none => took
      | some x =>
        let d := x.2.2.foldl (fun d _ => d.geEvent core 5) took
        d.updBasket core b.num (fun b => { b with
          open_ := b.open_.filter (fun y => !(y.1 == o && y.2.1 == n)), ownerError := x.2.2.foldl NatSet.ins b.ownerError })
    | _ => took

/-- LIST_END_RECORD_ARRIVAL (R99). -/
def execListEndRecordArrival (core : Fin 128) (s : State) : Host.Outcome State Fault Refusal :=
  onDev s fun _ d => withBasket core d (fun m => match m with | .listEnd bk _ _ _ => some bk | _ => none) fun _ took b m =>
    match m with
    | .listEnd _ o n counts => took.updBasket core b.num (fun b => { b with
        open_ := b.open_.filter (fun y => !(y.1 == o && y.2.1 == n))
        counts := modNth (· + nth 0 counts 3) 4 (modNth (· + nth 0 counts 0) 6 (modNth (· + nth 0 counts 1) 7 (modNth (· + nth 0 counts 2) 8 b.counts))) })
    | _ => took

/-- A row written to positions; false while the GE waits. -/
def Dev.writePositions (c : Ctl) (d : Dev) (core : Nat) (q : QOp) (b : List PByte) : List Nat → Dev × Bool
  | [] => (d, true)
  | n :: r => match d.geWrite c core q.as (some q.own) (posVa q.op n) b with
    | (d, false) => (d, false)
    | (d, true) => d.writePositions c core q b r

/-- UNPOOLED_ROW_ARRIVAL (R101). -/
def execUnpooledRowArrival (core : Fin 128) (s : State) : Host.Outcome State Fault Refusal :=
  onDev s fun c d => withBasket core d (fun m => match m with | .row bk .. => some bk | _ => none) fun d took b m =>
    match m with
    | .row _ bags pos data poison =>
      let row := (data.zipIdx.map (fun x => (x.1, nth false poison (x.2 / 64)))).take (opPos b.op.op)
      let bad := poison.contains true
      match took.writePositions c core b.op row pos with
      | (_, false) => (d.writePositions c core b.op row pos).1
      | (d, true) => (d.markIf bad b.op.own 0).updBasket core b.num (fun b => { b with
          poisonBags := if bad then bags.foldl NatSet.ins b.poisonBags else b.poisonBags
          truncated := if opPos b.op.op < data.length then b.truncated + 1 else b.truncated })
    | _ => took

/-- The report of a basket (Table 3.10). -/
def Basket.report (b : Basket) : List Byte :=
  let loss := b.poisonBags.length + b.epochMiss.length + b.chainMissing.length + b.ownerError.length + b.truncated
  reportBytes ([if loss = 0 then 0 else 1] ++ b.counts ++
    [b.poisonBags.length, b.epochMiss.length, b.chainMissing.length, b.ownerError.length, b.satBags.length,
     if opUnpooled b.op.op then b.truncated else opSamples b.op.op * opBags b.op.op - b.first.length])

/-- BASKET_COMPLETE (R103): the oldest basket of which nothing is left. -/
def execBasketComplete (core : Fin 128) (s : State) : Host.Outcome State Fault Refusal :=
  onDev s fun c d =>
    let left := fun (b : Basket) => (d.ge core).ring.any (fun r => !r.ofList && r.num == b.num) || (d.ge core).inbox.any (fun x => match x.m with
      | .partialRec bk _ => bk.num == b.num
      | .flagged bk _ => bk.num == b.num
      | .listError bk .. => bk.num == b.num
      | .row bk .. => bk.num == b.num
      | _ => false)
    match (d.ge core).baskets.find? (fun b => b.reading.isNone && (b.open_.isEmpty && !left b)) with
    | none => d
    | some b => match d.zeroFill c core b with
      | (d, false) => d
      | (d, true) => match d.geWrite c core b.op.as (some b.op.own) (opOutVa b.op.op) (marked false b.report) with
        | (d, false) => d
        | (d, true) =>
          let d := (d.updGe core (fun g => { g with baskets := g.baskets.filter (fun x => x.num ≠ b.num) })).count (baseGE core + 0x40) 1
          (((d.doneOutside core 2).geSignal c core (opBasketSync b.op.op))).opDone core b.op

end Sys2Proof.Machine
end

