-- ==== Sys2Proof/Machine/Maintenance.lean ====
section
/-! DEFINITION. Table maintenance (Embedding Tables, Baskets and Owner Pooling): the maintenance ops, puts and moves at the home owner,
versions and their retirement, the Row Directory Cache and GE registers; mirror records of table ops (Maelsol Fabric and Twinned Pairs). -/

namespace Sys2Proof.Machine

/-! ### Mirror records -/

/-- The mirror registers of a facet (Table 14.10). -/
def baseMirror (f : Nat) : Nat := baseTW + 0x100 + 0x40 * f

/-- The mirror ring of a facet (Table 14.10): its size and its place in the facet's HBM. -/
def Dev.mirrorRing (d : Dev) (f : Nat) : Nat := 2 ^ (min 10 (d.fld (baseMirror f) 3 0) + 20)
def Dev.mirrorPa (d : Dev) (f : Nat) : Nat := d.fld (baseMirror f + 4) 31 12 * 4096 + d.fld (baseMirror f + 8) 15 0 * 2 ^ 32

/-- The twin unit as a requester of a facet's mirror ring (log entry 84). -/
def whoMirror (f : Nat) : Who := { reqKind := 4, requester := 0, facet := f }

/-- A record as it stands in the ring and travels: 64 B with the op and its address space, then the data, rounded up to 64 B (R408; the layout is internal,
log entry 61). -/
def mirrorBytes (as op : Nat) (data : List Byte) : List Byte := padTo (64 + upTo data.length 64) (padTo 64 (toLe 32 op ++ toLe 2 as) ++ data)

/-- Bytes written to a facet's mirror ring from position pos on. -/
def Dev.mirrorWrite (c : Ctl) (d : Dev) (f pos : Nat) (b : List Byte) : Dev :=
  let n := d.mirrorRing f
  let a := pos % n
  let d := Dev.paPut c d (whoMirror f) (d.mirrorPa f + a) (b.take (n - a))
  if n - a < b.length then Dev.paPut c d (whoMirror f) (d.mirrorPa f) (b.drop (n - a)) else d

/-- Bytes read from a facet's mirror ring from position pos on, and whether any is poisoned. -/
def Dev.mirrorRead (c : Ctl) (d : Dev) (f pos len : Nat) : Dev × List Byte × Bool :=
  let n := d.mirrorRing f
  let a := pos % n
  let (d, b, p) := Dev.paBytes c d (whoMirror f) (d.mirrorPa f + a) (min len (n - a))
  if n - a < len then
    let (d, b', p') := Dev.paBytes c d (whoMirror f) (d.mirrorPa f) (len - (n - a))
    (d, b ++ b', p || p')
  else (d, b, p)

/-- A facet's mirror stops with a cause: 1 OVERFLOW, 2 RESYNC (R411). -/
def Dev.mirrorStop (d : Dev) (f cause : Nat) : Dev :=
  (d.updMirror f (fun m => { m with state := 2, cause := cause })).raise baseTW 3 (baseTW + 0x2C)

/-- An op of a mirroring facet that has taken effect is numbered and written into the mirror ring (R407, R408, R411). -/
def Dev.mirrorPut (c : Ctl) (d : Dev) (f as op : Nat) (data : List Byte) : Dev :=
  if !d.flag (baseMirror f) 31 then d
  else
    let m := d.mirror f
    let b := mirrorBytes as op data
    let used := (m.recs.map (·.room)).foldl (· + ·) 0
    if m.state = 2 then d.updMirror f (fun m => { m with lost := m.lost + 1 })
    else if d.mirrorRing f < used + b.length then (d.mirrorStop f 1).updMirror f (fun m => { m with lost := m.lost + 1 })
    else (d.mirrorWrite c f m.pos b).updMirror f (fun m => { m with
      recs := m.recs ++ [{ seq := m.next, pos := m.pos, room := b.length }], next := m.next + 1, pos := m.pos + b.length })

/-- This member sends one of the pair's own packets over T (R406, R409). -/
def Dev.twinSend (c : Ctl) (d : Dev) (cls : PktClass) (payload : Nat) (m : TwinMsg) : Dev :=
  if d.portUp 6 then d.inject c 6 0 cls payload (.twin m) else d

/-- The partner's record has been applied, or discarded with a status (R409): the acknowledgement leaves over T. An op that a restart record overtook
has the number 0 and is not acknowledged (R411). -/
def Dev.mirrorApplied (c : Ctl) (d : Dev) (f seq status : Nat) : Dev :=
  if seq = 0 then d else (d.updMirror f (fun m => { m with applied := seq })).twinSend c .control 11 (.ack f seq status)

/-! ### Fields of the maintenance ops (Table 3.12) -/

def mtTable (op : Nat) : Nat := opf op 2 11 0
def mtEpoch (op : Nat) : Nat := opn op 4 4
def mtIndex (op : Nat) : Nat := opf op 8 39 0
def mtResult (op : Nat) : Nat := opf op 16 51 0
def mtSync (op : Nat) : Nat := opf op 24 63 47
def mtShard (op : Nat) : Nat := opf op 24 41 20
def mtSlot (op : Nat) : Nat := opf op 24 19 0
def mtRetire (op : Nat) : Nat := opf op 24 16 0
/-- The shard and the new entry of SHARD_SET. -/
def mtSetShard (op : Nat) : Nat := opn op 8 4
def mtSetEntry (op : Nat) : Nat := opn op 12 4 * 2 ^ 32

/-- No reserved bit set and every field in range, for BAD_OP. -/
def maintOk (op : Nat) : Bool :=
  match op % 256 with
  | 0x51 => opClean op [(2, 11, 0), (4, 31, 0), (8, 39, 0), (16, 51, 0), (24, 19, 0), (24, 41, 20), (24, 63, 47)] && mtResult op % 16 == 0
  | 0x52 => opClean op [(2, 11, 0), (4, 31, 0), (8, 39, 0), (16, 51, 0), (24, 19, 0), (24, 41, 20), (24, 63, 47)]
  | 0x53 => opClean op [(2, 11, 0), (4, 31, 0), (8, 31, 0), (12, 31, 0), (16, 51, 0), (24, 63, 47)] &&
      (bits (mtSetEntry op) 61 60 == 0 && (bits (mtSetEntry op) 40 0 == 0 && bits (mtSetEntry op) 63 62 ≤ 1))
  | 0x54 => opClean op [(2, 11, 0), (4, 31, 0), (8, 51, 0), (16, 51, 0), (24, 63, 47)]
  | 0x55 => opClean op [(1, 0, 0), (2, 11, 0), (4, 31, 0), (16, 51, 0), (24, 16, 0), (24, 63, 47)]
  | _ => opClean op [(2, 11, 0), (4, 31, 0), (16, 51, 0), (24, 16, 0), (24, 63, 47)]

/-- A status that Table 3.13 marks as a violation, with the violation's kind. -/
def statusKind (st : Nat) : Option Nat :=
  match st with
  | 1 => some 3
  | 3 => some 3
  | 4 => some 4
  | 6 => some 2
  | 8 => some 4
  | _ => none

/-- The violation that a status is, with the virtual address of the registry entry or row entry concerned (R116). -/
def Dev.statusViolation (c : Ctl) (d : Dev) (core as st va : Nat) : Dev :=
  match statusKind st with
  | some k => d.violate (opViolation c core 5 k st va as)
  | none => d

/-- What running a maintenance op gives: the GE waits, an answer (old entry, status), or a message to the home owner with the put record. -/
inductive MaintRes where
  | wait
  | done (old status : Nat)
  | sent (putRec : List Byte)
  deriving DecidableEq, Repr

/-! ### Table ops -/

/-- An answer with its violation, at the registry entry of the op's table. -/
def Dev.tableAnswer (c : Ctl) (d : Dev) (core as op st : Nat) : Dev × MaintRes :=
  (d.statusViolation c core as st (d.entryVa as (mtTable op)), .done 0 st)

/-- The slot that TABLE_STAGE acts on (R84). -/
def stageSlot (e : List Byte) : Nat := if slotIn e 2 = some 0 then 1 else 0

/-- TABLE_STAGE (R84). given: the record's bytes where they do not come from rec_va. -/
def Dev.tableStage (c : Ctl) (d : Dev) (core as op : Nat) (own : Option Owner) (given : Option (List Byte)) (e : List Byte) : Dev × MaintRes :=
  match (match given with
    | some b => (d, some (marked false b))
    | none => d.geRead c core as own 0 (opf op 8 51 0) 48) with
  | (d, none) => (d, .wait)
  | (d, some r) =>
    let b := plain r
    let x := stageSlot e
    if anyPoison r then d.tableAnswer c core as op 0xA
    else if !recordOk b then d.tableAnswer c core as op 5
    else if slotState e x ≠ 0 then d.tableAnswer c core as op 4
    else if (parseVer b 0).epoch ≠ le e 0 4 + 1 || mtEpoch op ≠ (parseVer b 0).epoch then d.tableAnswer c core as op 3
    else match d.geWrite c core as none (d.entryVa as (mtTable op)) (marked false (setSlot (overlay e (0x20 + 0x30 * x) b) x 1)) with
      | (d, false) => (d, .wait)
      | (d, true) => (d.rdDrop (fun y => y.as == as && (y.table == mtTable op && y.slot == x)), .done 0 0)

/-- The launches of an address space that run bind the epoch that was ACTIVE until now, where they have bound none (R92, R104). -/
def Dev.bindAll (d : Dev) (as table epoch : Nat) : Dev :=
  d.launches.foldl (fun d x => d.updCmd x.1 x.2.seq (fun k => { k with launch := k.launch.map (fun l =>
    if l.as == as && !l.epochs.any (fun e => e.1 == table) then { l with epochs := (table, if l.closed then 0 else epoch) :: l.epochs } else l) })) d

/-- TABLE_CUTOVER (R104). -/
def Dev.tableCutover (c : Ctl) (d : Dev) (core as op : Nat) (e : List Byte) (keepSync : Bool) : Dev × MaintRes :=
  match slotIn e 1 with
  | none => d.tableAnswer c core as op 2
  | some x =>
    let y := 1 - x
    let table := mtTable op
    if (slotVer e x).epoch ≠ mtEpoch op then d.tableAnswer c core as op 3
    else if slotState e y = 3 then d.tableAnswer c core as op 4
    else
      let old := if slotState e y = 2 then le e 0 4 else 0
      let keep := opt op 1 0
      let d' := d.bindAll as table old
      let e' := setSlot (if old = 0 then e else setSlot e y 3) x 2
      let e' := overlay (overlay (overlay e' 0 (toLe 4 (mtEpoch op))) 5 [BitVec.ofNat 8 (if old ≠ 0 && keep then 1 else 0)])
        8 (toLe 4 (if old = 0 then 0 else d'.refs as table old))
      match d'.geWrite c core as none (d.entryVa as table) (marked false e') with
      | (d'', false) => ({ d'' with chans := d.chans }, .wait)
      | (d'', true) =>
        (if old = 0 then d''
         else { d'' with retiring := d''.retiring ++ [{
           as := as, table := table, epoch := old, facet := (c.asFacet as).getD 0, sync := if keepSync then some (mtRetire op) else none, keepOld := keep }] },
         .done 0 0)

/-- What the module keeps of a RETIRING version: its own record, or what the registry entry says of a version that was RETIRING already
when the registry was set (R118). -/
def Dev.retiringOf (d : Dev) (c : Ctl) (as table : Nat) (e : List Byte) : Option Retiring :=
  match d.retiring.find? (fun r => r.as == as && r.table == table) with
  | some r => some r
  | none => (slotIn e 3).map (fun x => {
      as := as, table := table, epoch := (slotVer e x).epoch, facet := (c.asFacet as).getD 0, keepOld := bit (byteAt e 5) 0 && !bit (byteAt e 5) 1 })

/-- TABLE_RELEASE (R105): VERSION_BUSY unless the named epoch is RETIRING. -/
def Dev.tableRelease (c : Ctl) (d : Dev) (core as op : Nat) (e : List Byte) (keepSync : Bool) : Dev × MaintRes :=
  let table := mtTable op
  match slotIn e 3, d.retiringOf c as table e with
    | some x, some r =>
      if (slotVer e x).epoch ≠ mtEpoch op then d.tableAnswer c core as op 4
      else match d.geWrite c core as none (d.entryVa as table) (marked false (overlay e 5 [BitVec.ofNat 8 (byteAt e 5 % 2 + 2)])) with
        | (d, false) => (d, .wait)
        | (d, true) =>
          ({ d with retiring := { r with keepOld := false, release := if keepSync then some (mtRetire op) else r.release } ::
              d.retiring.filter (fun y => !(y.as == as && y.table == table)) }, .done 0 0)
    | _, _ => d.tableAnswer c core as op 4

/-- SHARD_SET (R114). -/
def Dev.shardSet (c : Ctl) (d : Dev) (core as op : Nat) (e : List Byte) : Dev × MaintRes :=
  if slotState e 0 = 0 && slotState e 1 = 0 then d.tableAnswer c core as op 2
  else match slotOf e (mtEpoch op) with
    | none => d.tableAnswer c core as op 3
    | some x =>
      let v := slotVer e x
      let s := mtSetShard op
      if v.shards ≤ s then d.tableAnswer c core as op 7
      else match d.rdLookup c core as (mtTable op) x 0 s (v.shardVa s) with
        | (d, none) => (d, .wait)
        | (d, some (old, _)) => match d.rdWrite c core as (mtTable op) x 0 s (v.shardVa s) (mtSetEntry op) with
          | (d, false) => (d, .wait)
          | (d, true) => (d, .done old 0)

/-! ### Puts and moves at the requester -/

/-- ROW_PUT and ROW_MOVE at the core that issues them (R108, R111, R113): the checks of the version here, the put data, the message to the
home owner, which also goes where the put data are read poisoned, for the old row entry. m.op.id names the op in the answer. Where several statuses apply, the
first in the order of these checks is given (log entry 124). -/
def Dev.putSend (c : Ctl) (d : Dev) (core : Nat) (m : Maint) (given : Option (List Byte)) (e : List Byte) : Dev × MaintRes :=
  let op := m.op.op
  let as := m.op.as
  let table := mtTable op
  if slotState e 0 = 0 && slotState e 1 = 0 then d.tableAnswer c core as op 2
  else match slotOf e (mtEpoch op) with
    | none => d.tableAnswer c core as op 3
    | some x =>
      let v := slotVer e x
      let i := mtIndex op
      let home := i % v.shards
      if slotState e x = 3 then d.tableAnswer c core as op 6
      else if v.rows ≤ i || (v.shards ≤ mtShard op || v.slots ≤ mtSlot op) then d.tableAnswer c core as op 7
      else match d.rdLookup c core as table x 0 home (v.shardVa home) with
        | (d, none) => (d, .wait)
        | (d, some (s, p)) => match (if p then none else shardOwner s) with
          | none => (d, .done 0 0xB)
          | some o =>
            match (if op % 256 = 0x52 then (d, some []) else match given with
              | some b => (d, some (marked false (padTo (16 + v.width) b)))
              | none => d.geRead c core as (if m.mirror.isSome then none else some m.op.own) 0 (mtResult op) (16 + v.width)) with
            | (d, none) => (d, .wait)
            | (d, some r) =>
              let j : PutJob := {
                op := op, origin := { coord := c.coord, core := core, num := m.op.id }, mirrored := m.mirror.isSome, as := as, table := table
                epoch := mtEpoch op, index := i, shard := mtShard op, slot := mtSlot op, data := (plain r).drop 16, poison := anyPoison (r.drop 16) }
              match d.geSend c (c.facetOfCore core) .bulk o.1 o.2 j.data.length (.put j) with
              | (d, true) => (d, .sent (plain r))
              | (d, false) => (d.noRoute c o.1, .done 0 0xB)

/-- A maintenance op runs (R115, R118). A registry entry read poisoned ends it with POISON and marks its task (R290, log entry 123). given: its data where they come from a record and not from memory. -/
def Dev.maintDo (c : Ctl) (d : Dev) (core : Nat) (m : Maint) (given : Option (List Byte)) : Dev × MaintRes :=
  let op := m.op.op
  let as := m.op.as
  if m.mirror.isNone && !maintOk op then d.tableAnswer c core as op 1
  else if d.treg as = 0 then d.tableAnswer c core as op (if op % 256 = 0x56 then 4 else 2)
  else match d.geEntry c core as (mtTable op) with
    | (d, none) => (d, .wait)
    | (d, some (_, true)) => ((if m.mirror.isNone then d.mark m.op.own 0 else d), .done 0 0xA)
    | (d, some (e, false)) => match op % 256 with
      | 0x51 => d.putSend c core m given e
      | 0x52 => d.putSend c core m given e
      | 0x53 => d.shardSet c core as op e
      | 0x54 => d.tableStage c core as op (if m.mirror.isSome then none else some m.op.own) given e
      | 0x55 => d.tableCutover c core as op e m.mirror.isNone
      | _ => d.tableRelease c core as op e m.mirror.isNone

/-- The data that a mirror record of a table op carries beside the op (R408): the version record of TABLE_STAGE as it stands in the registry. -/
def Dev.stagedRecord (c : Ctl) (d : Dev) (as table : Nat) : List Byte :=
  match d.peek c as (d.entryVa as table) 128 with
  | some e => (match slotIn e 1 with
    | some x => slice e (0x20 + 0x30 * x) 48
    | none => [])
  | none => []

/-- A table op that has taken effect is mirrored (R407): TABLE_STAGE, TABLE_CUTOVER and TABLE_RELEASE, but for one that a mirror record
brought. -/
def Dev.mirrorTable (c : Ctl) (d : Dev) (m : Maint) (st : Nat) : Dev :=
  let op := m.op.op
  if st = 0 && (m.mirror.isNone && (0x54 ≤ op % 256 && op % 256 ≤ 0x56)) then
    d.mirrorPut c m.facet m.op.as op (if op % 256 = 0x54 then d.stagedRecord c m.op.as (mtTable op) else [])
  else d

/-! ### Answers -/

/-- The answer of a maintenance op is written and signalled (R116), in the Trip Log too; an op of a mirror record is acknowledged instead
(R409). false while the GE waits. -/
def Dev.maintFinish (c : Ctl) (d : Dev) (core : Nat) (m : Maint) (old st : Nat) : Dev × Bool :=
  match m.mirror with
  | some seq => (d.mirrorApplied c m.facet seq st, true)
  | none =>
    let r := toLe 8 old ++ toLe 2 st ++ zeros 6
    match d.geWrite c core m.op.as (some m.op.own) (mtResult m.op.op) (marked false r) with
    | (d, false) => (d, false)
    | (d, true) =>
      let d := d.tripFor c m.op.own 8 0 core 5 (toLe 32 m.op.op ++ r ++ m.putRec)
      let d := if st = 0 then d else d.count (baseGE core + 0x58) 1
      (((d.doneOutside core 2).geSignal c core (mtSync m.op.op)).opDone core m.op, true)

/-- Every maintenance op in flight that holds its answer ends, as far as the GE can write. -/
def Dev.maintFlush (c : Ctl) (d : Dev) (core : Nat) : Dev :=
  ((d.ge core).maint).foldl (fun d m => match m.answer with
    | none => d
    | some (old, st) => match d.maintFinish c core m old st with
      | (d, false) => d
      | (d, true) => d.updGe core (fun g => { g with maint := g.maint.filter (fun x => x.op.id ≠ m.op.id) })) d

/-- A maintenance op has run: it is in flight with its answer, or waits for the home owner. -/
def Dev.maintTook (c : Ctl) (d : Dev) (core : Nat) (m : Maint) (r : MaintRes) : Dev :=
  match r with
  | .wait => d
  | .done old st => (d.updGe core (fun g => { g with maint := g.maint ++ [{ m with answer := some (old, st) }] })).mirrorTable c m st
  | .sent b => d.updGe core (fun g => { g with maint := g.maint ++ [{ m with putRec := b }] })

/-! ### Replay of table ops (R469) -/

/-- The last TABLE_OP record that a task has reissued. -/
def Dev.lastTableOp (d : Dev) (f ch launch task : Nat) : Nat :=
  (((d.replayOf f).used.find? (fun u => (u.1, u.2.1, u.2.2.1) == (ch, launch, task + 2 ^ 32))).map (fun u => u.2.2.2)).getD 0

/-- The TABLE_OP record of an op that is replayed: its trip number and put record, or none where it has none. -/
def Dev.tableRecord (c : Ctl) (d : Dev) (q : QOp) : Dev × Option TripRec :=
  let ch := q.own.ch
  let f := (c.chFacet ch).getD 0
  let w := whoChan ch f
  let (d, h, _) := Dev.paBytes c d w (d.tripBase ch) 16
  let last := d.lastTableOp f ch (q.own.seq % 2 ^ 32) (q.own.task.getD 0)
  d.tripFind c w ch (le h 0 8) (fun r =>
    r.type == 8 && (r.launch == q.own.seq % 2 ^ 32 && (r.task == q.own.task.getD 0 && (last < r.trip && le r.body 0 32 == q.op)))) 65536 (le h 8 8)

/-- A TABLE_OP record of another task with a smaller trip number has not been reissued yet. -/
def Dev.tableEarlier (c : Ctl) (d : Dev) (q : QOp) (trip : Nat) : Bool :=
  let f := (c.chFacet q.own.ch).getD 0
  (d.replayChans c f).any (fun ch =>
    let w := whoChan ch f
    let (d, h, _) := Dev.paBytes c d w (d.tripBase ch) 16
    (d.tripFind c w ch (le h 0 8) (fun r =>
      r.type == 8 && (r.trip < trip && (!(ch == q.own.ch && (r.launch == q.own.seq % 2 ^ 32 && r.task == q.own.task.getD 0)) &&
      d.lastTableOp f ch r.launch r.task < r.trip))) 65536 (le h 8 8)).2.isSome)

/-- The op at the head of the GE queue, with opcode o, runs (R94). -/
def Dev.maintHead (c : Ctl) (d : Dev) (core o : Nat) : Dev :=
  match (d.ge core).queue with
  | [] => d
  | q :: _ =>
    if q.op % 256 ≠ o || d.withheld core q || 16 ≤ ((d.ge core).maint.filter (fun m => m.mirror.isNone)).length then d
    else
      let m : Maint := { op := q, facet := c.facetOfCore core }
      let go := fun (d : Dev) (given : Option (List Byte)) => match d.maintDo c core m given with
        | (d, .wait) => (d, false)
        | (d, r) => ((d.popOp core .ge).maintTook c core m r, true)
      if d.forced c q.own.ch 8 then
        match d.tableRecord c q with
        | (d, none) => (go d none).1
        | (d, some r) =>
          if d.tableEarlier c q r.trip then d
          else match go d (if o = 0x51 then some (r.body.drop 48) else none) with
            | (d, false) => d
            | (d, true) => d.updReplay ((c.chFacet q.own.ch).getD 0) (fun p =>
                let key := (q.own.ch, q.own.seq % 2 ^ 32, q.own.task.getD 0 + 2 ^ 32)
                { p with used := (key.1, key.2.1, key.2.2, r.trip) :: p.used.filter (fun u => (u.1, u.2.1, u.2.2.1) != key) })
      else (go d none).1

/-- A maintenance op (R94, R115): the op at the program counter enters the GE queue where there is room; the op at the head of the queue,
of the same kind, runs; answers that are due are written. -/
def maintCmd (core o : Nat) (s : State) : Host.Outcome State Fault Refusal :=
  onDev s fun c d => ((d.issue core o .ge).1.maintHead c core o).maintFlush c core

/-- ROW_PUT (R108). -/
def execRowPut (core : Fin 128) (s : State) : Host.Outcome State Fault Refusal := maintCmd core 0x51 s
/-- ROW_MOVE (R113). -/
def execRowMove (core : Fin 128) (s : State) : Host.Outcome State Fault Refusal := maintCmd core 0x52 s
/-- SHARD_SET (R114). -/
def execShardSet (core : Fin 128) (s : State) : Host.Outcome State Fault Refusal := maintCmd core 0x53 s
/-- TABLE_STAGE (R84). -/
def execTableStage (core : Fin 128) (s : State) : Host.Outcome State Fault Refusal := maintCmd core 0x54 s
/-- TABLE_CUTOVER (R104). -/
def execTableCutover (core : Fin 128) (s : State) : Host.Outcome State Fault Refusal := maintCmd core 0x55 s
/-- TABLE_RELEASE (R105). -/
def execTableRelease (core : Fin 128) (s : State) : Host.Outcome State Fault Refusal := maintCmd core 0x56 s

/-! ### Puts and moves at the home owner -/

/-- The job with a number changed. -/
def Dev.updPut (d : Dev) (core id : Nat) (f : PutJob → PutJob) : Dev :=
  d.updGe core (fun g => { g with puts := g.puts.map (fun j => if j.id == id then f j else j) })

/-- A job has ended: the core that issued it is answered. -/
def Dev.putEnd (c : Ctl) (d : Dev) (core : Nat) (j : PutJob) (old st : Nat) (abort : Bool) : Dev :=
  (d.updGe core (fun g => { g with puts := g.puts.filter (fun x => x.id ≠ j.id) })).geRespond c (c.facetOfCore core) j.origin 16
    (.putDone j.origin old st abort 0)

/-- A write by the GE of a core: none while it waits, some true where an ABORT dropped part of it (R316). -/
def Dev.geWriteAb (c : Ctl) (d : Dev) (core as va : Nat) (b : List PByte) : Dev × Option Bool :=
  match d.resolve c core 2 as va b.length true with
  | (d, none) => (d, none)
  | (d, some ps) => ((d.storePieces c (whoCore core 5 ((c.asFacet as).getD 0)) core 2 as none 0 ps b).doneOutside core 2, some (anyAborted ps))

/-- The row of a ROW_MOVE, read from its current slot (R113), wherever the address space puts it: none while the GE waits, or a status, with whether an ABORT
ended the read. -/
def Dev.moveRead (c : Ctl) (d : Dev) (core : Nat) (j : PutJob) (v : Ver) (row : Nat) : Dev × Option (List Byte ⊕ (Nat × Bool)) :=
  if j.op % 256 = 0x51 then (d, some (if j.poison then .inr (0xA, false) else .inl j.data))
  else match rowPlace row with
    | none => (d, some (.inr (9, false)))
    | some (shard, slot) =>
      match d.resolve c core 2 j.as (v.slotVa shard slot) v.width false with
      | (d, none) => (d, none)
      | (d, some ps) => match d.fetchPieces c (whoCore core 5 ((c.asFacet j.as).getD 0)) core 2 j.as none 0 ps with
        | (d, none) => (d, none)
        | (d, some b) => (d, some (if anyPoison b then .inr (0xA, anyAborted ps) else .inl (plain b)))

/-- A job writes its row (R108 step 1), or ends with a status. -/
def Dev.putWrite (c : Ctl) (d : Dev) (core : Nat) (j : PutJob) (v : Ver) (old : Nat) (o : Nat × Nat) (b : List Byte) : Dev :=
  if o.1 = c.coord then
    match d.geWriteAb c core j.as (v.slotVa j.shard j.slot) (marked false b) with
    | (d, none) => d
    | (d, some true) => d.putEnd c core j old 0xA true
    | (d, some false) => d.updPut core j.id (fun j => { j with phase := 1, old := old, acked := some true, data := b })
  else match d.geSend c (c.facetOfCore core) .bulk o.1 o.2 b.length
      (.rowData { coord := c.coord, core := core, num := j.id } j.as j.table j.epoch j.shard j.slot b) with
    | (d, true) => d.updPut core j.id (fun j => { j with phase := 1, old := old, data := b })
    | (d, false) => (d.noRoute c o.1).putEnd c core j old 0xB false

/-- A job at the home owner begins (R108, R110, R111, R113). The row entry is read for every answer that names it (R116); where several statuses apply, the
first in the order of these checks is given (log entry 124). -/
def Dev.putStart (c : Ctl) (d : Dev) (core : Nat) (j : PutJob) : Dev :=
  match d.geEntry c core j.as j.table with
  | (d, none) => d
  | (d, some (e, bad)) => match (if bad then none else slotOf e j.epoch) with
    | none => if bad then d.putEnd c core j 0 0xA false
      else (d.statusViolation c core j.as 3 (d.entryVa j.as j.table)).putEnd c core j 0 3 false
    | some x =>
      let v := slotVer e x
      let home := j.index % v.shards
      match d.rdLookup c core j.as j.table x 0 home (v.shardVa home) with
      | (d, none) => d
      | (d, some (s, sp)) =>
        if sp || shardOwner s ≠ some (c.coord, core) then d.putEnd c core j 0 0xB false
        else match d.rdLookup c core j.as j.table x 0 j.shard (v.shardVa j.shard) with
          | (d, none) => d
          | (d, some (t, tp)) => match d.rdLookup c core j.as j.table x 1 j.index (v.rowVa j.index) with
            | (d, none) => d
            | (d, some (r, rp)) =>
              if slotState e x = 3 then (d.statusViolation c core j.as 6 (d.entryVa j.as j.table)).putEnd c core j r 6 false
              else match (if tp then none else shardOwner t) with
                | none => d.putEnd c core j r 0xB false
                | some o =>
                  if rp then d.putEnd c core j r 0xA false
                  else if rowPlace r = some (j.shard, j.slot) then
                    (d.statusViolation c core j.as 8 (v.rowVa j.index)).putEnd c core j r 8 false
                  else match d.moveRead c core j v r with
                    | (d, none) => d
                    | (d, some (.inr (st, ab))) => d.putEnd c core j r st ab
                    | (d, some (.inl b)) => d.putWrite c core j v r o b

/-- Jobs on the same row. -/
def PutJob.sameRow (a b : PutJob) : Bool := a.as == b.as && (a.table == b.table && (a.epoch == b.epoch && a.index == b.index))

/-- Every queued job that no earlier job on its row holds back begins (R110). -/
def Dev.putKick (c : Ctl) (d : Dev) (core : Nat) : Dev :=
  ((d.ge core).puts.map (·.id)).foldl (fun d id =>
    let l := (d.ge core).puts
    match l.find? (fun j => j.id == id) with
    | none => d
    | some j => if j.phase = 0 && !(l.takeWhile (fun x => x.id ≠ id)).any (fun x => x.sameRow j) then (d.putStart c core j).doneOutside core 2 else d) d

/-- HOME_OWNER_PUT_ARRIVAL (R108, R110). -/
def execHomeOwnerPutArrival (core : Fin 128) (s : State) : Host.Outcome State Fault Refusal :=
  onDev s fun c d =>
    let d := match takeMsg (fun m => match m with | .put _ => true | _ => false) (d.ge core).inbox with
      | some (x, rest) =>
        let d := d.updGe core (fun g => { g with inbox := rest })
        (match x.m with
        | .put j =>
          let d := d.unusedAs c j.as x.port j.origin
          match d.ownerCheck c core j.as x.port with
          | some _ => d.geRespond c (c.facetOfCore core) j.origin 0 (.putDone j.origin 0 0xB false 1)
          | none => d.updGe core (fun g => { g with puts := g.puts ++ [{ j with id := g.nextFwd }], nextFwd := g.nextFwd + 1 })
        | _ => d)
      | none => d
    d.putKick c core

/-- The row entry after a put (Table 3.5). -/
def newRowEntry (old shard slot : Nat) : Nat := 2 ^ 62 + shard * 2 ^ 40 + slot * 2 ^ 20 + (old + 1) % 2 ^ 20

/-- The swap of a job whose row is written (R108 step 3), with its mirror record (R408). -/
def Dev.putSwap (c : Ctl) (d : Dev) (core : Nat) (j : PutJob) : Dev :=
  match d.geEntry c core j.as j.table with
  | (d, none) => d
  | (d, some (e, _)) => match slotOf e j.epoch with
    | none => (d.statusViolation c core j.as 3 (d.entryVa j.as j.table)).putEnd c core j j.old 3 false
    | some x =>
      let v := slotVer e x
      match d.rdWrite c core j.as j.table x 1 j.index (v.rowVa j.index) (newRowEntry j.old j.shard j.slot) with
      | (d, false) => d
      | (d, true) =>
        let d := d.updPut core j.id (fun y => { y with phase := 2, before := (d.ge core).nextRound })
        if j.mirrored then d
        else d.mirrorPut c (c.facetOfCore core) j.as j.op (if j.op % 256 = 0x51 then toLe 8 j.old ++ zeros 8 ++ j.data else [])

/-- ROW_WRITE_ACK (R108 steps 2 and 3): an acknowledgement from another module is taken; a job whose row is written swaps its entry, and one
whose write was refused ends with OWNER_ERROR. -/
def execRowWriteAck (core : Fin 128) (s : State) : Host.Outcome State Fault Refusal :=
  onDev s fun c d =>
    let d := match takeMsg (fun m => match m with | .rowAck .. => true | _ => false) (d.ge core).inbox with
      | some (x, rest) =>
        let d := d.updGe core (fun g => { g with inbox := rest })
        (match x.m with
        | .rowAck rcv err => d.updPut core rcv.num (fun j => { j with acked := some (err == 0) })
        | _ => d)
      | none => d
    let d := match (d.ge core).puts.find? (fun j => j.phase = 1 && j.acked.isSome) with
      | none => d
      | some j => if j.acked = some true then (d.putSwap c core j).doneOutside core 2 else d.putEnd c core j j.old 0xB false
    d.putKick c core

/-- PUT_ROUNDS_ENDED (R108 steps 4 to 6): a swapped job whose earlier rounds have ended answers; at the core that issued it the answer is
written and signalled. -/
def execPutRoundsEnded (core : Fin 128) (s : State) : Host.Outcome State Fault Refusal :=
  onDev s fun c d =>
    let g := d.ge core
    let runs := fun (n : Nat) => g.lists.any (fun l => match l.round with | some r => decide (r < n) | none => false)
    let d := match g.puts.find? (fun j => j.phase = 2 && !runs j.before) with
      | none => d
      | some j => d.putEnd c core j j.old 0 false
    let d := match takeMsg (fun m => match m with | .putDone .. => true | _ => false) (d.ge core).inbox with
      | some (x, rest) =>
        let d := d.updGe core (fun g => { g with inbox := rest })
        (match x.m with
        | .putDone rcv old st abort _ =>
          let d := match (d.ge core).maint.find? (fun (m : Maint) => m.op.id == rcv.num) with
            | some m => if m.mirror.isSome then d else (d.markIf abort m.op.own 3).markIf (st = 0xA && !abort) m.op.own 0
            | none => d
          d.updGe core (fun g => { g with maint := g.maint.map (fun (m : Maint) => if m.op.id == rcv.num then { m with answer := some (old, st) } else m) })
        | _ => d)
      | none => d
    (d.putKick c core).maintFlush c core

/-- Row data for a shard of this core (R108 step 1): false while the GE waits; the answer otherwise. -/
def Dev.rowDataWrite (c : Ctl) (d : Dev) (core as table epoch shard slot : Nat) (b : List Byte) : Dev × Option Bool :=
  match d.geEntry c core as table with
  | (d, none) => (d, none)
  | (d, some (e, _)) => match slotOf e epoch with
    | none => (d, some false)
    | some x =>
      let v := slotVer e x
      match d.rdLookup c core as table x 0 shard (v.shardVa shard) with
      | (d, none) => (d, none)
      | (d, some (s, p)) =>
        if p || (shardOwner s ≠ some (c.coord, core) || (v.shards ≤ shard || v.slots ≤ slot)) then (d, some false)
        else match d.geWriteAb c core as (v.slotVa shard slot) (marked false b) with
          | (d, none) => (d, none)
          | (d, some ab) => (d, some (!ab))

/-- REMOTE_SHARD_ROW_DATA_ARRIVAL (R108): an error response carries FACET_UNAVAILABLE, whatever its cause (log entry 131). -/
def execRemoteShardRowDataArrival (core : Fin 128) (s : State) : Host.Outcome State Fault Refusal :=
  onDev s fun c d =>
    match takeMsg (fun m => match m with | .rowData .. => true | _ => false) (d.ge core).inbox with
    | none => d
    | some (x, rest) => match x.m with
      | .rowData src as table epoch shard slot b =>
        let answer := fun (d : Dev) (ok : Bool) =>
          (d.updGe core (fun g => { g with inbox := rest })).geRespond c (c.facetOfCore core) src 0 (.rowAck src (if ok then 0 else 1))
        if (d.ownerCheck c core as x.port).isSome then answer (d.unusedAs c as x.port src) false
        else match d.rowDataWrite c core as table epoch shard slot b with
          | (d, none) => d
          | (d, some ok) => answer d ok
      | _ => d

/-! ### Retirement, the cache, registers -/

/-- VERSION_RETIRE (R105): the RETIRING version of a table, once nothing holds it. The keeper's GE reads and writes the registry entry. -/
def execVersionRetire (asp : Fin 1024) (table : Fin 4096) (s : State) : Host.Outcome State Fault Refusal :=
  onDev s fun c d =>
    let d := d.writeRefs c
    if d.treg asp = 0 then d
    else match d.geEntry c (d.keeper c asp) asp table with
      | (d, none) => d
      | (d, some (e, bad)) => (match d.retiringOf c asp table e with
        | some r => if d.mayRetire r then d.retire c r e bad else d.doneOutside (d.keeper c asp) 2
        | none => d.doneOutside (d.keeper c asp) 2)

/-- FLUSH_AS (R118): the address space that RD_FLUSH_AS names; one in no facet is a violation (R54). -/
def execFlushAs (fn : Fin 16) (s : State) : Host.Outcome State Fault Refusal :=
  onDev s fun c d => hostWrite c d fn baseRD 4 fun d =>
    if (c.asFacet (d.fld (baseRD + 4) 9 0)).isSome then d.rdDrop (fun e => e.as == d.fld (baseRD + 4) 9 0) else dropWrite d 5 fn baseRD

/-- FLUSH_ALL (R118). -/
def execFlushAll (fn : Fin 16) (s : State) : Host.Outcome State Fault Refusal :=
  onDev s fun c d => hostWrite c d fn baseRD 4 fun d => d.rdDrop (fun _ => true)

/-- The registry of an address space holds a version that is not EMPTY. -/
def Dev.registryUsed (c : Ctl) (d : Dev) (as : Nat) : Bool :=
  d.treg as ≠ 0 && (List.range 4096).any (fun t => match d.peek c as (d.entryVa as t) 128 with
    | some e => slotState e 0 ≠ 0 || slotState e 1 ≠ 0
    | none => false)

/-- A write of RD_TREG (R118). -/
def rdTregWrite (c : Ctl) (d : Dev) (fn as : Nat) (high : Bool) (val : Nat) : Dev :=
  let off := baseTreg as + (if high then 4 else 0)
  hostWrite c d fn off 4 fun d =>
    if d.registryUsed c as then dropWrite d 4 fn off
    else
      let d := (writeFields d off val).rdDrop (fun e => e.as == as)
      d.launches.foldl (fun d x => d.updCmd x.1 x.2.seq (fun k => { k with launch := k.launch.map (fun l =>
        if l.as == as then { l with closed := true } else l) })) d

/-- RD_TREG_WRITE (R118). -/
def execRdTregWrite (fn : Fin 16) (asp : Fin 1024) (high : Bool) (val : Word) (s : State) : Host.Outcome State Fault Refusal :=
  onDev s fun c d => rdTregWrite c d fn asp high val.toNat

/-- A write of GE_CHAIN (area 0), GE_DLV, GE_ACC or GE_MAP (R117). -/
def geAreaWrite (c : Ctl) (d : Dev) (fn core area val : Nat) : Dev :=
  let off := baseGE core + 4 * area
  hostWrite c d fn off 4 fun d =>
    let top := if area = 0 then bits val 14 0 * 256 + 64 * 256 else (bits val 10 0 + bits val 26 16) * 4096
    if !(d.ge core).baskets.isEmpty || (d.ge core).lists.any (fun l => l.h.fwd.isNone) then dropWrite d 4 fn off
    else if storeBytes < top then dropWrite d 1 fn off
    else writeFields d off val

/-- GE_AREA_WRITE (R117). -/
def execGeAreaWrite (fn : Fin 16) (core : Fin 128) (area : Fin 4) (val : Word) (s : State) : Host.Outcome State Fault Refusal :=
  onDev s fun c d => geAreaWrite c d fn core area val.toNat

end Sys2Proof.Machine
end

