-- ==== Sys2Proof/Machine/Schedule.lean ====
section
/-! DEFINITION. Commands of the dispatcher (Serving Schedule and Preemption): placement, preemption, resume. -/

namespace Sys2Proof.Machine

/-- A core is free (R376): ready, no task, its clock not relocking. -/
def coreFree (c : Ctl) (d : Dev) (n : Nat) : Bool :=
  coreReady c d n && ((d.seq n).task.isNone && !(nth {} c.margins (c.phys n)).relock)

/-- A ready task may run on a core. -/
def Ready.mayRun (c : Ctl) (r : Ready) (n : Nat) : Bool := c.coreFacet n == some r.facet && (r.task.named = 0xFF || r.task.named = n)

/-- In replay, the core on which the task was placed (R469). -/
def recordedCore (c : Ctl) (d : Dev) (r : Ready) : Option TripRec :=
  if d.forced c r.task.own.ch 4 then (d.nextDecision c r.task.own).2.filter (fun x => x.type == 4) else none

/-- A ready task goes to core n: it may run there, no lower free core takes a task that names any core, and replay places it there, or
finds that it diverges. -/
def Ready.goesTo (c : Ctl) (d : Dev) (r : Ready) (n : Nat) : Bool :=
  r.mayRun c n &&
  (if d.forced c r.task.own.ch 4 then
    match recordedCore c d r with
    | some x => x.core == n || !coreReady c d x.core
    | none => true
   else r.task.named ≠ 0xFF || !((c.facetCores r.facet).any (fun m => m < n && coreFree c d m)))

/-- The highest level of a list. -/
def topLevel (l : List Nat) : Option Nat :=
  match l with
  | [] => none
  | a :: r => some (r.foldl max a)

/-- A task starts on a core: SQ, ME, MVP and VE tile counts and the live mask start anew. -/
def Dev.startTask (d : Dev) (n : Nat) (t : Task) : Dev :=
  { d.updCore n (fun k => { k with
      seq := { k.seq with task := some { t with placed := d.placed }, buf := [], wait := .none, stopping := false }
      me := { k.me with tile := 0 }
      mv := { k.mv with tile := 0 }
      ve := { k.ve with tile := 0, live := 0 } }) with placed := d.placed + 1 }

/-- The dispatcher places a ready task on a core (R376, R466, R469, R470). -/
def Dev.placeTask (c : Ctl) (d : Dev) (n : Nat) (i : Nat) (r : Ready) : Dev :=
  let d := { d with ready := d.ready.eraseIdx i }
  let t := r.task
  let body := toLe 8 t.pc ++ toLe 1 t.gen ++ toLe 1 t.level ++ zeros 2 ++ toLe 4 t.parent
  let d := d.updOwnCmd t.own (fun k => { k with tasks := min (2 ^ 32 - 1) (k.tasks + 1) })
  if d.forced c t.own.ch 4 then
    match recordedCore c d r with
    | some x =>
      if x.core == n then (d.tookDecision c t.own x.trip).startTask n t
      else (d.diverge r.facet t.own.ch x.trip 3).taskGone t 0xB
    | none => (d.divergeAt r.facet t.own.ch (d.nextDecision c t.own).2).taskGone t 0xB
  else (d.tripFor c t.own 4 0 n 0xFF body).startTask n t

/-! ### Resume -/

/-- Save areas (R379): the slot of a level, its first 4 KiB for the task state, then 4 KiB for each register (log entry 16). -/
def Dev.saveSlot (d : Dev) (n level : Nat) : Nat := d.fld (baseSQ n + 0x80) 10 0 * 4096 + level * 132 * 1024

/-- Some granule of [a, a + len) of a core's store is poisoned. -/
def Core.storePoison (k : Core) (a len : Nat) : Bool := k.poison.any (fun g => a ≤ 64 * g && 64 * g < a + len)

/-- The dispatcher resumes a saved task (R382): withdrawn ops return to their queues, the stopped DMA op goes on from its progress, the
live registers come back, the ME rebuilds its sets if another task has used it. -/
def Dev.resumeTask (d : Dev) (n : Nat) (v : Saved) : Dev :=
  let k := d.core n
  let slot := d.saveSlot n v.level
  let bad := k.storePoison slot 4096
  let rows := (bitsOf 32 v.live).flatMap (fun t => (List.range 32).filterMap (fun r =>
    if k.storePoison (slot + 4096 + 4096 * t + 128 * r) 128 then some (32 * t + r) else none))
  let ops := if bad then [] else v.ops
  let gone := if bad then v.ops.map (·.2.id) else []
  let runs := if bad then [] else v.dma
  let k := ops.foldl (fun k (x : Eng × QOp) => k.setEngQueue (k.engQueue x.1 ++ [x.2]) x.1) k
  let t := if bad then { v.task with ending := true, status := if v.task.status = 0 then 9 else v.task.status } else v.task
  let k := { k with
    seq := { k.seq with
      task := some t, buf := [], wait := if bad then .none else v.wait, stopping := false, deferred := k.seq.deferred ++ v.deferred
      outst := k.seq.outst.filter (fun x => !gone.contains x.id) }
    me := { k.me with tile := v.meTile, reload := if k.me.issues = v.meIssues && !v.meStale then none else some (v.meActive, v.meShadow) }
    mv := { k.mv with tile := v.mvTile }
    ve := { k.ve with tile := v.veTile, live := v.live, regs := v.regs, regPoison := rows.foldl NatSet.ins v.regPoison }
    dma := { k.dma with runs := k.dma.runs ++ runs }
    saved := k.saved.filter (fun s => s.level ≠ v.level) }
  let f := fun (d : Dev) => match v.wait with
    | .sync o eq x => if bad then d else d.waitOn n o x eq
    | _ => d
  let d := ((d.setCore n k).count (baseSQ n + 0x94) 1).count (baseVE n + 0x60) (4 * popCount 32 v.live)
  (f d).markIf bad v.task.own 0

/-- The resume that a free core makes: its counts in the facet. -/
def Dev.resumeOn (c : Ctl) (d : Dev) (n : Nat) (v : Saved) : Dev :=
  (d.resumeTask n v).count (baseFE + 0x109008 + 0x40 * c.facetOfCore n) 1

/-- What a free core does next (R376): the saved task to resume, or the ready task to place with its position. -/
inductive NextWork where
  | resume (v : Saved)
  | place (i : Nat) (r : Ready)
  | nothing
  deriving DecidableEq, Repr

/-- R376. -/
def nextWork (c : Ctl) (d : Dev) (n : Nat) : NextWork :=
  let k := d.core n
  let mine := d.ready.filter (fun r => r.goesTo c d n)
  match topLevel (mine.map (fun r => r.task.level) ++ k.saved.map (·.level)) with
  | none => .nothing
  | some h => match k.saved.find? (fun v => v.level == h) with
    | some v => .resume v
    | none => match findIdx (fun r : Ready => r.goesTo c d n && r.task.level == h) d.ready with
      | none => .nothing
      | some i => .place i (nth {} d.ready i)

/-- TASK_PLACE (R376). -/
def execTaskPlace (core : Fin 128) (s : State) : Host.Outcome State Fault Refusal :=
  onDev s fun c d =>
    if !coreFree c d core then d
    else match nextWork c d core with
      | .resume v => d.resumeOn c core v
      | .place i r => d.placeTask c core i r
      | .nothing => d

/-- TASK_RESUME (R382): the same choice where it falls on a saved task. -/
def execTaskResume (core : Fin 128) (s : State) : Host.Outcome State Fault Refusal :=
  onDev s fun c d =>
    if !coreFree c d core then d
    else match nextWork c d core with
      | .resume v => d.resumeOn c core v
      | _ => d

/-! ### Preemption -/

/-- A core may be the victim of a request of level h (R377). -/
def victimOk (c : Ctl) (d : Dev) (r : Ready) (n : Nat) : Bool :=
  r.mayRun c n && (coreReady c d n && (d.flag (baseSQ n + 0x80) 31 && match (d.seq n).task with
    | some t => t.level < r.task.level && !(d.seq n).stopping
    | none => false))

/-- Core n comes before core m as a victim: lowest level, then most recently placed, then highest number. -/
def victimBefore (d : Dev) (n m : Nat) : Bool :=
  let a := ((d.seq n).task).getD {}
  let b := ((d.seq m).task).getD {}
  if a.level ≠ b.level then a.level < b.level else if a.placed ≠ b.placed then b.placed < a.placed else m < n

/-- The victim among cores. -/
def victimOf (d : Dev) : List Nat → Option Nat
  | [] => none
  | n :: r => match victimOf d r with
    | none => some n
    | some m => if victimBefore d n m then some n else some m

/-- PREEMPT_REQUEST (R377, R378): the n-th ready task finds no free core. A WAIT or FENCE of the victim is suspended at once. -/
def execPreemptRequest (n : Nat) (s : State) : Host.Outcome State Fault Refusal :=
  onDev s fun c d =>
    match (d.ready.drop n).head? with
    | none => d
    | some r =>
      let cores := c.facetCores r.facet
      if r.asked || cores.any (fun m => r.mayRun c m && coreFree c d m) then d
      else match victimOf d (cores.filter (fun m => victimOk c d r m)) with
        | none => d
        | some m =>
          { d.updSeq m (fun q => { q with stopping := true }) with
            ready := modNth (fun r => { r with asked := true, core := m }) n d.ready }

/-- Every engine of a core has reached the state of Table 13.1 for its running task. The DMA engine ends the 4 KiB that it has begun, and an op
that has issued all its bytes completes, unless it waits for a landing ring. -/
def Core.settled (k : Core) : Bool :=
  let mine := fun (r : DmaRun) => k.dma.queue.any (fun q => q.id == r.id && q.own.task.isSome)
  k.me.started.isEmpty && (k.me.groups.isEmpty && ((k.mv.run.isNone && k.mv.drain.isNone) && (!k.ve.running &&
    !(k.dma.runs.any (fun r => mine r && (r.moving || (r.issued && r.relay.isEmpty)))))))

/-- The running task goes into its save slot (R378, R379): its ops that have not started are withdrawn; the slot's layout is internal, so
that its bytes are free values. -/
def Dev.saveTask (d : Dev) (n : Nat) (t : Task) : Dev :=
  let k := d.core n
  let mine := fun (e : Eng) => (k.engQueue e).filter (fun q => q.own = t.own)
  let ops := [Eng.me, .mv, .ve, .xp, .ge, .dma].flatMap (fun e => (mine e).map (fun q => (e, q)))
  let live := k.ve.live
  let rec_ := k.me.reload.getD (k.me.active, k.me.shadow)
  let v : Saved := {
    level := t.level, task := t, live := live
    regs := k.ve.regs.filter (fun e => bit live (e.1 / 1024))
    regPoison := k.ve.regPoison.filter (fun r => bit live (r / 32))
    ops := ops
    deferred := k.seq.deferred.filter (fun x => x.own = t.own)
    wait := k.seq.wait
    dma := k.dma.runs.filter (fun r => ops.any (fun o => o.2.id == r.id))
    meActive := rec_.1, meShadow := rec_.2, meIssues := k.me.issues, meStale := k.me.reload.isSome
    meTile := k.me.tile, mvTile := k.mv.tile, veTile := k.ve.tile }
  let k := [Eng.me, .mv, .ve, .xp, .ge, .dma].foldl (fun k e => k.setEngQueue ((k.engQueue e).filter (fun q => q.own ≠ t.own)) e) k
  let (d, b) := d.freeBytes (132 * 1024)
  let k := k.csWrite (d.saveSlot n t.level) (marked false b)
  let row := fun (r : Nat) => (d.saveSlot n t.level + 4096 + 128 * r) / 64
  let k := { k with poison := v.regPoison.foldl (fun p r => NatSet.ins (NatSet.ins p (row r)) (row r + 1)) k.poison }
  let k := { k with
    seq := { k.seq with
      task := none, buf := [], wait := .none, stopping := false, deferred := k.seq.deferred.filter (fun x => x.own ≠ t.own) }
    me := { k.me with reload := none }
    dma := { k.dma with runs := k.dma.runs.filter (fun r => !ops.any (fun o => o.2.id == r.id)) }
    saved := v :: k.saved }
  { d.setCore n k with ready := d.ready.map (fun (r : Ready) => if r.asked && r.core == n then { r with asked := false, core := 0xFF } else r) }

/-- PREEMPT_SAVE (R317, R378 to R380): once every engine has settled and no requester of the core waits on a fault, the task is saved and the core is free. latency: of the preemption, in core
cycles. -/
def execPreemptSave (core : Fin 128) (latency : Nat) (s : State) : Host.Outcome State Fault Refusal :=
  onDev s fun c d =>
    let b := baseSQ core
    match (d.seq core).task with
    | none => d
    | some t =>
      if !(d.seq core).stopping || (!(d.core core).settled || d.coreFaults core) then d
      else
        let d := (d.saveTask core t).count (baseVE core + 0x60) (4 * popCount 32 (d.core core).ve.live)
        let d := d.raise (b + 0x84) 0 (b + 0x88)
        let l := min latency (2 ^ 32 - 1)
        ((d.setReg (b + 0x8C) l).setReg (b + 0x90) (max (d.reg (b + 0x90)) l)).count (baseFE + 0x109004 + 0x40 * c.facetOfCore core) 1

end Sys2Proof.Machine
end

