-- ==== Sys2Proof/Machine/Quarantine.lean ====
section
/-! DEFINITION. The violation log, quarantine of a core, the Trip Log's registers and replay control (Violations, Recovery, Replay and
Guarantees). -/

namespace Sys2Proof.Machine

/-! ### Violation log -/

/-- The bytes of a log entry (Table 17.2). -/
def Violation.bytes (v : Violation) (seq ltc : Nat) : List Byte :=
  toLe 4 seq ++ toLe 1 v.kind ++ toLe 1 v.block ++ toLe 2 v.code ++ toLe 1 v.reqKind ++ toLe 1 v.addrKind ++ toLe 1 v.facet ++ toLe 1 0 ++
  toLe 4 v.requester ++ toLe 8 v.address ++ toLe 4 v.aux ++ toLe 4 ltc

/-- The control window offset of the log entry with number s (R456). -/
def logOff (s : Nat) : Nat := baseRG + 0x8000 + 0x20 * (s % 1024)

/-- The words of an entry written at an offset, in order. -/
def Dev.putWords (d : Dev) (off : Nat) (b : List Byte) : Nat → Dev
  | 0 => d
  | n + 1 => (d.putWords off b n).setReg (off + 4 * n) (le b (4 * n) 4)

/-- VIOLATION_LOG_WRITE (R456, R458). -/
def execViolationLogWrite (s : State) : Host.Outcome State Fault Refusal :=
  onDev s fun _ d =>
    match d.vqueue with
    | [] => d
    | v :: rest =>
      let n := d.reg (baseRG + 0x10)
      (({ d with vqueue := rest }.putWords (logOff n) (v.bytes n d.ltc) 8).setReg (baseRG + 0x10) (w32 (n + 1))).irq 4145

/-- An entry that is no violation joins the logger's queue, or is counted lost (R457, R458). -/
def Dev.logEntry (d : Dev) (v : Violation) : Dev :=
  if d.vqueue.length < 64 then { d with vqueue := d.vqueue ++ [v] } else d.count (baseRG + 0x14) 1

/-! ### Quarantine (Tables 17.5 and 17.6) -/

/-- The ready bits of cores. -/
def readyCores (c : Ctl) (d : Dev) : List Nat := (List.range 128).filter (fun n => coreReady c d n)

/-- What stays of a core whose sequencer and engines have stopped: Core Store, TLB, ring positions, the numbers that it has given out, and
the ops that the block runs for mirror records. -/
def Core.stopped (k : Core) : Core :=
  { store := k.store, poison := k.poison, tlb := k.tlb, arrived := k.arrived, readPos := k.readPos, freed := k.freed, quar := k.quar
    seq := { nextId := k.seq.nextId }
    ge := { nextList := k.ge.nextList, nextRound := k.ge.nextRound, nextFwd := k.ge.nextFwd
            maint := k.ge.maint.filter (fun (m : Maint) => m.mirror.isSome)
            inbox := k.ge.inbox.filter (fun (x : InMsg) => x.m.ofMirror) } }

/-- A core as a release leaves it (R464): Core Store zeroed, TLB empty, sets invalid, registers +0, slots empty. -/
def Core.cleared (k : Core) : Core := { k.stopped with store := [], poison := [], tlb := [] }

/-- A sync object is released and poisoned; its waiters end with SYNC_POISON (R364, R461). -/
def Dev.poisonSync (d : Dev) (o : Nat) : Dev :=
  let d := { d with sync := Sparse.upd {} d.sync o (fun (x : SyncObj) => { x with owner := none, mirror := false, poison := true }) }
  let waits := (List.range 128).filter (fun n => match (d.seq n).wait with
    | .sync o' _ _ => o' == o
    | _ => false)
  let d := waits.foldl (fun d n => (d.waitEnds n).endWith n 8) d
  (d.syncWaits o).foldl (fun d w => d.finishWith w.1 w.2.seq 8) d

/-- The sync objects that a core owns, ascending. -/
def Dev.ownedBy (d : Dev) (n : Nat) : List Nat := (d.sync.filter (fun (e : Nat × SyncObj) => e.2.owner == some n)).map (·.1)

/-- Relay transfers at a core: its own are given up, the others pass on and count this core as landed (R461 phase 2). -/
def Dev.relayPass (d : Dev) (n : Nat) : Dev :=
  let k := d.core n
  let ids := (k.dma.queue ++ (k.saved.flatMap (fun v => (v.ops.filter (fun o => o.1 = .dma)).map (·.2)))).map (·.id)
  let d := ids.foldl (fun d i => d.cancelRelay n i) d
  (k.landing.filter (fun x => x.src ≠ n)).foldl (fun d x => (d.relayTo x.src x.id x.left x.next x.data).relayLanded x.src x.id n) d

/-- Commands whose own transfer a core carries: COPY, BATCH, and LAUNCH with its argument write. -/
def Dev.cmdsOn (d : Dev) (n : Nat) : List Owner :=
  ((d.core n).dma.queue.filter (fun q => q.own.task.isNone)).map (·.own) ++
  d.chans.flatMap (fun (e : Nat × Channel) => (e.2.cmds.filter (fun k => k.phase = .running && (k.core = n &&
    (byteAt k.raw 2 == 2 || byteAt k.raw 2 == 3)))).map (fun k => { ch := e.1, seq := k.seq }))

/-- Such a command ends with ABORTED (log entry 70). -/
def Dev.abortCmd (c : Ctl) (d : Dev) (o : Owner) : Dev :=
  match d.cmd? o.ch o.seq with
  | none => d
  | some k => if k.phase ≠ .running then d
    else if byteAt k.raw 2 = 1 then d.argsFailed c o.ch o.seq 0xB
    else d.finishWith o.ch o.seq 0xB

/-- Phase 3: running, saved and queued tasks of a core end with ABORTED. -/
def Dev.endCoreTasks (c : Ctl) (d : Dev) (n : Nat) : Dev :=
  let cmds := d.cmdsOn n
  let saved := (d.core n).saved
  let d := match (d.seq n).task with
    | some t => d.endTask n t 0xB
    | none => d
  let d := saved.foldl (fun d v => d.dropSaved n v) d
  let mine := d.ready.filter (fun r => r.task.named = n)
  let d := { d with ready := d.ready.filter (fun r => r.task.named ≠ n) }
  let d := mine.foldl (fun d r => d.taskGone r.task 0xB) d
  let d := cmds.foldl (fun d o => d.abortCmd c o) d
  (saved.map (·.task.own.ch)).foldl (fun d ch => d.abortCheck ch) d

/-- The Gather Engine's part of phases 2 and 4: lists, forwards, puts and requests held are answered with FACET_UNAVAILABLE, responses
discarded and counted, baskets discarded. -/
def Dev.endCoreGather (c : Ctl) (d : Dev) (n : Nat) (g : Ge) : Dev :=
  let f := c.facetOfCore n
  let d := g.lists.foldl (fun d l => match l.h.fwd with
    | none => d.geRespond c f l.h.bk 0 (.listError l.h.bk c.coord n 1)
    | some (k, rcv) => d.geRespond c f rcv 0 (.forwardAck rcv k 1 [0, 0, 0, 0])) d
  let d := g.puts.foldl (fun d j => d.geRespond c f j.origin 0 (.putDone j.origin 0 0xB false 1)) d
  (g.inbox.filter (fun (x : InMsg) => !x.m.ofMirror)).foldl (fun d x => d.putMsg c n x.port x.m) d

/-- Fault entries, walks and invalidations forget a core's requesters (R318, Table 17.6); an entry left with no waiter is freed. -/
def Dev.forgetCore (c : Ctl) (d : Dev) (n : Nat) : Dev :=
  let d := { d with xl := { d.xl with tableWait := d.xl.tableWait.filter (fun y => y.who / 4 ≠ n) } }
  let d := d.openFaults.foldl (fun d (x : Nat × FaultEntry) =>
    let w := x.2.waiters.filter (fun y => y.1 / 4 ≠ n)
    if w.length = x.2.waiters.length then d
    else d.setFault x.1 (if w.isEmpty then none else some (x.2.withWaiters w))) d
  let ids := (d.hl.ext.filter (fun e => e.who / 4 = n)).map (·.id)
  { d with
    hl := { d.hl with ext := d.hl.ext.filter (fun e => !(e.who / 4 = n && e.answer.isSome)) }
    xl := { d.xl with
      walks := d.xl.walks.map (fun (w : Walk) => { w with
        waiters := w.waiters.filter (fun y => y.1 / 4 ≠ n), scouts := w.scouts.filter (· ≠ n) })
      aborted := d.xl.aborted.filter (fun y => y.1 / 4 ≠ n)
      got := d.xl.got.filter (fun y => y.who / 4 ≠ n)
      scouted := d.xl.scouted.filter (fun y => y.1 / 4 ≠ n)
      invs := d.xl.invs.map (fun (v : Inval) => { v with waits := v.waits.filter (fun i => !ids.contains i) }) } }.openWaiting c

/-- The owners of tasks on a core, one for each channel. -/
def tripOwners : List Owner → List Nat → List Owner
  | [], _ => []
  | o :: r, seen => if seen.contains o.ch then tripOwners r seen else o :: tripOwners r (o.ch :: seen)

/-- Quarantine of a core with a cause (R460 to R463); a cause for a core that is quarantined, or being so, only counts. -/
def Dev.quarantine (c : Ctl) (d : Dev) (n cause : Nat) : Dev :=
  let k := d.core n
  if (c.coreFacet n).isNone then d
  else if k.quar.phase ≠ .none then d.raise baseRG 1 (baseRG + 8)
  else
    let d := if coreReady c d n then d.readyLost else d
    let owners := tripOwners ((k.seq.task.toList ++ k.saved.map (·.task)).map (·.own)) []
    let d := d.updCore n (fun k => { k with quar := { k.quar with cause := cause, phase := .releasing } })
    let d := ((d.relayPass n).endCoreTasks c n).updCore n Core.stopped
    let d := ((d.endCoreGather c n k.ge).forgetCore c n)
    let d := ((k.ge.lists.map (·.h.as)).eraseDups).foldl (fun d a => d.putRefs c a) d
    let owned := d.ownedBy n
    let d := owned.foldl Dev.poisonSync d
    let d := d.updCore n (fun k => { k with quar := { k.quar with phase := .quarantined, released := min 0xFFFF owned.length } })
    let d := (d.raise baseRG 1 (baseRG + 8)).logEntry
      { kind := 7, block := 0x10, code := cause, reqKind := 1, addrKind := 0, facet := c.facetOfCore n, requester := n * 256, address := baseCore n }
    owners.foldl (fun d o => d.tripFor c o 9 0 n 0xFF (toLe 1 (c.phys n) ++ toLe 1 cause ++ zeros 14)) d

/-- QUARANTINE (R460): a write of RG_QUAR_CTRL with the core and the quarantine bit. -/
def execQuarantine (fn : Fin 16) (core : Fin 128) (s : State) : Host.Outcome State Fault Refusal :=
  onTasks s fun c d => hostWrite c d fn (baseRG + 0x200) 4 fun d => (d.setFld (baseRG + 0x200) 6 0 core).quarantine c core 1

/-- MACHINE_CHECK (R460). -/
def execMachineCheck (core : Fin 128) (s : State) : Host.Outcome State Fault Refusal := onTasks s fun c d => d.quarantine c core 2

/-- RELEASE (R464): BIST starts on a quarantined core. -/
def execRelease (fn : Fin 16) (core : Fin 128) (s : State) : Host.Outcome State Fault Refusal :=
  onDev s fun c d => hostWrite c d fn (baseRG + 0x200) 4 fun d =>
    (d.setFld (baseRG + 0x200) 6 0 core).updCore core (fun k =>
      if k.quar.phase = .quarantined then { k with quar := { k.quar with phase := .testing } } else k)

/-- RELEASE_BIST_END (R464). -/
def execReleaseBistEnd (core : Fin 128) (ok : Bool) (s : State) : Host.Outcome State Fault Refusal :=
  onAll s fun c d =>
    if (d.core core).quar.phase ≠ .testing then (c, d)
    else
      ({ c with bistFail := setBit c.bistFail (c.phys core) (!ok) },
       { d.updCore core (fun k => { (if ok then k.cleared else k) with quar := { k.quar with phase := if ok then .none else .quarantined } }) with
         hl := { d.hl with ext := if ok then d.hl.ext.filter (fun e => e.who / 4 ≠ core.val) else d.hl.ext } })

/-! ### Trip Log registers -/

/-- A write of a word of TL_CH (R465): dropped and logged while the mode is not OFF, unless it sets OFF, and where it sets the reserved mode.
Setting RECORD starts the ring anew. -/
def tlChWrite (c : Ctl) (d : Dev) (fn ch : Nat) (high : Bool) (val : Nat) : Dev :=
  let off := baseTlCh ch + (if high then 4 else 0)
  hostWrite c d fn off 4 fun d =>
    let mode := bits val 31 30
    if d.tripMode ch ≠ 0 && (high || mode ≠ 0) then dropWrite d 4 fn off
    else if !high && mode = 3 then dropWrite d 3 fn off
    else
      let was := d.tripMode ch
      let d := writeFields d off val
      if high || (mode ≠ 1 || was = 1) then d
      else
        let w := whoChan ch ((c.chFacet ch).getD 0)
        Dev.paPut c (Dev.paPut c (d.setRing ch {}) w (d.tripBase ch) (zeros 8)) w (d.tripBase ch + 16) (zeros 8)

/-- TL_CH_WRITE (R465). -/
def execTlChWrite (fn : Fin 16) (ch : Fin 4096) (high : Bool) (val : Word) (s : State) : Host.Outcome State Fault Refusal :=
  onDev s fun c d => tlChWrite c d fn ch high val.toNat

/-- TL_REPLAY of a facet. -/
def baseReplay (f : Nat) : Nat := baseTL + 0x100 + 0x10 * f

/-- Why a go is refused (R468); 0 where it is accepted. A facet that a Trail Map load holds DRAINED stays so (R78). -/
def Dev.goRefusal (c : Ctl) (d : Dev) (f : Nat) : Nat :=
  if c.fstate f ≠ .drained || c.load.isSome then 1
  else if d.flag (baseTW + 0x100 + 0x40 * f) 31 then 2
  else if (List.range (c.facet f).chanCount).any (fun i => d.tripMode ((c.facet f).chanFirst + i) = 1) then 3
  else 0

/-- GO (R468): the facet returns to RUNNING and its REPLAY rings are taken from their start. -/
def execGo (fn : Fin 16) (f : Fin 16) (s : State) : Host.Outcome State Fault Refusal :=
  onAll s fun c d =>
    let (d, ok) := checkWrite c d fn (baseReplay f) 4
    if !ok then (c, d)
    else
      let e := d.goRefusal c f
      if e ≠ 0 then (c, d.updReplay f (fun r => { r with code := e }))
      else
        ({ c with facetState := modNth (fun _ => .running) f c.facetState },
         d.updReplay f (fun r => { r with state := 1, code := 0, forced := 0, pos := [], used := [], stopping := false }))

/-- STOP (R470): replay ends at the next command boundary. -/
def execStop (fn : Fin 16) (f : Fin 16) (s : State) : Host.Outcome State Fault Refusal :=
  onDev s fun c d => hostWrite c d fn (baseReplay f) 4 fun d =>
    d.updReplay f (fun r => if r.state = 1 then { r with stopping := true } else r)

end Sys2Proof.Machine
end

