-- ==== Sys2Proof/Machine/Ageing.lean ====
section
/-! DEFINITION. Ageing monitors, the margin plan and the history ring (Bring-up, Ageing and Margin Re-planning). -/

namespace Sys2Proof.Machine

/-- The margin of a physical core in effect. -/
def Ctl.margin (c : Ctl) (p : Nat) : CoreMargin := nth {} c.margins p
def Ctl.updMargin (c : Ctl) (p : Nat) (f : CoreMargin → CoreMargin) : Ctl := { c with margins := modNth f p c.margins }
/-- A margin in effect as a MARGIN entry. -/
def CoreMargin.entry (m : CoreMargin) : Margin := { vOff := m.vOff, vCeil := m.vCeil, fBin := m.fBin }
/-- The overlay of a physical core in flash set (R450). -/
def Ctl.setOverlay (c : Ctl) (p : Nat) (m : Margin) : Ctl := { c with flash := { c.flash with overlay := Sparse.set {} c.flash.overlay p m } }

/-- The physical cores that a measurement measures: those that logical cores stand on (R444). -/
def Ctl.measured (c : Ctl) : List Nat := if c.map.isSome then (List.range 132).filter (fun p => c.tm.coreMap.contains p) else []

/-- The logical core on a physical core. -/
def Ctl.logical (c : Ctl) (p : Nat) : Option Nat := findIdx (· == p) c.tm.coreMap

/-! ### Margin plan -/

/-- One pass of R446 over a measured core: a voltage step and its re-measurement, or a pending bin, and a proposal. -/
def marginStep (c : Ctl) (d : Dev) (p : Nat) : Ctl × Dev :=
  let m := c.margin p
  if d.fld (baseAG + 8) 31 24 ≤ nth 0 c.slack p then (c, d)
  else
    let (c, d) :=
      if m.vOff < m.vCeil then
        let c := c.updMargin p (fun m => { m with vOff := m.vOff + 1 })
        let again := match c.measure with
          | some x => { x with cores := if x.cores.contains p then x.cores else x.cores ++ [p] }
          | none => { cause := .step, cores := [p] }
        ({ c.setOverlay p (c.margin p).entry with measure := some again }, d.raise baseAG 1 (baseAG + 0x14))
      else if m.fBin < 8 then (c.updMargin p (fun m => { m with pending := some (m.fBin + 1) }), d)
      else (c, d)
    let m := c.margin p
    if d.fld (baseAG + 8) 23 20 < m.pending.getD m.fBin && !m.propose then
      (c.updMargin p (fun m => { m with propose := true }), d.raise baseAG 3 (baseAG + 0x1C))
    else (c, d)

/-- Slack 0 at the highest voltage and bin quarantines a logical core (Table 17.4). -/
def timingCheck (c : Ctl) (d : Dev) (n : Nat) : Dev :=
  let p := c.phys n
  let m := c.margin p
  if nth 0 c.slack p = 0 && (m.vOff = m.vCeil && m.fBin = 8) then d.quarantine c n 3 else d

/-- Ranger acts on measured cores, ascending, while auto is 1; during a Trail Map load a step that falls due waits (R446, R451). -/
def marginPlan (c : Ctl) (d : Dev) (cores : List Nat) : Ctl × Dev :=
  if !d.flag (baseAG + 4) 1 then (c, d)
  else if c.load.isSome then ({ c with stepDue := cores.foldl NatSet.ins c.stepDue }, d)
  else cores.foldl (fun (x : Ctl × Dev) p => marginStep x.1 x.2 p) (c, d)

/-- The steps that fell due during a load that has ended (R451). -/
def stepsDue (c : Ctl) (d : Dev) : Ctl × Dev := marginPlan { c with stepDue := [] } d c.stepDue

/-! ### Measurements -/

/-- A measurement starts, unless one is in progress (R444). -/
def Ctl.startMeasure (c : Ctl) (cause : MeasCause) : Ctl :=
  if c.measure.isSome then c else { c with measure := some { cause := cause, cores := c.measured } }

/-- PERIODIC_MEASUREMENT (R444). -/
def execPeriodicMeasurement (s : State) : Host.Outcome State Fault Refusal :=
  onAll s fun c d =>
    (if c.stage = .firmware && (c.bistDone && d.fld (baseAG + 8) 15 0 ≠ 0) then c.startMeasure .periodic else c, d)

/-- MEASURE (R444): a write of AG_CTRL.measure. -/
def execMeasure (fn : Fin 16) (s : State) : Host.Outcome State Fault Refusal :=
  onAll s fun c d =>
    let (d, ok) := checkWrite c d fn (baseAG + 4) 4
    (if ok then c.startMeasure .command else c, d)

/-- The history record of a measurement (Table 16.3). -/
def Ctl.record (c : Ctl) (cause : MeasCause) : HistRecord :=
  { hours := c.flash.hours, cause := if cause = .command then 2 else 1, generation := if c.map.isSome then c.tm.generation else 0
    d := c.ro, slack := c.slack, margin := c.margins.map CoreMargin.entry }

/-- A record appended to the history ring (R445). -/
def Ctl.appendHist (c : Ctl) (r : HistRecord) : Ctl := { c with flash := { c.flash with history := (r :: c.flash.history).take 8192 } }

/-- Slack found on the measured cores. -/
def Ctl.takeSlack (c : Ctl) (cores : List Nat) (slack : List (BitVec 8)) : Ctl :=
  cores.foldl (fun c p =>
    let v := (nth 0 slack p).toNat
    { c with slack := modNth (fun _ => v) p c.slack, minSlack := modNth (fun x => min x v) p c.minSlack }) c

/-- MEASUREMENT_END (R444 to R446, R460, R463): slack by physical core, degradation by ring-oscillator pair. -/
def execMeasurementEnd (slack : List (BitVec 8)) (ro : List (BitVec 16)) (s : State) : Host.Outcome State Fault Refusal :=
  onAll s fun c d =>
    match c.measure with
    | none => (c, d)
    | some m =>
      let c := { c with measure := none }.takeSlack m.cores slack
      let c := if m.cause = .step then c
        else
          let c := { c with ro := (List.range 512).map (fun i => (nth 0 ro i).toNat) }
          c.appendHist (c.record m.cause)
      let d := d.raise baseAG 0 (baseAG + 0x10)
      let (c, d) := boundaries c d (((List.range 128).filter (fun n => m.cores.contains (c.phys n))).foldl (fun d n => timingCheck c d n) d)
      marginPlan c d m.cores

/-- CLOCK_RELOCK_END (R448). -/
def execClockRelockEnd (p : Fin 132) (s : State) : Host.Outcome State Fault Refusal :=
  onAll s fun c d => (c.updMargin p (fun m => { m with relock := false }), d)

/-! ### History -/

/-- The bytes of a history record (Table 16.3). -/
def HistRecord.bytes (r : HistRecord) : List Byte :=
  toLe 4 r.hours ++ toLe 1 r.cause ++ zeros 3 ++ toLe 8 r.generation ++ zeros 16 ++
  (List.range 512).flatMap (fun i => toLe 2 (nth 0 r.d i)) ++ (List.range 132).flatMap (fun p => toLe 1 (nth 0 r.slack p)) ++ zeros 12 ++
  (List.range 132).flatMap (fun p =>
    let m := nth {} r.margin p
    toLe 1 m.vOff ++ toLe 1 m.vCeil ++ toLe 1 m.fBin ++ zeros 1)

/-- A read of AG_HIST_DATA (R445): the next word of the indexed record. Past its last word, or where the ring holds no such record, the spec
gives no value (log entry 72). -/
def histData (c : Ctl) (d : Dev) : Ctl × Dev × Nat :=
  let c' := { c with histWord := c.histWord + 1 }
  match (c.flash.history.drop c.histIndex).head? with
  | some r => if c.histWord < 432 then (c', d, le r.bytes (4 * c.histWord) 4)
    else (c', d.free.1, d.free.2.toNat % 2 ^ 32)
  | none => (c', d.free.1, d.free.2.toNat % 2 ^ 32)

/-- A write of AG_HIST_INDEX (R445). -/
def histIndexWrite (c : Ctl) (d : Dev) (fn val : Nat) : Ctl × Dev :=
  let (d, ok) := checkWrite c d fn (baseAG + 0x40) 4
  if ok then ({ c with histIndex := val % 8192, histWord := 0 }, writeFields d (baseAG + 0x40) val) else (c, d)

/-- AG_HIST_INDEX_WRITE (R445). -/
def execAgHistIndexWrite (fn : Fin 16) (val : Word) (s : State) : Host.Outcome State Fault Refusal :=
  onAll s fun c d => histIndexWrite c d fn val.toNat

/-- POWER_ON_HOUR (R445): counted in flash while the input is applied, whatever the logic does. -/
def execPowerOnHour (s : State) : Host.Outcome State Fault Refusal :=
  .next (if s.ctl.power.inputOk then
    { s with ctl := { s.ctl with flash := { s.ctl.flash with hours := w32 (s.ctl.flash.hours + 1) } } } else s)

end Sys2Proof.Machine
end

