-- ==== Sys2Proof/Machine/Translation.lean ====
section
/-! DEFINITION. Commands of translation (Address Translation, Faults and Migration): misses, walks and the scout, fault resolution,
invalidations, accesses through host windows, remote windows and import entries, and writes of their tables. -/

namespace Sys2Proof.Machine

/-- An engine's code in violation entries, coded as err_engine of Table 12.10. -/
def TrEngine.err : TrEngine → Nat
  | .sq => 0
  | .dma => 6
  | .ge => 5
  | .xp => 4

/-- TLB_MISS (R306, R307, R313): an access of a requester in an address space. -/
def execTlbMiss (core : Fin 128) (who : Requester) (va : Nat) (write : Bool) (s : State) : Host.Outcome State Fault Refusal :=
  onDev s fun c d =>
    let k := d.core core
    match (if d.ctxOn who.as then tlbFind k.tlb who.as va else none) with
    | some e => if leafGrants e.bits write then d
      else (d.setCore core { k with tlb := k.tlb.filter (fun x => x != e) }).miss c core who.eng.num who.as va write
    | none => d.miss c core who.eng.num who.as va write

/-- The wait of each waiter of a walk has ended (TR_MISS_STALL). -/
def Dev.walkEnds (d : Dev) (w : Walk) : Dev := w.waiters.foldl (fun d x => d.countFree (baseTC (x.1 / 4) + 0x28)) d

/-- A walk ends with a leaf: every waiting core that the leaf grants its access installs it, the others fault; each core for which the scout walks
installs a leaf that grants something (R304, R305, R307, R310). -/
def Dev.walkLeaf (c : Ctl) (d : Dev) (w : Walk) (level e : Nat) : Dev :=
  let d := w.waiters.foldl (fun d x =>
    let t := leafEntry w.as level x.2.1 e false
    if leafGrants t.bits x.2.2 then d.tlbInstall (x.1 / 4) t else d.fault c x.1 w.as x.2.1 x.2.2 2 level e) (d.walkEnds w)
  let t := leafEntry w.as level w.va e true
  w.scouts.foldl (fun d n =>
    if (tlbFind (d.core n).tlb w.as w.va).isSome then d
    else if leafGrants t.bits false || leafGrants t.bits true then d.tlbInstall n t
    else d.count (baseTC n + 0x3C) 1) d

/-- A walk ends without a leaf: its waiters fault; a scout's walk records nothing (R310, R312). -/
def Dev.walkFault (c : Ctl) (d : Dev) (w : Walk) (level kind e : Nat) : Dev :=
  let d := w.waiters.foldl (fun d x => d.fault c x.1 w.as x.2.1 x.2.2 kind level e) (d.walkEnds w)
  w.scouts.foldl (fun d n => d.count (baseTC n + 0x3C) 1) d

/-- WALK_LEVEL_READ_DONE (R307): the read of one level for the walk in a slot. A walk whose address an invalidation covered walks again (R320); one in
an address space that has been disabled ends with NO_SPACE (R298). The governor holds new reads (R29). -/
def execWalkLevelReadDone (slot : Fin 64) (s : State) : Host.Outcome State Fault Refusal :=
  onDev s fun c d =>
    match (d.xl.walks.drop slot).head? with
    | none => d
    | some w =>
      let f := (c.asFacet w.as).getD 0
      let drop := fun (d : Dev) => { d with xl := { d.xl with walks := d.xl.walks.eraseIdx slot } }
      let put := fun (d : Dev) (w : Walk) => { d with xl := { d.xl with walks := modNth (fun _ => w) slot d.xl.walks } }
      if !d.ctxOn w.as then (drop d).walkFault c w 0 5 0
      else if w.restart then
        let (l, t) := d.walkStart w.as w.va
        put (d.count (baseTR + 0x48) l) { w with level := l, table := t, restart := false }
      else if !d.permits f then d
      else match d.walkLevel c (whoCore 0 0 f) w.level w.table w.va with
        | (d, .next t) => put (d.cachePointer w.as w.level w.va t) { w with level := w.level + 1, table := t }
        | (d, .leaf e) => (drop d).walkLeaf c w w.level e
        | (d, .fault k e) => (drop d).walkFault c w w.level k e

/-- An entry of the fault table is freed: its waiters' waits have ended (TR_FAULT_STALL), and a fault that waits for an entry opens one (R315, R316). -/
def Dev.freeFault (c : Ctl) (d : Dev) (n : Nat) : Dev :=
  match Sparse.get none d.xl.faults n with
  | none => d
  | some e => (e.waiters.foldl (fun (d : Dev) (x : Nat × Nat × Bool) => d.countFree (baseTC (x.1 / 4) + 0x2C)) (d.setFault n none)).openWaiting c

/-- RETRY (R316): the entry is freed and its waiters miss anew. -/
def execRetry (fn : Fin 16) (entry : Fin 256) (s : State) : Host.Outcome State Fault Refusal :=
  onDev s fun c d => hostWrite c d fn (baseTR + 0x400) 4 fun d => d.freeFault c entry

/-- The bytes of the region of a fault entry (R313). -/
def FaultEntry.size (e : FaultEntry) : Nat := if e.kind = 5 then 2 ^ 52 else 2 ^ levelShift e.level

/-- ABORT (R316): the entry is freed and each waiter's access ends with an error where it lies in the region. -/
def execAbort (fn : Fin 16) (entry : Fin 256) (s : State) : Host.Outcome State Fault Refusal :=
  onDev s fun c d => hostWrite c d fn (baseTR + 0x400) 4 fun d =>
    match Sparse.get none d.xl.faults entry with
    | none => d
    | some e =>
      { d with xl := { d.xl with aborted := d.xl.aborted ++ e.waiters.map (fun (x : Nat × Nat × Bool) => (x.1, e.as, e.region, e.size)) } }.freeFault c entry

/-! ### Invalidation -/

/-- The address space lies in what an invalidation covers. -/
def Inval.coversAs (c : Ctl) (v : Inval) (as : Nat) : Bool := if v.kind = 2 then c.asFacet as == some v.facet else as == v.as

/-- The invalidation covers a range of virtual addresses of an address space. -/
def Inval.covers (c : Ctl) (v : Inval) (as lo n : Nat) : Bool :=
  v.coversAs c as && (v.kind ≠ 0 || (lo < v.va + v.pages * 65536 && v.va < lo + n))

/-- An invalidation is accepted (R319). -/
def Dev.acceptInv (d : Dev) (v : Inval) : Dev := { d.count (baseTR + 0x118) 1 with xl := { d.xl with invs := d.xl.invs ++ [v] } }

/-- Why TR_INV_CTRL refuses an issue (R319): the kind of the violation. -/
def Dev.invRefusal (c : Ctl) (d : Dev) (v : Inval) : Option Nat :=
  let f := if v.kind = 2 then (if (c.tm.facet? v.facet).isSome then some v.facet else none) else c.asFacet v.as
  if 16 ≤ d.xl.invs.length then some 4
  else if v.kind = 3 || (v.kind = 0 && v.pages = 0) then some 3
  else if f.isNone || (v.syncEn && c.syncFacet v.sync ≠ f) then some 5
  else none

/-- A write of TR_INV_CTRL with go (R319). -/
def invCtrlWrite (c : Ctl) (d : Dev) (fn : Nat) (val : Nat) : Dev :=
  let b := baseTR + 0x100
  hostWrite c d fn (b + 0x10) 4 fun d =>
    let d := writeRw d (b + 0x10) val
    let v : Inval := {
      kind := bits val 29 28, as := d.fld b 9 0, facet := d.fld b 19 16, va := d.fld (b + 4) 31 16 * 65536 + d.fld (b + 8) 19 0 * 2 ^ 32,
      pages := d.reg (b + 0xC), syncEn := bit val 24, sync := bits val 16 0 }
    match d.invRefusal c v with
    | none => d.acceptInv v
    | some kind => dropWrite (d.raise baseTR 3 (baseTR + 0x1C)) kind fn (b + 0x10)

/-- RANGE (R319). -/
def execRange (fn : Fin 16) (val : Word) (s : State) : Host.Outcome State Fault Refusal :=
  onDev s fun c d => invCtrlWrite c d fn (setBits val.toNat 29 28 0)
/-- ASPACE (R319). -/
def execAspace (fn : Fin 16) (val : Word) (s : State) : Host.Outcome State Fault Refusal :=
  onDev s fun c d => invCtrlWrite c d fn (setBits val.toNat 29 28 1)
/-- FACET (R319). -/
def execFacet (fn : Fin 16) (val : Word) (s : State) : Host.Outcome State Fault Refusal :=
  onDev s fun c d => invCtrlWrite c d fn (setBits val.toNat 29 28 2)

/-- Every cached translation that an invalidation covers is dropped, with those that accesses have obtained and not yet used; a walk for a covered
address walks again (R320). -/
def Dev.dropCovered (c : Ctl) (d : Dev) (v : Inval) : Dev :=
  { d with
    cores := d.cores.map (fun (e : Nat × Core) => (e.1, { e.2 with
      tlb := e.2.tlb.filter (fun t => !v.covers c t.as (t.page * 2 ^ levelShift t.level) (2 ^ levelShift t.level)) }))
    xl := { d.xl with
      wcache := d.xl.wcache.filter (fun e => !v.covers c e.as (e.pfx * 2 ^ levelShift e.level) (2 ^ levelShift e.level))
      got := d.xl.got.filter (fun g => !v.covers c g.as g.va 1)
      rwcache := d.xl.rwcache.filter (fun e => !v.coversAs c e.1)
      walks := d.xl.walks.map (fun w => if v.covers c w.as (w.va / 65536 * 65536) 65536 then { w with restart := true } else w) } }

/-- INV_BLOCK_END (R320): the oldest invalidation still in BLOCK enters DRAIN; it waits for the accesses of its address spaces that are
out. -/
def execInvBlockEnd (s : State) : Host.Outcome State Fault Refusal :=
  onDev s fun c d =>
    match findIdx (fun v : Inval => v.block) d.xl.invs with
    | none => d
    | some i =>
      let v := nth {} d.xl.invs i
      let waits := (d.hl.ext.filter (fun e => v.coversAs c e.as && (e.write || e.answer.isNone))).map (·.id)
      let d := d.dropCovered c v
      { d with xl := { d.xl with invs := modNth (fun v => { v with block := false, waits := waits }) i d.xl.invs } }

/-- INV_DONE (R320, R321): the oldest invalidation, once nothing that it waits for is out, is DONE. -/
def execInvDone (s : State) : Host.Outcome State Fault Refusal :=
  onDev s fun _ d =>
    match d.xl.invs with
    | [] => d
    | v :: rest =>
      let out := d.hl.ext.any (fun e => v.waits.contains e.id && (e.write || e.answer.isNone))
      if v.block || out then d
      else
        let d := { d with xl := { d.xl with invs := rest } }.raise baseTR 1 (baseTR + 0x14)
        let d := if v.syncEn then d.syncAdd v.sync 1 else d
        match v.cmd with
        | some o => d.finish o.ch o.seq
        | none => d

/-- TR_CORE_FLUSH (R331). -/
def execTrCoreFlush (fn : Fin 16) (core : Fin 128) (s : State) : Host.Outcome State Fault Refusal :=
  onDev s fun c d => hostWrite c d fn (baseTC core + 8) 4 fun d => d.updCore core (fun k => { k with tlb := [] })

/-- CLEAR of TR_HOT (R329): the facet's hot-page counter entries are dropped. -/
def execClear (fn : Fin 16) (f : Fin 16) (s : State) : Host.Outcome State Fault Refusal :=
  onDev s fun c d => hostWrite c d fn (baseTR + 0x20C + 0x20 * f) 4 fun d =>
    { d with xl := { d.xl with hot := d.xl.hot.filter (fun e => c.asFacet e.as ≠ some f.val) } }

/-! ### Window accesses -/

/-- The pieces of an access by physical address, with leaf bits lb. -/
def physPieces (va pa n lb : Nat) : List Piece :=
  (pieceSpans pa n).map (fun s => { va := va + (s.1 - pa), n := s.2, tr := some (s.1, lb) })

/-- An access of a requester of a core by physical address that leaves the module: a read asks, a write goes. -/
def outsideAccess (c : Ctl) (d : Dev) (core : Nat) (eng : TrEngine) (as va pa len lb : Nat) (data : Option (List Byte)) (poison : Bool) : Dev :=
  let f := (c.asFacet as).getD 0
  let w := whoCore core eng.err f
  let own := ((d.core core).seq.task).map (·.own)
  let ps := physPieces va pa len lb
  match data with
  | some b => d.storePieces c w core eng.num as own 0 ps (marked poison (padTo len b))
  | none =>
    (ps.foldl (fun (acc : Dev × Bool) p => match p.tr with
      | some (a, l) => Dev.askOutside c acc.1 w (4 * core + eng.num) as own acc.2 p a l
      | none => acc) (d, false)).1

/-- HOST_WINDOW_ACCESS (R324). -/
def execHostWindowAccess (core : Fin 128) (eng : TrEngine) (asp : Fin 1024) (va pa len : Nat) (data : Option (List Byte))
    (counted poison : Bool) (s : State) : Host.Outcome State Fault Refusal :=
  onDev s fun c d =>
    if 2 ^ 46 ≤ pa && (pa + len ≤ 2 ^ 47 && (c.asFacet asp).isSome) then
      outsideAccess c d core eng asp va pa len (if counted then 8 else 0) data poison
    else d

/-- REMOTE_WINDOW_ACCESS (R327). -/
def execRemoteWindowAccess (core : Fin 128) (eng : TrEngine) (asp : Fin 1024) (pa len : Nat) (data : Option (List Byte)) (poison : Bool)
    (s : State) : Host.Outcome State Fault Refusal :=
  onDev s fun c d =>
    if 2 ^ 47 ≤ pa && (pa + len ≤ 2 ^ 48 && (c.asFacet asp).isSome) then outsideAccess c d core eng asp pa pa len 0 data poison else d

/-! ### Import entries -/

/-- Import entry k (Table 11.13). -/
def baseImport (k : Nat) : Nat := baseTR + 0x30000 + 0x10 * k

/-- The first check of R328 that an inbound access fails, but for check 5: the error code of Table 14.4 and the violation's kind. -/
def Dev.importCheck (c : Ctl) (d : Dev) (port src k : Nat) (write : Bool) : Option (Nat × Nat) :=
  let b := baseImport k
  let f := d.fld b 23 20
  if !d.flag b 31 then some (2, 2)
  else if !(d.flag b 28 || ((d.flag b 27 && port = 6) || src = d.fld b 11 0)) then some (2, 2)
  else if !d.takesInbound c f then some (1, 5)
  else if !(if write then d.flag b 29 else d.flag b 30) then some (2, 2)
  else none

/-- A response leaves for the module that asked: over T, or over the torus; with no port UP on its way it is dropped and counted in that
port's lost counter (R402). -/
def Dev.respond (c : Ctl) (d : Dev) (port src payload : Nat) (b : RemoteBody) : Dev :=
  let p := if port = 6 then some 6 else c.nextPort src
  match p with
  | none => d
  | some p => if d.portUp p then d.inject c p src .response payload (.remote b) else d.raise (basePort p) 3 (basePort p + 0x1C)

/-- The denial of an inbound access: a violation with the import index and offset, and TR_STATUS.import_denied (R328). -/
def Dev.denyImport (d : Dev) (port src k o code kind : Nat) : Dev :=
  (d.violate { kind := kind, block := 8, code := code, reqKind := if port = 6 then 4 else 3, addrKind := 4, facet := 0xFF,
               requester := if port = 6 then 0 else src, address := o, aux := k }).raise baseTR 4 (baseTR + 0x20)

/-- The requester of an import access at the slice. -/
def whoRemote (port src f : Nat) : Who := { reqKind := if port = 6 then 4 else 3, requester := if port = 6 then 0 else src, facet := f }

/-- An inbound read or write runs against its import entry (R328, R398). -/
def Dev.importAccess (c : Ctl) (d : Dev) (port src : Nat) (b : RemoteBody) : Dev :=
  let run := fun (id k o len : Nat) (write : Bool) (go : Dev → Nat → Nat → Dev) =>
    match d.importCheck c port src k write with
    | some (code, kind) => (d.denyImport port src k o code kind).respond c port src 0 (.error id code)
    | none =>
      let r := baseImport k
      let size := d.fld (r + 0xC) 24 0 * 65536
      let base := d.fld (r + 4) 31 16 * 65536 + d.fld (r + 8) 15 0 * 2 ^ 32
      if size ≤ o then (d.denyImport port src k o 2 1).respond c port src 0 (.error id 2)
      else
        let ok := min len (size - o)
        let d := if ok < len then d.denyImport port src k (o + ok) 2 1 else d
        go d (base + o) ok
  match b with
  | .read id k o len _ => run id k o len false (fun d pa ok =>
      let (d, x, _) := Dev.paRead c d (whoRemote port src (d.fld (baseImport k) 23 20)) pa ok 0 false
      let x := x ++ marked true (zeros (len - ok))
      d.respond c port src len (.readData id (plain x) (x.map (·.2))))
  | .write id k o mask data poison _ => run id k o mask.length true (fun d pa ok =>
      let w := whoRemote port src (d.fld (baseImport k) 23 20)
      let d := (granules pa ok).foldl (fun d g =>
        let m := (List.range 64).map (fun i => if pa ≤ g + i && g + i < pa + ok && nth false mask (g + i - pa) then (data.drop (g + i - pa)).head? else none)
        (Dev.sliceWrite c d w g m (nth false poison (g / 64 - pa / 64)) 0 false (g = pa / 64 * 64 || g % 256 = 0)).1) d
      d.respond c port src 0 (.writeAck id))
  | _ => d

/-- The body is a request that an import entry decides. -/
def RemoteBody.isRequest : RemoteBody → Bool
  | .read .. => true
  | .write .. => true
  | _ => false

/-- IMPORT_ACCESS (R328): the oldest inbound remote-window access delivered to this module. -/
def execImportAccess (s : State) : Host.Outcome State Fault Refusal :=
  onDev s fun c d =>
    match findIdx (fun x : Nat × Nat × RemoteBody => x.2.2.isRequest) d.inbox with
    | none => d
    | some i => match (d.inbox.drop i).head? with
      | none => d
      | some (port, src, b) => { d with inbox := d.inbox.eraseIdx i }.importAccess c port src b

/-! ### Writes of contexts, host windows and import entries -/

/-- A write of a register that is locked while bit 31 of the entry's first word is 1: a write to the first word that clears it is
accepted, any other is dropped and logged (R298, R324, R328). `free`: words that are never locked. -/
def lockedWrite (c : Ctl) (d : Dev) (fn base word val : Nat) (firstFree : Bool) : Dev :=
  let off := base + 4 * word
  hostWrite c d fn off 4 fun d =>
    if d.flag base 31 && !(word = 0 && (firstFree || !bit val 31)) then dropWrite d 4 fn off else writeFields d off val

/-- CONTEXT_WRITE (R298): enable may be written at any time, root and rwin only while it is 0. -/
def execContextWrite (fn : Fin 16) (asp : Fin 1024) (word : Fin 5) (val : Word) (s : State) : Host.Outcome State Fault Refusal :=
  onDev s fun c d => lockedWrite c d fn (baseCtx asp) word val.toNat true

/-- HOST_WINDOW_ENTRY_WRITE (R324). -/
def execHostWindowEntryWrite (fn : Fin 16) (w : Fin 1024) (word : Fin 4) (val : Word) (s : State) : Host.Outcome State Fault Refusal :=
  onDev s fun c d => lockedWrite c d fn (baseTR + 0x20000 + 0x10 * w) word val.toNat false

/-- IMPORT_ENTRY_WRITE (R328). -/
def execImportEntryWrite (fn : Fin 16) (k : Fin 4096) (word : Fin 4) (val : Word) (s : State) : Host.Outcome State Fault Refusal :=
  onDev s fun c d => lockedWrite c d fn (baseImport k) word val.toNat false

end Sys2Proof.Machine
end

