-- ==== Sys2Proof/Machine/Fabric.lean ====
section
/-! DEFINITION. The torus ports, the router and answers to remote accesses (Maelsol Fabric and Twinned Pairs). -/

namespace Sys2Proof.Machine

/-! ### The router -/

/-- The response that a request or bulk packet gets from a module that cannot pass it on (R398, R402): code 3, or for the Gather Engine's
packets the error of their kind. -/
def GeMsg.routeDown (dst rcv : Nat) : GeMsg → Option PktBody
  | .list h _ _ => some (.ge h.bk.core (.listError h.bk dst rcv 3))
  | .forward h _ => h.fwd.map (fun f => .ge f.2.core (.forwardAck f.2 f.1 3 [0, 0, 0, 0]))
  | .put j => some (.ge j.origin.core (.putDone j.origin 0 0xB false 3))
  | .rowData src .. => some (.ge src.core (.rowAck src 3))
  | _ => none
def Pkt.routeDown (k : Pkt) : Option PktBody :=
  match k.body with
  | .remote (.read id ..) => some (.remote (.error id 3))
  | .remote (.write id ..) => some (.remote (.error id 3))
  | .ge rcv m => m.routeDown k.dst rcv
  | .geLead rcv m => m.routeDown k.dst rcv
  | _ => none

/-- A packet is delivered to this module's mesh: to the Gather Engine of a core once its message is whole, or to those that serve remote accesses. -/
def Dev.deliver (c : Ctl) (d : Dev) (p : Nat) (k : Pkt) : Dev :=
  match k.body with
  | .ge rcv m => d.putMsg c (rcv % 128) (some p) m
  | .geLead _ _ => d
  | .remote b => { d with inbox := d.inbox ++ [(p, k.src, b)] }
  | .twin _ => d

/-- An answer that this module gives to a packet goes back to the packet's source, which may be this module. -/
def Dev.answerDown (c : Ctl) (d : Dev) (q : Nat) (k : Pkt) (b : PktBody) : Dev :=
  match c.nextPort k.src with
  | some r => if d.portUp r then d.inject c r k.src .response 0 b else d.raise (basePort r) 3 (basePort r + 0x1C)
  | none => d.deliver c q { k with cls := .response, body := b }

/-- A packet meets a failed route at port q (R402): a request or bulk packet is answered, a response is dropped. Of the pair's own packets a restart
record is due again. -/
def Dev.meetsDown (c : Ctl) (d : Dev) (q : Nat) (k : Pkt) : Dev :=
  let d := match k.body with
    | .twin (.record f _ _ 0 _ _) => d.updMirror f (fun m => { m with restartDue := true, restarted := false })
    | _ => d
  match k.cls, k.routeDown with
  | .control, _ => d
  | .response, _ => d.raise (basePort q) 3 (basePort q + 0x1C)
  | _, some b => (d.routeDown q).answerDown c q k b
  | _, none => d.routeDown q

/-- One act of the router: a packet for this module is delivered, one whose route has failed is answered, or a port sends its next packet; none
where every packet waits for credits. -/
def Dev.routeOne (c : Ctl) (d : Dev) : Option Dev :=
  let heads := headsFrom [] d.waiting
  match heads.find? (fun w => (c.exitOf w).isNone) with
  | some w => some (((d.unbuffer w).count (baseMF + 0x1044) 1).deliver c w.inp w.pkt)
  | none => match heads.find? (fun w => (c.exitOf w).any (fun q => !d.portUp q)) with
    | some w => some ((d.unbuffer w).meetsDown c ((c.exitOf w).getD 0) w.pkt)
    | none => (List.range 7).findSome? (d.sendNext c)

/-- At most n acts. -/
def Dev.routeN (c : Ctl) : Nat → Dev → Dev
  | 0, d => d
  | n + 1, d => match d.routeOne c with
    | none => d
    | some d => Dev.routeN c n d

/-- The router acts until every packet that is left waits for credits: each packet may bring one answer, and each of these one more. -/
def Dev.runRouter (c : Ctl) (d : Dev) : Dev := Dev.routeN c (4 * d.waiting.length) d

/-- A packet on T (R404, R406): only remote-window accesses and their answers; while the partner is lost a request is answered with
ROUTE_DOWN. -/
def Dev.twinPacket (c : Ctl) (d : Dev) (k : Pkt) : Dev :=
  let d := d.emit (.credit 6 k.cls k.vc k.flits)
  match k.body with
  | .remote b =>
    if d.twin.state = 2 || !(match b with | .read .. => true | .write .. => true | _ => false) then (d.count (baseMF + 0x1044) 1).deliver c 6 k
    else match k.routeDown with
      | some e => (d.routeDown 6).inject c 6 k.src .response 0 e
      | none => d
  | _ => d

/-- PACKET_ARRIVAL (R392, R393, R397, R399, R402): the packet enters the port's buffer; it is delivered here, forwarded, waits for credits, or meets a failed
route. -/
def execPacketArrival (p : Fin 7) (pkt : Packet) (s : State) : Host.Outcome State Fault Refusal :=
  onDev s fun c d =>
    if !d.portUp p then d
    else
      let d := d.count (basePort p + 0x44) pkt.flits
      if p.val = 6 then d.twinPacket c pkt
      else if !c.inTorus pkt.dst then (d.emit (.credit p pkt.cls pkt.vc pkt.flits)).raise (baseMF + 0x1000) 0 (baseMF + 0x1004)
      else { d with waiting := d.waiting ++ [({ inp := p, since := d.ltc, pkt := pkt } : Waiting)] }.runRouter c

/-! ### Time on the links -/

/-- Returned credits leave the packets in flight, oldest first: n flits of each class and virtual channel. -/
def takeCredits (n : PktClass → Nat → Nat) : List (Pkt × Nat) → List (Pkt × Nat)
  | [] => []
  | (k, left) :: r =>
    let x := min left (n k.cls k.vc)
    let r' := takeCredits (fun a v => if a = k.cls && v = k.vc then n a v - x else n a v) r
    if x = left then r' else (k, left - x) :: r'

/-- What a count of the local time counter brings to a port (R27, R390, R399, R413): cycles in which a packet waited for credits, at 11 mesh cycles a count;
credits that the next router has returned and flits that the link layer has replayed, of which the spec gives no number: free values (log entry 130). -/
def Dev.portTick (c : Ctl) (d : Dev) (p : Nat) : Dev :=
  let d := if d.stalledOn c p then d.count (basePort p + 0x50) 11 else d
  if (d.port p).flight.isEmpty then d
  else
    let (d, v) := d.free
    let (d, w) := d.free
    (d.updPort p (fun k => { k with
      flight := takeCredits (fun a x => v.toNat / 2 ^ (8 * (2 * a.rank + x)) % 256) k.flight })).count (basePort p + 0x48) (w.toNat % 64)

/-- A count of the local time counter at the ports, after which the router goes on. -/
def Dev.linkTick (c : Ctl) (d : Dev) : Dev := ((List.range 7).foldl (Dev.portTick c) d).runRouter c

/-! ### Port states (Table 14.1) -/

/-- A port goes UP. -/
def Dev.portGoesUp (d : Dev) (p : Nat) : Dev := (d.updPort p (fun k => { k with state := .up })).raise (basePort p) 0 (basePort p + 0x10)
/-- The ready bit of a port, or of the twin (R439). -/
def Dev.portReady (d : Dev) (p : Nat) : Bool := d.portUp p && (p ≠ 6 || d.twin.state = 2)

/-- A port's link is lost: it takes another state, and its ready bit falls. Of the packets in flight the newest are in the replay buffer or partly sent, how many a free value says
(log entry 130), and meet the failed route (R402), as those that wait for the port do. On T the records sent and not acknowledged are to be sent again
(log entry 60). -/
def Dev.linkLost (c : Ctl) (d : Dev) (p : Nat) (st : PortState) : Dev :=
  let fl := (d.port p).flight.map (·.1)
  let d := if d.portReady p then d.readyLost else d
  let d := d.updPort p (fun _ => { state := st })
  let d := if p = 6 then { d with twin := { d.twin with mirrors := d.twin.mirrors.map (fun m => { m with sent := m.acked, sentBytes := 0 }) } } else d
  let (d, lost) := if fl.isEmpty then (d, []) else (d.free.1, fl.drop (d.free.2.toNat % (fl.length + 1)))
  (lost.foldl (fun d k => d.meetsDown c p k) d).runRouter c

/-- A port goes DOWN. -/
def Dev.portGoesDown (c : Ctl) (d : Dev) (p : Nat) : Dev := (d.linkLost c p .down).raise (basePort p) 1 (basePort p + 0x14)
/-- A port goes to MISMATCH with a cause. -/
def Dev.portMismatch (d : Dev) (p cause : Nat) : Dev :=
  ((d.updPort p (fun _ => { state := .mismatch })).raise (basePort p) 2 (basePort p + 0x18)).setFld (basePort p) 19 16 cause
/-- A port begins to train. T leads the twin out of MISMATCH and LOST (Table 14.6). -/
def Dev.portTrains (c : Ctl) (d : Dev) (p : Nat) : Dev :=
  let d := d.linkLost c p .training
  if p = 6 && (d.twin.state = 3 || d.twin.state = 4) then { d with twin := { d.twin with state := 1 } } else d

/-- A DOWN or MISMATCH port retrains (R391). -/
def Dev.retrain (c : Ctl) (d : Dev) (p : Nat) : Dev :=
  if (d.port p).state = .down || (d.port p).state = .mismatch then d.portTrains c p else d

/-- What T sends to be paired (R405): a fresh challenge is drawn, a free value (log entry 89). -/
def Dev.offerPairing (c : Ctl) (d : Dev) : Dev :=
  match c.tm.twin with
  | none => d
  | some t =>
    let (d, b) := d.freeBytes 32
    ({ d with twin := { d.twin with challenge := b } }.count (basePort 6 + 0x40) 3).emit
      (.pairing t.pairId t.role t.period t.lossCount Config.identityKey b)

/-- PORT_LANES_TRAINED (R391): a torus port sends its identity flit; T begins the pairing exchange (R405). -/
def execPortLanesTrained (p : Fin 7) (s : State) : Host.Outcome State Fault Refusal :=
  onDev s fun c d =>
    if (d.port p).state ≠ .training || (d.port p).trained then d
    else
      let d := d.updPort p (fun k => { k with trained := true })
      if p.val = 6 then d.offerPairing c
      else (d.count (basePort p + 0x40) 1).emit (.identity p c.coord c.tm.torus.dim c.tm.torus.dateline)

/-- PORT_TRAINING_FAILED (R391). -/
def execPortTrainingFailed (p : Fin 7) (s : State) : Host.Outcome State Fault Refusal :=
  onDev s fun c d => if (d.port p).state = .training then d.portGoesDown c p else d

/-- The module's coordinate moved one step in a port's direction. -/
def Ctl.neighbour (c : Ctl) (p : Nat) : Nat :=
  let i := p / 2
  let n := nth 1 c.tm.torus.dim i
  coordOf (modNth (fun a => if p % 2 = 0 then (a + 1) % n else (a + n - 1) % n) i c.tm.torus.pos)

/-- The first check of Table 14.2 that a peer's identity fails; 0 for none. -/
def Ctl.identityFault (c : Ctl) (p : Nat) (peer : Identity) : Nat :=
  if peer.dim ≠ c.tm.torus.dim then 1
  else if peer.dateline ≠ c.tm.torus.dateline then 2
  else if peer.coord ≠ c.neighbour p then 3
  else if peer.port ≠ (if p % 2 = 0 then p + 1 else p - 1) then 4
  else 0

/-- IDENTITY_FLIT_ARRIVAL (R389, R391): a port goes UP only with its lanes trained. -/
def execIdentityFlitArrival (p : Fin 6) (peer : Identity) (s : State) : Host.Outcome State Fault Refusal :=
  onDev s fun c d =>
    if (d.port p).state ≠ .training || !(d.port p).trained then d
    else
      let d := (d.count (basePort p + 0x44) 1).setFld (basePort p + 4) 11 0 peer.coord
      let e := c.identityFault p peer
      if e = 0 then d.portGoesUp p else d.portMismatch p e

/-- LANE_FAILURE (R389). -/
def execLaneFailure (p : Fin 7) (s : State) : Host.Outcome State Fault Refusal :=
  onDev s fun c d => if (d.port p).state = .disabled || (d.port p).state = .down then d else d.portGoesDown c p

/-- REPLAY_FAILURE (R390): 16 failed replays of one flit. -/
def execReplayFailure (p : Fin 7) (s : State) : Host.Outcome State Fault Refusal :=
  onDev s fun c d => if (d.port p).state = .up then (d.count (basePort p + 0x48) 16).portGoesDown c p else d

/-- PORT_RETRAIN_TIMER (R391). -/
def execPortRetrainTimer (p : Fin 7) (s : State) : Host.Outcome State Fault Refusal := onDev s fun c d => d.retrain c p

/-- RETRAIN (R391): a write of MF_PORT_CTRL. -/
def execRetrain (fn : Fin 16) (p : Fin 7) (s : State) : Host.Outcome State Fault Refusal :=
  onDev s fun c d => hostWrite c d fn (basePort p + 8) 4 fun d => d.retrain c p

/-! ### Answers to remote accesses -/

/-- An outstanding access with a number, that no answer has ended. -/
def Dev.extOpen (d : Dev) (id : Nat) (host : Bool) : Option ExtAccess :=
  d.hl.ext.find? (fun e => e.id == id && (e.host == host && e.answer.isNone))

/-- The access with a number changed. -/
def Dev.updExt (d : Dev) (id : Nat) (f : ExtAccess → ExtAccess) : Dev :=
  { d with hl := { d.hl with ext := d.hl.ext.map (fun e => if e.id == id then f e else e) } }
/-- The access with a number ended. -/
def Dev.dropExt (d : Dev) (id : Nat) : Dev := { d with hl := { d.hl with ext := d.hl.ext.filter (fun e => e.id ≠ id) } }

/-- An access ends with an error (R324, R398): a read gives poison, a write is dropped. -/
def Dev.extFails (d : Dev) (e : ExtAccess) : Dev :=
  if e.write then (d.dropExt e.id).notWritten e.own
  else d.updExt e.id (fun x => { x with answer := some (marked true (zeros x.len)) })

/-- The access of a quarantined core: its answer is discarded and counted (R461). -/
def Dev.extQuarantined (d : Dev) (e : ExtAccess) : Bool := (d.core (e.who / 4)).quar.phase ≠ .none
def Dev.dropAnswer (d : Dev) (e : ExtAccess) : Dev := (d.dropExt e.id).count (baseRG + 0x220) 1

/-- REMOTE_RESPONSE_ARRIVAL (R398, R403): the first answer is final; a later one is counted. -/
def execRemoteResponseArrival (s : State) : Host.Outcome State Fault Refusal :=
  onDev s fun _ d =>
    let isReq := fun (b : RemoteBody) => match b with | .read .. => true | .write .. => true | _ => false
    match findIdx (fun x : Nat × Nat × RemoteBody => !isReq x.2.2) d.inbox with
    | none => d
    | some i => match (d.inbox.drop i).head? with
      | none => d
      | some (_, _, b) =>
        let d := { d with inbox := d.inbox.eraseIdx i }
        let late := d.count (baseMF + 0x104C) 1
        let onOpen := fun (id : Nat) (k : ExtAccess → Dev) => match d.extOpen id false with
          | some e => if d.extQuarantined e then d.dropAnswer e else k e
          | none => late
        match b with
        | .readData id data poison => onOpen id (fun e => if e.write then late
            else d.updExt id (fun x => { x with answer := some ((padTo x.len data).zip (poison ++ List.replicate x.len false)) }))
        | .writeAck id => onOpen id (fun e => if e.write then d.dropExt id else late)
        | .error id _ => onOpen id (fun e => (match e.own with | some o => d.mark o 0 | none => d).extFails e)
        | _ => d

end Sys2Proof.Machine
end

