-- ==== Sys2Proof/Machine/Twin.lean ====
section
/-! DEFINITION. The twin: pairing, heartbeats, mirror records on their way to and from the partner (Maelsol Fabric and Twinned Pairs). -/

namespace Sys2Proof.Machine

def Dev.updTwin (d : Dev) (f : Twin → Twin) : Dev := { d with twin := f d.twin }

/-- The partner can be heard: T is UP and the state is PAIRED. -/
def Dev.paired (d : Dev) : Bool := d.portUp 6 && d.twin.state = 2

/-! ### Pairing and heartbeats -/

/-- The first check of R405 that fails, for this module's challenge; 0 for none. -/
def pairingFault (t : TwinCfg) (challenge : List Byte) (peer : TwinIdentity) : Nat :=
  if peer.pairId ≠ t.pairId then 1
  else if peer.role = t.role then 2
  else if peer.period ≠ t.period || peer.lossCount ≠ t.lossCount then 3
  else if (sha256 peer.key).take t.digest.length ≠ t.digest then 4
  else if !verifySig peer.key challenge peer.sig then 5
  else 0

/-- PAIRED is entered, or kept by a pair whose link returns within the loss time (R406); the senders wait for the partner's first heartbeat (R412). -/
def Dev.pairs (d : Dev) : Dev :=
  let d := d.portGoesUp 6
  if d.twin.state = 2 then d
  else (d.updTwin (fun w => { w with state := 2, heard := false, mirrors := w.mirrors.map (fun m => { m with restarted := false }) })).raise
    baseTW 0 (baseTW + 0x20)

/-- TWIN_PAIRING (R389, R405): while T trains, with its lanes trained. This module signs the partner's challenge in turn; its own challenge serves once. -/
def execTwinPairing (peer : TwinIdentity) (s : State) : Host.Outcome State Fault Refusal :=
  onDev s fun c d =>
    match c.tm.twin with
    | none => d
    | some t =>
      if !t.enable || ((d.port 6).state ≠ .training || !(d.port 6).trained) then d
      else
        let e := pairingFault t d.twin.challenge peer
        let d := ((d.count (basePort 6 + 0x44) 3).updTwin (fun w => { w with challenge := [] })).emit (.pairingSig (Config.sign peer.challenge))
        if e ≠ 0 then
          (((d.portMismatch 6 e).updTwin (fun w => { w with state := 4, cause := e })).raise baseTW 2 (baseTW + 0x28)).irq 4144
        else d.pairs

/-- HEARTBEAT_SEND (R406). -/
def execHeartbeatSend (s : State) : Host.Outcome State Fault Refusal :=
  onDev s fun c d =>
    if !d.paired then d
    else ((d.count (baseTW + 0x40) 1).updTwin (fun w => { w with hbCount := w.hbCount + 1 })).twinSend c .control 136
      (.heartbeat (d.twin.hbCount + 1) (d.twin.mirrors.map (·.applied)))

/-- On the first heartbeat of a pairing a facet's sender goes on after the partner's last applied number, or stops with RESYNC where the ring does not
hold the next record (R411, R412). A partner that has been sent a restart record meanwhile has applied none. -/
def Dev.resume (d : Dev) (f applied : Nat) : Dev :=
  let m := d.mirror f
  if m.restartDue then d
  else
    let applied := if m.restarted then 0 else applied
    let lost := applied + 1 ≠ m.next && !m.recs.any (fun r => r.seq == applied + 1)
    let d := d.updMirror f (fun m => { m with
      recs := m.recs.filter (fun r => applied < r.seq || m.next ≤ applied), sent := if applied < m.next then applied else m.acked, sentBytes := 0
      restarted := false })
    if m.state = 1 && lost then d.mirrorStop f 2 else d

/-- PARTNER_LOST (R406, R439). -/
def execPartnerLost (s : State) : Host.Outcome State Fault Refusal :=
  onDev s fun _ d =>
    if d.twin.state ≠ 2 then d
    else (((if d.portReady 6 then d.readyLost else d).updTwin (fun w => { w with state := 3 })).raise baseTW 1 (baseTW + 0x24)).irq 4144

/-! ### Records -/

/-- The record that bytes carry. -/
def mirrorOf (seq : Nat) (b : List Byte) (poison : Bool) : MirrorOp :=
  { seq := seq, as := le b 32 2, op := le b 0 32, data := b.drop 64, poison := poison }

/-- MIRROR_RECORD_SEND (R409, R411, R412): a restart record that is due, or the next packet of the oldest record not yet sent. -/
def execMirrorRecordSend (f : Fin 16) (s : State) : Host.Outcome State Fault Refusal :=
  onDev s fun c d =>
    let m := d.mirror f
    if !d.paired then d
    else if m.restartDue then
      (d.updMirror f (fun m => { m with restartDue := false, restarted := !d.twin.heard })).twinSend c .bulk 0 (.record f 0 0 0 [] false)
    else if !d.twin.heard then d
    else match m.recs.find? (fun r => m.sent < r.seq) with
      | none => d
      | some r =>
        let n := min 4096 (r.room - m.sentBytes)
        let (d, b, p) := d.mirrorRead c f (r.pos + m.sentBytes) n
        let done := r.room ≤ m.sentBytes + n
        (d.updMirror f (fun m => { m with sent := if done then r.seq else m.sent, sentBytes := if done then 0 else m.sentBytes + n })).twinSend c
          .bulk n (.record f r.seq m.sentBytes r.room b p)

/-- A packet's bytes join the record being put together (R409). A restart record sets the last applied number to 0 (R411). -/
def Mirror.take (m : Mirror) (p : MirrorPart) : Mirror :=
  if p.total = 0 then { m with applied := 0, parts := none, ready := [] }
  else
    let (b, z) := match m.parts with
      | some (n, t, b, z) => if n = p.seq && (t = p.total && b.length = p.off) then (b ++ p.bytes, z || p.poison) else (p.bytes, p.poison)
      | none => (p.bytes, p.poison)
    if b.length < p.total then { m with parts := some (p.seq, p.total, b, z) }
    else { m with parts := none, ready := m.ready ++ [mirrorOf p.seq b z] }

/-- A mirror record packet is taken. The mirrored op of the facet that a restart record overtakes runs on, with no number (R411). -/
def Dev.takeRecord (c : Ctl) (d : Dev) (p : MirrorPart) : Dev :=
  let d := d.updMirror p.facet (fun m => m.take p)
  if p.total ≠ 0 then d
  else d.updGe (nth 0 (c.facetCores p.facet) 0) (fun g => { g with maint := g.maint.map (fun (x : Maint) =>
    if x.mirror.isSome && x.facet = p.facet then { x with mirror := some 0 } else x) })

/-- The number under which the block runs a mirrored op; no op of a core has it. -/
def mirrorId (f seq : Nat) : Nat := 2 ^ 64 * (seq * 16 + f + 1)

/-- The next complete record of a facet is applied (R409): one at a time, in order, while the facet runs; a number already applied is
discarded. -/
def Dev.applyNext (c : Ctl) (d : Dev) (f : Nat) : Dev :=
  let m := d.mirror f
  let core := nth 0 (c.facetCores f) 0
  match m.ready with
  | [] => d
  | r :: rest =>
    let took := d.updMirror f (fun m => { m with ready := rest })
    if r.seq ≤ m.applied then took
    else if c.fstate f ≠ .running || (d.ge core).maint.any (fun x => x.mirror.isSome && x.facet == f) then d
    else if r.poison then took.mirrorApplied c f r.seq 0xA
    else if c.asFacet r.as ≠ some f then took.mirrorApplied c f r.seq 2
    else
      let x : Maint := { op := { id := mirrorId f r.seq, op := r.op, as := r.as }, facet := f, mirror := some r.seq }
      match d.maintDo c core x (some (if r.op % 256 = 0x54 then r.data.take 48 else r.data)) with
      | (d, .wait) => d
      | (d, z) => ((d.updMirror f (fun m => { m with ready := rest })).maintTook c core x z).maintFlush c core

/-- A packet of the pair's own arrives on T: its flits are counted and their credits returned (R399). -/
def Dev.twinTakes (d : Dev) (cls : PktClass) (payload : Nat) : Dev :=
  ((d.count (basePort 6 + 0x44) (flitsOf payload)).count (baseMF + 0x1044) 1).emit (.credit 6 cls 0 (flitsOf payload))

/-- MIRROR_RECORD_ARRIVAL (R409). -/
def execMirrorRecordArrival (part : MirrorPart) (s : State) : Host.Outcome State Fault Refusal :=
  onDev s fun c d =>
    if !d.paired || 16 ≤ part.facet then d
    else ((d.twinTakes .bulk part.bytes.length).takeRecord c part).applyNext c part.facet

/-- HEARTBEAT_ARRIVAL (R406, R412): records that wait for a facet are applied too. -/
def execHeartbeatArrival (applied : List Nat) (s : State) : Host.Outcome State Fault Refusal :=
  onDev s fun c d =>
    if !d.paired then d
    else
      let first := !d.twin.heard
      let d := ((d.twinTakes .control 136).count (baseTW + 0x44) 1).updTwin (fun w => { w with heard := true, lastHb := some d.ltc })
      let d := if first then (List.range 16).foldl (fun d f => d.resume f (nth 0 applied f)) d else d
      (List.range 16).foldl (fun d f => d.applyNext c f) d

/-- An acknowledgement belongs to the numbering in force (R411): one of a number given before a restart is dropped (log entry 132). -/
def Mirror.acks (m : Mirror) (seq : Nat) : Bool := !m.restartDue && (m.acked < seq && seq < m.next)

/-- MIRROR_ACK_ARRIVAL (R409). -/
def execMirrorAckArrival (f : Fin 16) (seq : Nat) (status : BitVec 16) (s : State) : Host.Outcome State Fault Refusal :=
  onDev s fun _ d =>
    if !d.paired then d
    else
      let d := d.twinTakes .control 11
      if !(d.mirror f).acks seq then d
      else
        let d := d.updMirror f (fun m => { m with acked := seq, recs := m.recs.filter (fun r => seq < r.seq) })
        let d := if d.flag (baseMirror f) 30 then d.syncSet (d.fld (baseMirror f + 0xC) 16 0) seq else d
        if status = 0 then d
        else (d.updMirror f (fun m => { m with divSeq := seq, divStatus := status.toNat })).raise baseTW 4 (baseTW + 0x30)

/-! ### Registers -/

/-- A write of TW_MIRROR_CFG (R407, R414). -/
def twMirrorCfgWrite (c : Ctl) (d : Dev) (fn f word val : Nat) : Dev :=
  let off := baseMirror f + 4 * word
  hostWrite c d fn off 4 fun d =>
    let on := d.flag (baseMirror f) 31
    let turnsOn := word = 0 && bit val 31
    if on && (word ≠ 0 || bits val 3 0 ≠ d.fld (baseMirror f) 3 0) then dropWrite d 4 fn off
    else if turnsOn && !bit (c.facet f).ports 6 then dropWrite d 5 fn off
    else if word = 3 && c.syncFacet (bits val 16 0) ≠ some f then dropWrite d 5 fn off
    else
      let d := writeFields d off val
      if word ≠ 0 || on = bit val 31 then d
      else d.updMirror f (fun m => { m with state := if bit val 31 then 1 else 0, cause := 0 })

/-- TW_MIRROR_CFG_WRITE (R407). -/
def execTwMirrorCfgWrite (fn : Fin 16) (f : Fin 16) (word : Fin 4) (val : Word) (s : State) : Host.Outcome State Fault Refusal :=
  onDev s fun c d => twMirrorCfgWrite c d fn f word val.toNat

/-- RESTART (R411). -/
def execRestart (fn : Fin 16) (f : Fin 16) (s : State) : Host.Outcome State Fault Refusal :=
  onDev s fun c d => hostWrite c d fn (baseMirror f + 0x10) 4 fun d =>
    d.updMirror f (fun m => { m with
      recs := [], next := 1, acked := 0, sent := 0, sentBytes := 0, pos := 0, restartDue := true, restarted := false, cause := 0
      state := if d.flag (baseMirror f) 31 then 1 else 0 })

end Sys2Proof.Machine
end

