-- ==== Sys2Proof/Machine/TrailMapLoad.lean ====
section
/-! DEFINITION. Loading and applying a Trail Map, facet drain and resume (Trail Map: the Structure Image). -/

namespace Sys2Proof.Machine

/-! ### Checks -/

/-- The persisted floor: the higher of the copies that verify (R68). -/
def Flash.floorOf (f : Flash) : Nat := (f.floor.filterMap id).foldl max 0
/-- The generation in effect; 0 when none. -/
def Ctl.generation (c : Ctl) : Nat := if c.map.isSome then c.tm.generation else 0
/-- The vendor key: embedded in the running firmware (R480). -/
def Ctl.vendorKey (c : Ctl) : List Byte := slice c.firmware 64 64

/-- The changes of an image against the map in effect that need drained facets. -/
def imageChanges (c : Ctl) (img : List Byte) : List (Nat × List Nat) :=
  if c.map.isNone then []
  else mapChanges c.tm (parseTrailMap img) (c.margins.map (fun m => { vOff := m.vOff, vCeil := m.vCeil, fBin := m.fBin }))

/-- Checks 2 to 12 of Table 2.7 on an image: the first that fails, with its fault offset (R71). -/
def imageCheck (c : Ctl) (fromHost : Bool) (keys : List OwnerKey) (img : List Byte) : Option (Nat × Nat) :=
  match headerCheck img with
  | some e => some e
  | none => match signCheck c.vendorKey keys img with
    | some e => some e
    | none => match generationCheck fromHost c.generation c.flash.floorOf img with
      | some e => some e
      | none => match structureCheck img with
        | some e => some e
        | none => (drainedCheck (imageChanges c img) c.facetState).map (fun o => (0xC, o))

/-- The bytes of an image as long as its header says, where that length is admissible; otherwise its header alone (R69). -/
def wholeImage (b : List Byte) : List Byte :=
  if (headerCheck b).isNone then padTo (tmLength b) b else padTo 32 b

/-- A bank that holds no image reads as erased flash (R68). -/
def bankBytes (b : List Byte) : List Byte := if b.isEmpty then List.replicate 32 0xFF else b

/-- The image of flash bank i. -/
def Flash.bankImage (f : Flash) (i : Nat) : List Byte := wholeImage (bankBytes (nth [] f.bank i))

/-- Which flash banks can be read now (R68). -/
def Ctl.readable (c : Ctl) : List Bool := [0, 1].map (fun i => !nth false c.flash.unread i)

/-- Table 2.7 on flash bank i, which could be read or not (check 1). -/
def bankCheck (c : Ctl) (keys : List OwnerKey) (banks : List Bool) (i : Nat) : Option (Nat × Nat) :=
  if nth false banks i then imageCheck c false keys (c.flash.bankImage i) else some (1, 0)

/-- The two banks checked, bank 0 first: the refusals in order, and the bank to load: of those that pass the one with the higher generation,
bank 0 at a tie (R68). -/
def flashChoice (c : Ctl) (keys : List OwnerKey) (banks : List Bool) : List (Nat × Nat) × Option Nat :=
  let e0 := bankCheck c keys banks 0
  let e1 := bankCheck c keys banks 1
  (e0.toList ++ e1.toList,
   if e0.isNone then (if e1.isNone && le (c.flash.bankImage 0) 0x10 8 < le (c.flash.bankImage 1) 0x10 8 then some 1 else some 0)
   else if e1.isNone then some 1 else none)

/-- A refusal: its code and fault offset are recorded and refused is set; nothing else changes (R71). -/
def refusal (c : Ctl) (d : Dev) (e : Nat × Nat) : Ctl × Dev :=
  ({ c with refuseCode := e.1, faultOffset := e.2 }, d.raise (baseRG + 0x11C) 1 (baseRG + 0x124))

/-! ### Facet states -/

/-- The images of which a load past its reading may apply one: the host's; the banks that could be read, while a load from flash checks them. -/
def TmLoad.images (c : Ctl) (l : TmLoad) : List (List Byte) :=
  if l.phase = .checking && !l.fromHost then ([0, 1].filter (fun i => nth false l.banks i)).map c.flash.bankImage else [l.image]

/-- Facets that the load in progress holds DRAINED (R78): while the image is still being read, every drained facet (log entry 75). -/
def loadHolds (c : Ctl) (f : Nat) : Bool :=
  match c.load with
  | none => false
  | some l => match l.phase with
    | .reading => c.map.isSome
    | _ => (l.images c).any (fun img => (structureCheck img).isNone && (imageChanges c img).any (fun x => x.2.contains f))

/-- A facet that is DRAINING or DRAINED returns to RUNNING (R73). -/
def Ctl.resumeFacet (c : Ctl) (f : Nat) : Ctl :=
  { c with facetState := modNth (fun x => if x = .draining || x = .drained then .running else x) f c.facetState }

/-- The resume writes that wait and that the load, if one is still in progress, does not hold (R78). -/
def resumeWaiting (c : Ctl) : Ctl :=
  let go := c.resumeWait.filter (fun f => !loadHolds c f)
  go.foldl Ctl.resumeFacet { c with resumeWait := c.resumeWait.filter (fun f => !go.contains f) }

/-- Ranger reads the record of a key command from the host address in RG_KEY_SRC (R482). -/
def Dev.readKeyRecord (d : Dev) : Dev := d.hostGet (d.fld (baseRG + 0x1014) 31 6 * 64 + d.reg (baseRG + 0x1018) * 2 ^ 32) 192

/-- A load has ended (R78, R451, R483): waiting resumes, margin steps and a waiting key command go on; the interrupt is raised. -/
def loadEnded (c : Ctl) (d : Dev) : Ctl × Dev :=
  let c' := resumeWaiting { c with load := none, keyPhase := if c.keyPhase = .waiting then .reading else c.keyPhase }
  stepsDue c' ((if c.keyPhase = .waiting then d.readKeyRecord else d).irq 4146)

/-- FACET_DRAIN (R73, R78). -/
def execFacetDrain (fn : Fin 16) (b : BitVec 16) (s : State) : Host.Outcome State Fault Refusal :=
  onAll s fun c d =>
    let (d, ok) := checkWrite c d fn (baseRG + 0x128) 4
    if !ok then (c, d)
    else ((bitsOf 16 b.toNat).foldl (fun (c : Ctl) f =>
      { c with facetState := modNth (fun x => if x = .running then .draining else x) f c.facetState }) c, d)

/-- FACET_RESUME (R73, R78). -/
def execFacetResume (fn : Fin 16) (b : BitVec 16) (s : State) : Host.Outcome State Fault Refusal :=
  onAll s fun c d =>
    let (d, ok) := checkWrite c d fn (baseRG + 0x12C) 4
    if !ok then (c, d)
    else ((bitsOf 16 b.toNat).foldl (fun (c : Ctl) f =>
      if c.fstate f = .drained && loadHolds c f then { c with resumeWait := NatSet.ins c.resumeWait f } else c.resumeFacet f) c, d)

/-- Something of a facet remains that DRAINED waits for (R74, R75): work of its own, or an inbound request that was accepted. -/
def facetBusy (c : Ctl) (d : Dev) (f : Nat) : Bool :=
  d.facetWorks c f || (c.facetCores f).any (fun n => !(d.core n).ge.lists.isEmpty || !(d.core n).ge.puts.isEmpty)

/-- DRAINED (R74, R75). -/
def execDrained (f : Fin 16) (s : State) : Host.Outcome State Fault Refusal :=
  onAll s fun c d =>
    if c.fstate f = .draining && !facetBusy c d f then ({ c with facetState := modNth (fun _ => .drained) f c.facetState }, d) else (c, d)

/-! ### Apply -/

/-- The lines in ways that a facet loses, or on channels that become mapped out. -/
def Dev.lostLines (d : Dev) (old new : TrailMap) : List Nat :=
  (d.mem.lines.filter (fun (e : Nat × Line) =>
    let i := 16 * (e.1 / 65536) + e.2.facet
    (!(chanOwner (nth 0x80 old.chan e.2.ch)).isEmpty && (chanOwner (nth 0x80 new.chan e.2.ch)).isEmpty) ||
    (bit (nth 0 old.ways i) (e.1 % 16) && !bit (nth 0 new.ways i) (e.1 % 16)))).map (·.1)

/-- Dirty lines in lost ways, and those of channels that become mapped out, are written back and leave the cache (R79, R284). -/
def applyLines (c : Ctl) (d : Dev) (new : TrailMap) : Dev := (d.lostLines c.tm new).foldl (Dev.dropLine c) d

/-- The state of a channel under a new map (R276). The data of a channel that becomes mapped out is lost: it holds undefined contents from then on,
a free value (R79, log entry 113). -/
def Dev.applyChan (d : Dev) (had : Bool) (old new : TrailMap) (ch : Nat) : Dev :=
  let was := had && !(chanOwner (nth 0x80 old.chan ch)).isEmpty
  let now := !(chanOwner (nth 0x80 new.chan ch)).isEmpty
  let k := d.mchan ch
  if now then (if k.state = .mappedOut then d.setMchan ch { k with state := .down } else d)
  else if !was then d.setMchan ch { k with state := .mappedOut, queue := [] }
  else
    let d := d.setMchan ch { k with state := .mappedOut, queue := [], lost := some d.freeCtr, written := [] }
    { d with
      freeCtr := d.freeCtr + 1
      mem := { d.mem with
        hbm := Sparse.clearRange (α := Byte) d.mem.hbm (hbmKey ch 0) (hbmKey (ch + 1) 0)
        poison := d.mem.poison.filter (fun g => g < hbmKey ch 0 / 64 || hbmKey (ch + 1) 0 / 64 ≤ g)
        bad := d.mem.bad.filter (fun g => g < hbmKey ch 0 / 64 || hbmKey (ch + 1) 0 / 64 ≤ g)
        tags := Sparse.clearRange d.mem.tags (hbmKey ch 0 / 64) (hbmKey (ch + 1) 0 / 64) } }

/-- A torus port under a new map (R391): disabled, trained, or left as it is. -/
def Dev.applyPort (c : Ctl) (d : Dev) (old new : TrailMap) (p : Nat) : Dev :=
  let was := bit old.enabledPorts p
  if !bit new.enabledPorts p then d.linkLost c p .disabled
  else if !was || (old.torus.dim ≠ new.torus.dim || (old.torus.dateline ≠ new.torus.dateline || old.torus.pos ≠ new.torus.pos)) then d.portTrains c p
  else d

/-- The twin port under a new map (R60, R79, Table 14.6). -/
def Dev.applyTwin (c : Ctl) (d : Dev) (old new : TrailMap) : Dev :=
  if !new.twinOn then { d.linkLost c 6 .disabled with twin := { d.twin with state := 0 } }
  else if !old.twinOn then { d.portTrains c 6 with twin := { d.twin with state := 1 } }
  else if old.twin ≠ new.twin then d.portTrains c 6
  else d

/-- The key epoch of a facet (R485): a new key pair where the facet comes into existence or its HBM_MAP entries change. -/
def newEpoch (had : Bool) (old new : TrailMap) (f e : Nat) : Nat :=
  let chans := fun (m : TrailMap) => (List.range 384).filter (fun k => nth 0 m.chan k % 16 == f)
  if (new.facet? f).isNone then e
  else if had && ((old.facet? f).isSome && (chans old == chans new && ((chans old).all (fun k => nth 0 old.chan k == nth 0 new.chan k) &&
      nth (0, 0) old.hash f == nth (0, 0) new.hash f))) then e
  else e + 1

/-- The margin of physical core p under a new map: at power-up the larger of map and overlay (R450), later the map's, its bin at the next
boundary (R77). The proposal of a core that the map retires clears (R449). -/
def newMargin (had : Bool) (overlay : Sparse Margin) (new : TrailMap) (p : Nat) (m : CoreMargin) : CoreMargin :=
  let e := nth {} new.margin p
  let o := Sparse.get {} overlay p
  let m := if had then { m with vOff := e.vOff, vCeil := e.vCeil, pending := if e.fBin = m.fBin then none else some e.fBin }
    else { m with vOff := min e.vCeil (max e.vOff o.vOff), vCeil := e.vCeil, fBin := max e.fBin o.fBin, pending := none }
  { m with propose := m.propose && !bit new.retired p }

/-- The overlay after a map has taken effect (R450): an entry that differs from the values in effect replaces it. -/
def newOverlay (had : Bool) (c : Ctl) (new : TrailMap) : Sparse Margin :=
  if !had then c.flash.overlay
  else (List.range 132).foldl (fun o p =>
    let e := nth {} new.margin p
    if e = (c.margin p).entry then o else Sparse.set {} o p e) c.flash.overlay

/-- A logical core that the new map puts on another physical core: nothing of the old one remains, quarantine ends (R464). -/
def Dev.applyCore (d : Dev) (had : Bool) (old new : TrailMap) (n : Nat) : Dev :=
  if had && nth 0 old.coreMap n ≠ nth 0 new.coreMap n then
    d.updCore n (fun k => { k.cleared with quar := { k.quar with phase := .none } })
  else d

/-- The ready bits of cores and channels, which a map can take away as it can those of ports (R439). -/
def readyBits (c : Ctl) (d : Dev) : List Nat :=
  readyCores c d ++ ((List.range 384).filter (fun k => (d.mchan k).state = .ready)).map (128 + ·)

/-- A map takes effect as one change (R47, R76 to R79, R276, R391, R485, R497); bank: the flash bank that holds it. -/
def applyMap (c : Ctl) (d : Dev) (new : TrailMap) (bank : Option Nat) : Ctl × Dev :=
  let had := c.map.isSome
  let old := c.tm
  let before := readyBits c d
  let c' := { c with
    map := some new
    mapBank := bank
    blocksReady := true
    facetState := (List.range 16).map (fun f => if (new.facet? f).isNone then .absent else if c.fstate f = .absent then .running else c.fstate f)
    margins := (List.range 132).map (fun p => newMargin had c.flash.overlay new p (c.margin p))
    flash := { c.flash with overlay := newOverlay had c new }
    keyEpoch := (List.range 16).map (fun f => newEpoch had old new f (nth 0 c.keyEpoch f)) }
  let d := applyLines c d new
  let d := (List.range 384).foldl (fun d ch => d.applyChan had old new ch) d
  let d := ((List.range 6).foldl (fun d p => d.applyPort c' old new p) d).applyTwin c' old new
  let d := (List.range 128).foldl (fun d n => d.applyCore had old new n) d
  let d := { d with gov := (List.range 16).map (fun f =>
    if had && ((old.facet? f).isSome && (new.facet? f).isSome) then nth {} d.gov f else {}) }
  let d := (before.filter (fun b => !(readyBits c' d).contains b)).foldl (fun d _ => d.readyLost) d
  (c', d.raise (baseRG + 0x11C) 0 (baseRG + 0x120))

/-! ### The load -/

/-- The host address of the image (RG_TM_SRC). -/
def Dev.imageSource (d : Dev) : Nat := d.fld (baseRG + 0x104) 31 12 * 4096 + d.reg (baseRG + 0x108) * 2 ^ 32

/-- A write of RG_TM_CTRL (R69, R70): with load set, a load starts unless one is in progress. -/
def tmCtrlWrite (c : Ctl) (d : Dev) (fn val : Nat) : Ctl × Dev :=
  let (d, ok) := checkWrite c d fn (baseRG + 0x100) 4
  if !ok then (c, d)
  else
    let d := writeRw d (baseRG + 0x100) val
    if !bit val 0 || c.load.isSome then (c, d)
    else
      let d := if bit val 1 then d.hostGet d.imageSource 32 else d
      ({ c with load := some { fromHost := bit val 1, persist := bit val 2, keys := c.flash.keys } }, d)

/-- LOAD (R69). -/
def execLoad (fn : Fin 16) (val : Word) (s : State) : Host.Outcome State Fault Refusal :=
  onAll s fun c d => tmCtrlWrite c d fn (setBit val.toNat 0 true)

/-- A load in progress refused. -/
def loadRefused (c : Ctl) (d : Dev) (e : Nat × Nat) : Ctl × Dev :=
  let (c, d) := refusal c d e
  loadEnded c d

/-- A key command is being carried out (R483). -/
def Ctl.keyBusy (c : Ctl) : Bool :=
  match c.keyPhase with
  | .reading => true
  | .writing _ _ => true
  | _ => false

/-- TM_IMAGE_READ_DONE (R69, R71 check 1): the image is Ranger's own copy from now on; ok: host memory, or the flash, could be read.
A key command that was under way comes first (R483). -/
def execTmImageReadDone (ok : Bool) (image : List Byte) (s : State) : Host.Outcome State Fault Refusal :=
  onAll s fun c d =>
    match c.load with
    | none => (c, d)
    | some l =>
      if l.phase ≠ .reading || c.keyBusy then (c, d)
      else if !l.fromHost then
        (resumeWaiting { c with load := some { l with phase := .checking, banks := c.readable.map (ok && ·), keys := c.flash.keys } }, d)
      else if !ok then loadRefused c d (1, 0)
      else
        let d := if (headerCheck image).isNone then d.hostGet d.imageSource (tmLength image) else d
        (resumeWaiting { c with load := some { l with phase := .checking, image := wholeImage image, keys := c.flash.keys } }, d)

/-- TM_CHECKS_END (R68, R71, R76). A load from flash outside power-up checks both banks, and each that fails counts as a refusal of its own, as R68 says of
power-up (DEDUCED, log entry 114). -/
def execTmChecksEnd (s : State) : Host.Outcome State Fault Refusal :=
  onAll s fun c d =>
    match c.load with
    | none => (c, d)
    | some l =>
      if l.phase ≠ .checking then (c, d)
      else if l.fromHost then
        match imageCheck c true l.keys l.image with
        | some e => loadRefused c d e
        | none => ({ c with load := some { l with phase := if l.persist then .flashWrite else .applying } }, d)
      else
        let (es, i) := flashChoice c l.keys l.banks
        let (c, d) := es.foldl (fun (x : Ctl × Dev) e => refusal x.1 x.2 e) (c, d)
        match i with
        | none => loadEnded c d
        | some i => ({ c with load := some { l with phase := .applying, bank := i, image := c.flash.bankImage i } }, d)

/-- TM_FLASH_WRITE_DONE (R68, check 13): the bank that does not hold the map in effect; where neither does, which bank is open (log
entry 77). The floor is raised in both copies. -/
def execTmFlashWriteDone (ok : Bool) (s : State) : Host.Outcome State Fault Refusal :=
  onAll s fun c d =>
    match c.load with
    | none => (c, d)
    | some l =>
      if l.phase ≠ .flashWrite then (c, d)
      else if !ok then loadRefused c d (0xD, 0)
      else
        let (d, i) := match c.mapBank with
          | some 0 => (d, 1)
          | some _ => (d, 0)
          | none => (d.free.1, d.free.2.toNat % 2)
        let g := max c.flash.floorOf (le l.image 0x10 8)
        ({ c with load := some { l with phase := .applying, bank := i }
                  flash := { c.flash with bank := modNth (fun _ => l.image) i c.flash.bank, floor := [some g, some g] } }, d)

/-- TM_APPLY_DONE (R47, R79). -/
def execTmApplyDone (s : State) : Host.Outcome State Fault Refusal :=
  onAll s fun c d =>
    match c.load with
    | none => (c, d)
    | some l =>
      if l.phase ≠ .applying then (c, d)
      else
        let (c, d) := applyMap c d (parseTrailMap l.image) (if l.fromHost && !l.persist then none else some l.bank)
        loadEnded c d

/-- The floor taken at power-up (R68): where neither copy verifies, from the banks that pass checks 1 to 6, and both copies rewritten. -/
def bootFloor (c : Ctl) (banks : List Bool) : Flash :=
  if c.flash.floor.any (·.isSome) then c.flash
  else
    let gens := ([0, 1].filter (fun i => nth false banks i && ((headerCheck (c.flash.bankImage i)).isNone &&
      (signCheck c.vendorKey c.flash.keys (c.flash.bankImage i)).isNone))).map (fun i => le (c.flash.bankImage i) 0x10 8)
    let g := gens.foldl max 0
    { c.flash with floor := [some g, some g] }

/-- BOOT_TRAIL_MAP_LOAD (R68, Table 16.2 step 4): at power-up, once Ranger's firmware runs. -/
def execBootTrailMapLoad (s : State) : Host.Outcome State Fault Refusal :=
  onAll s fun c d =>
    if c.stage ≠ .firmware || (c.map.isSome || c.load.isSome) then (c, d)
    else
      let c := { c with flash := bootFloor c c.readable }
      let (es, i) := flashChoice c c.flash.keys c.readable
      let (c, d) := es.foldl (fun (x : Ctl × Dev) e => refusal x.1 x.2 e) (c, d)
      match i with
      | none => (c, d.irq 4146)
      | some i =>
        let (c, d) := applyMap c d (parseTrailMap (c.flash.bankImage i)) (some i)
        (c, d.irq 4146)

end Sys2Proof.Machine
end

