-- ==== Sys2Proof/Machine/BringUp.lean ====
section
/-! DEFINITION. Firmware and self test at bring-up (Bring-up, Ageing and Margin Re-planning; Identity, Signing and Protected Regions). -/

namespace Sys2Proof.Machine

/-- The length that a firmware header gives (R479). -/
def fwLength (b : List Byte) : Nat := le b 4 4

/-- A firmware image as long as its header says, where that length is admissible; otherwise its first 64 B. Bytes past the end of what was
read are taken as given by `fill`. -/
def fwImage (fill : Byte) (b : List Byte) : List Byte :=
  let n := fwLength b
  let n := if n % 64 = 0 && (256 ≤ n && n ≤ 4194304) then n else 64
  (b ++ List.replicate (n - b.length) fill).take n

/-- The checks of Table 18.1 from the second on, in order: the code of the first that fails, 0 when all pass. -/
def fwCheck (img : List Byte) : Nat :=
  let n := fwLength img
  if le img 0 4 ≠ 0x57465847 then 2
  else if !(n % 64 = 0 && (256 ≤ n && n ≤ 4194304)) then 3
  else if sha256 (slice img 64 64) ≠ Config.rootHash then 4
  else if !verifySig (slice img 64 64) (img.take (n - 64)) (img.drop (n - 64)) then 5
  else if le img 8 4 < Config.minSvn then 6
  else 0

/-- Ranger runs an image that has verified. -/
def Ctl.runFirmware (c : Ctl) (img : List Byte) : Ctl := { c with stage := .firmware, firmware := img }

/-- The bytes of a firmware bank: one that holds no image reads as erased flash. -/
def Flash.firmware (f : Flash) (i : Nat) : List Byte := fwImage 0xFF (nth [] f.fwBank i)

/-- The checks of Table 18.1 on a firmware bank. -/
def Flash.fwFault (f : Flash) (i : Nat) : Nat := if nth false f.fwUnread i then 1 else fwCheck (f.firmware i)

/-- FIRMWARE_BANK_VERIFY (R442, R479): bank 0 is tried first, then bank 1; with neither, Ranger stays in its ROM. -/
def execFirmwareBankVerify (s : State) : Host.Outcome State Fault Refusal :=
  onAll s fun c d =>
    if c.stage ≠ .rom then (c, d)
    else
      let e0 := c.flash.fwFault 0
      let e1 := c.flash.fwFault 1
      if e0 = 0 then ({ c.runFirmware (c.flash.firmware 0) with fwBank := 0 }, d)
      else if e1 = 0 then ({ c.runFirmware (c.flash.firmware 1) with fwBank := 1, fwCode := e0 }, d)
      else ({ c with stage := .romWait, fwCode := e1 }, d)

/-- The image that fw_load asked for has been read, or could not be (R442): it is checked and run, or refused; fw_load clears. -/
def Ctl.fwLoaded (c : Ctl) (ok : Bool) (image : List Byte) : Ctl :=
  let c := { c with fwLoad := false }
  if !ok then { c with fwCode := 1 }
  else if fwCheck (fwImage 0 image) = 0 then c.runFirmware (fwImage 0 image)
  else { c with fwCode := fwCheck (fwImage 0 image) }

/-- FW_LOAD (R442): effective only in ROM_WAIT. ok: the image could be read from host memory. It completes a load that a REGISTER_WRITE of
BU_BOOT has requested; where none is pending it is itself the write of fw_load (log entry 106). -/
def execFwLoad (fn : Fin 16) (ok : Bool) (image : List Byte) (s : State) : Host.Outcome State Fault Refusal :=
  onAll s fun c d =>
    if c.fwLoad then (c.fwLoaded ok image, d)
    else
      let (c, d) := fwLoadWrite c d fn 1
      (if c.fwLoad then c.fwLoaded ok image else c, d)

/-- BIST_END (R438, R441): the 132 physical cores have been tested; every core reports a slack (R444). -/
def execBistEnd (failed : BitVec 132) (slack : List (BitVec 8)) (s : State) : Host.Outcome State Fault Refusal :=
  onAll s fun c d =>
    if c.stage ≠ .firmware || c.bistDone then (c, d)
    else ({ c.takeSlack (List.range 132) slack with bistDone := true, bistFail := failed.toNat }, d)

end Sys2Proof.Machine
end

