-- ==== Sys2Proof/Machine/HostLink.lean ====
section
/-! DEFINITION. The Eokeska Link and the EHA4 (Eokeska Link and the Host Adapter): link states, attach, the aperture, flush reads, answers of
the host, interrupts. -/

namespace Sys2Proof.Machine

def Dev.updHl (d : Dev) (f : HostPort → HostPort) : Dev := { d with hl := f d.hl }

/-- The host port leaves ATTACHED, where it is in it, for another state (R430). -/
def Dev.leave (d : Dev) (state : Nat) : Dev :=
  let d := if d.attached then (d.updHl (fun h => { h with session := w32 (h.session + 1) })).raise baseHL 0 (baseHL + 0x20) else d
  d.updHl (fun h => { h with state := state })

/-- A link is lost (R424, R428, R429): the port is DETACHED, and every host-window access outstanding at the EHA4 ends as failed: reads and writes, the flush
read in flight, the record writes that are being read back. -/
def Dev.linkLoss (c : Ctl) (d : Dev) : Dev :=
  let d := d.leave 0
  let d := if d.hl.flush.isSome then (d.updHl (fun h => { h with flush := none })).raise baseHL 2 (baseHL + 0x28) else d
  let d := (d.hl.ext.filter (fun e => e.host && e.answer.isNone)).foldl (fun d e => d.extFails e) d
  d.chans.foldl (fun d (e : Nat × Channel) => match e.2.record with
    | some r => if e.2.readback then d.recordFailed c e.1 r (d.recordPa e.1) else d
    | none => d) d

/-- EKL_LINK_UP (R415). -/
def execEklLinkUp (s : State) : Host.Outcome State Fault Refusal := onDev s fun _ d => d.updHl (fun h => { h with eklUp := true })

/-- EKL_LINK_DOWN (R428). -/
def execEklLinkDown (s : State) : Host.Outcome State Fault Refusal :=
  onDev s fun c d => if d.hl.eklUp then ((d.updHl (fun h => { h with eklUp := false })).linkLoss c).readyLost else d

/-- PCIE_LINK_UP (R428). -/
def execPcieLinkUp (s : State) : Host.Outcome State Fault Refusal := onDev s fun _ d => d.updHl (fun h => { h with pcieUp := true })

/-- PCIE_LINK_DOWN (R427, R428). -/
def execPcieLinkDown (s : State) : Host.Outcome State Fault Refusal :=
  onDev s fun c d => (d.updHl (fun h => { h with pcieUp := false, armed := false })).linkLoss c

/-- FUNCTION_LEVEL_RESET (R416): nothing in the GX12 changes. -/
def execFunctionLevelReset (_fn : Fin 16) (s : State) : Host.Outcome State Fault Refusal := onDev s fun _ d => d

/-! ### Aperture -/

/-- While armed is 1 the EHA4 accepts a request only from the requester ID in HL_HOST_RID (R427). -/
def Dev.ridRefuses (d : Dev) (rid : BitVec 16) : Bool := d.hl.armed && d.fld (baseHL + 0x10) 15 0 ≠ rid.toNat
/-- A request of another requester gets Unsupported Request, and is counted (R427). -/
def Dev.ridReject (d : Dev) : Dev := { d.raise baseHL 4 (baseHL + 0x30) with reply := { error := true } }

/-- The facet of a function's aperture, and the physical address of an offset (R418). -/
def Dev.apertureFacet (d : Dev) (fn : Nat) : Nat := d.fld (baseHL + 0x100 + 4 * fn) 19 16
def Dev.aperturePa (d : Dev) (fn off : Nat) : Nat := d.fld (baseHL + 0x100 + 4 * fn) 15 0 * 2 ^ 32 + off

/-- Why an access of a function's aperture to [a, a + n) of one granule is refused (R418): the kind of its violation. -/
def apertureFault (c : Ctl) (d : Dev) (fn a n : Nat) : Option Nat :=
  let f := d.apertureFacet fn
  let granted := match c.tm.access.find? (fun e => e.fn == fn) with
    | some e => bit e.facets f
    | none => false
  if !d.flag (baseHL + 0x100 + 4 * fn) 31 || !granted then some 2
  else if !c.inHbm f a n then some 1
  else none

/-- A refused access is logged with its physical address (R418). -/
def apertureRefused (d : Dev) (fn kind pa : Nat) : Dev :=
  d.violate { kind := kind, block := 5, reqKind := 0, addrKind := 2, facet := 0xFF, requester := fn, address := pa }

/-- The accesses of an aperture read, one for each granule: what they return in order, and whether one was refused. -/
def apertureRead (c : Ctl) (d : Dev) (fn : Nat) (spans : List (Nat × Nat)) : Dev × List PByte × Bool :=
  spans.foldl (fun acc x => match apertureFault c acc.1 fn x.1 x.2 with
    | some kind => (apertureRefused acc.1 fn kind x.1, acc.2.1, true)
    | none =>
      let (d, b, _) := Dev.paRead c acc.1 (whoHost fn (acc.1.apertureFacet fn)) x.1 x.2 0 false
      (d, acc.2.1 ++ b, acc.2.2)) (d, [], false)

/-- The accesses of an aperture write that starts at pa. -/
def apertureWrite (c : Ctl) (d : Dev) (fn pa : Nat) (b : List PByte) (spans : List (Nat × Nat)) : Dev × Bool :=
  spans.foldl (fun acc x => match apertureFault c acc.1 fn x.1 x.2 with
    | some kind => (apertureRefused acc.1 fn kind x.1, true)
    | none => ((Dev.paWrite c acc.1 (whoHost fn (acc.1.apertureFacet fn)) x.1 ((b.drop (x.1 - pa)).take x.2) 0 false).1, acc.2)) (d, false)

/-- APERTURE_ACCESS (R418, R427, R510): a read answers the bytes of the granules that it may read, with 1 as data where a completion carries EP; a refused granule
gives Completer Abort. -/
def execApertureAccess (who : HostId) (off len : Nat) (data : Option (List Byte)) (ep : Bool) (s : State) : Host.Outcome State Fault Refusal :=
  onDev s fun c d =>
    let fn := who.fn
    let pa := d.aperturePa fn off
    if d.ridRefuses who.rid then d.ridReject
    else if len = 0 || (4096 < len || 2 ^ 32 < off + len) then d
    else match data with
      | none =>
        let (d, b, err) := apertureRead c d fn (pieceSpans pa len)
        { d with reply := { error := err, data := if anyPoison b then 1 else 0, bytes := plain b } }
      | some b =>
        let (d, err) := apertureWrite c d fn pa (marked ep (padTo len b)) (pieceSpans pa len)
        if err then { d with reply := { error := true } } else d

/-! ### Attach -/

/-- REQUEST (R430): a write of HL_ATTACH with the token. -/
def execRequest (fn : Fin 16) (token : BitVec 16) (s : State) : Host.Outcome State Fault Refusal :=
  onDev s fun c d => hostWrite c d fn (baseHL + 8) 4 fun d =>
    let was := d.attached
    let d := (d.setFld (baseHL + 8) 31 16 token.toNat).leave 1
    d.updHl (fun h => { h with fn := fn, echo := token.toNat, session := if was then h.session else w32 (h.session + 1) })

/-- COMPLETE (R430, R432). -/
def execComplete (fn : Fin 16) (s : State) : Host.Outcome State Fault Refusal :=
  onDev s fun c d => hostWrite c d fn (baseHL + 8) 4 fun d =>
    if d.hl.state ≠ 1 then dropWrite d 4 fn (baseHL + 8)
    else if d.hl.fn ≠ fn then dropWrite d 2 fn (baseHL + 8)
    else (d.updHl (fun h => { h with state := 2 })).raise baseHL 1 (baseHL + 0x24)

/-- DETACH (R428). -/
def execDetach (fn : Fin 16) (s : State) : Host.Outcome State Fault Refusal :=
  onDev s fun c d => hostWrite c d fn (baseHL + 8) 4 fun d => d.leave 0

/-- A write of HL_HOST_RID (R427). -/
def hostRidWrite (c : Ctl) (d : Dev) (fn val : Nat) : Dev :=
  hostWrite c d fn (baseHL + 0x10) 4 fun d => (writeFields d (baseHL + 0x10) val).updHl (fun h => { h with armed := bit val 16 })

/-- HL_HOST_RID_WRITE (R427). -/
def execHlHostRidWrite (fn : Fin 16) (val : Word) (s : State) : Host.Outcome State Fault Refusal :=
  onDev s fun c d => hostRidWrite c d fn val.toNat

/-! ### Writes and reads of host memory -/

/-- A host-window write that no flush read has covered yet. -/
def Dev.unflushed (d : Dev) : Bool := d.hl.ext.any (fun e => e.host && e.write)

/-- FLUSH_READ_ISSUE (R420). -/
def execFlushReadIssue (s : State) : Host.Outcome State Fault Refusal :=
  onDev s fun _ d =>
    if !d.attached || (d.hl.flush.isSome || !d.unflushed) then d
    else
      let n := d.hl.nextId
      ((d.updHl (fun h => { h with flush := some n, nextId := n + 1 })).count (baseHL + 0x48) 1).emit (.flushRead n)

/-- FLUSH_READ_DONE (R420): the writes issued before it are acknowledged as written, or complete as failed. -/
def execFlushReadDone (ok : Bool) (s : State) : Host.Outcome State Fault Refusal :=
  onDev s fun _ d =>
    match d.hl.flush with
    | none => d
    | some n =>
      let l := d.hl.ext.filter (fun e => e.host && (e.write && e.id < n))
      let d := d.updHl (fun h => { h with flush := none, flushedTo := n, ext := h.ext.filter (fun e => !(e.host && (e.write && e.id < n))) })
      if ok then d else (l.foldl (fun d e => d.notWritten e.own) d).raise baseHL 2 (baseHL + 0x28)

/-- HOST_WINDOW_READ_RESPONSE (R419, R510): the answer to outstanding read n. -/
def execHostWindowReadResponse (n : Nat) (host : HostData) (s : State) : Host.Outcome State Fault Refusal :=
  onDev s fun _ d =>
    match d.extOpen n true with
    | none => d
    | some e =>
      if e.write then d
      else if d.extQuarantined e then d.dropAnswer e
      else match host with
        | .data b ep => d.updExt n (fun x => { x with answer := some (marked ep (padTo x.len b)) })
        | .failed => d.extFails e

/-- COMPLETION_TIMEOUT (R419). -/
def execCompletionTimeout (n : Nat) (s : State) : Host.Outcome State Fault Refusal :=
  onDev s fun _ d =>
    match d.extOpen n true with
    | some e => if e.write then d else if d.extQuarantined e then d.dropAnswer e else d.extFails e
    | none => d

/-! ### Interrupts -/

/-- MSIX_MESSAGE (R434): one message for a pending source whose route is enabled, while attached and its vector not masked. -/
def execMsixMessage (src : Fin 4160) (masked : Bool) (s : State) : Host.Outcome State Fault Refusal :=
  onDev s fun _ d =>
    let r := baseHL + 0x8000 + 4 * src
    if !NatSet.has d.hl.pend src || (!d.flag r 31 || (!d.attached || masked)) then d
    else ((d.updHl (fun h => { h with pend := NatSet.del h.pend src })).count (baseHL + 0x4C) 1).emit
      (.msix src (d.fld r 14 11) (d.fld r 10 0))

end Sys2Proof.Machine
end

