-- ==== Sys2Proof/Machine/MemorySystem.lean ====
section
/-! DEFINITION. Commands of the memory system (HBM4, Point Path and Memory-Side Cache): accesses at a slice, point queues, HBM reads with
what error correction says, flushes, scrubbing, channel states. -/

namespace Sys2Proof.Machine

/-- The requester of an access that an event names only by its facet (log entry 14): the facet's lowest core, engine DMA. -/
def anyWho (c : Ctl) (f : Nat) : Who := whoCore (nth 0 (c.facetCores f) 0) 6 f

/-- SLICE_READ (R278); ecc: what the ECC of the slice's data array says of the granule, where the slice holds it (R287). -/
def execSliceRead (facet : Fin 16) (pa : Nat) (hint : Hint) (how : ReadHow) (s : State) : Host.Outcome State Fault Refusal :=
  onDev s fun c d =>
    if !d.permits facet then d
    else
      let pa := pa / 64 * 64
      let (ch, loc) := c.place facet pa
      let d := if c.inHbm facet pa 64 then (match d.findLine ch loc with
        | some k => d.mscError k (loc % 256 / 64) how.ecc
        | none => d) else d
      let (d, b, p, e) := Dev.sliceRead c d (anyWho c facet) pa hint.num how.prot .stream true
      { d with reply := { data := flagNat p, error := e, bytes := b } }

/-- SLICE_WRITE (R277). -/
def execSliceWrite (facet : Fin 16) (pa : Nat) (mask : BitVec 64) (data : List Byte) (hint : Hint) (prot poison : Bool) (s : State) :
    Host.Outcome State Fault Refusal :=
  onDev s fun c d =>
    let b := padTo 64 data
    let m := (List.range 64).map (fun i => if bit mask.toNat i then some (nth 0 b i) else none)
    let (d, e) := Dev.sliceWrite c d (anyWho c facet) pa m poison hint.num prot true
    { d with reply := { error := e } }

/-- Requests that a full point queue had not accepted enter it as it has room (R279). -/
def Chan.accept (k : Chan) : Chan :=
  let n := 64 - k.queue.length
  { k with queue := k.queue ++ k.waiting.take n, waiting := k.waiting.drop n }

/-- Requests reach a channel's point queue. -/
def Dev.pointQueue (d : Dev) (ch : Nat) (l : List PointReq) : Dev :=
  d.setMchan ch { d.mchan ch with waiting := (d.mchan ch).waiting ++ l }.accept

/-- POINT_READ_REQUEST (R279): a granule that the slice holds is answered from it; any other request enters the channel's point queue, or waits
for room in it. -/
def execPointReadRequest (facet : Fin 16) (pa : Nat) (cls : PointClass) (hint : Hint) (s : State) : Host.Outcome State Fault Refusal :=
  onDev s fun c d =>
    let w := anyWho c facet
    let pa := pa / 64 * 64
    if !d.permits facet then d
    else if !c.inHbm facet pa 64 then { d.violate (rangeViolation w pa) with reply := { data := 1, error := true, bytes := zeros 64 } }
    else
      let (ch, loc) := c.place facet pa
      let cached := match d.findLine ch loc with
        | some k => (nth ({} : Sector) (d.line k).sectors (loc % 256 / 64)).valid && !(d.line k).prot
        | none => false
      if cached then
        let (d, b, p, e) := Dev.sliceRead c d w pa hint.num false .point true
        { d with reply := { data := flagNat p, error := e, bytes := b } }
      else d.pointQueue ch [{ pa := pa, cls := cls.num, hint := hint.num, facet := facet }]

/-- POINT_REQUEST_AGED (R279): request n of the queue, counted from the oldest, has waited 512 MSC cycles. -/
def execPointRequestAged (ch : Fin 384) (n : Nat) (s : State) : Host.Outcome State Fault Refusal :=
  onDev s fun _ d =>
    let q := d.mchan ch
    d.setMchan ch { q with queue := modNth (fun r => { r with aged := true }) n q.queue }

/-- The request that a channel serves next (R279, R291): the oldest aged one, else the oldest of the highest class. -/
def nextPoint (q : List PointReq) : Option PointReq :=
  ((q.find? (·.aged)) :: ([0, 1, 2].map (fun i => q.find? (·.cls == i)))).findSome? id <|> q.head?

/-- Two queued requests that one HBM read serves: for one granule, with no write between them. -/
def PointReq.sameRead (r x : PointReq) : Bool := x.pa == r.pa && (x.snap == r.snap && x.merged == r.merged)

/-- What a scrub read does (R286, R291): a granule that cannot be corrected is recorded as found by the scrub and rewritten with the poison pattern. -/
def Dev.scrubGranule (c : Ctl) (d : Dev) (ch loc : Nat) : Dev :=
  let g := hbmKey ch loc / 64
  if !NatSet.has d.mem.bad g then d
  else
    let d := (d.recordUe ch (c.unplace ch (loc / 64 * 64)) 1).count (baseMc ch + 0x58) 1
    { d with mem := { d.mem with bad := NatSet.del d.mem.bad g, poison := NatSet.ins d.mem.poison g } }

/-- A read that a later write has overtaken (R278): x, the granule as it stood before the write, answers its clients; what the read would write back is
dropped (R286, R291). -/
def Dev.overtakenRead (c : Ctl) (d : Dev) (ch loc : Nat) (scrub : Bool) (ecc : Ecc) (x : List Byte × Bool)
    (answer : Dev → List Byte → Bool → Bool → Dev) : Dev :=
  let reply := fun (d : Dev) (b : List Byte) (p e : Bool) => if scrub then d else answer (if p then d.count (baseMc ch + 0x54) 1 else d) b p e
  if (d.mchan ch).state ≠ .ready then reply d (zeros 64) true true
  else match ecc with
    | .clean => reply d x.1 x.2 false
    | .corrected => reply (d.hbmError ch loc ecc) x.1 x.2 false
    | .uncorrectable => reply (d.recordUe ch (c.unplace ch (loc / 64 * 64)) (flagNat scrub)) x.1 true false

/-- HBM_READ_COMPLETE (R286): the next point request of the channel is served, with every queued request that the same read serves. A request that a
write has overtaken is answered with the granule as it stood before it (R278). ecc: the error in the granule, if any. -/
def execHbmReadComplete (ch : Fin 384) (ecc : Ecc) (age : Nat) (s : State) : Host.Outcome State Fault Refusal :=
  onDev s fun c d =>
    match nextPoint (d.mchan ch).queue with
    | none => d
    | some r =>
      let q := d.mchan ch
      let same := q.queue.filter r.sameRead
      let clients := (same.filter (fun x => x.cls ≠ 3)).length
      let d := d.setMchan ch { q with queue := q.queue.filter (fun x => !r.sameRead x) }.accept
      let d := d.setReg (baseMc ch + 0x64) (min (2 ^ 32 - 1) (max age (d.reg (baseMc ch + 0x64))))
      let answer := fun (d : Dev) (b : List Byte) (p e : Bool) =>
        { d with reply := { data := flagNat p, error := e, bytes := b, merged := clients - 1 } }
      if r.merged then answer d (r.snap.getD ([], false)).1 (r.snap.getD ([], false)).2 false
      else
        let loc := (c.place r.facet r.pa).2
        let d := d.count (baseMc ch + 0x44) (same.length - 1)
        match r.snap with
        | some x => (d.countRead ch .point).overtakenRead c ch loc (clients = 0) ecc x answer
        | none =>
          let ready := (d.mchan ch).state = .ready
          let d := if ready then d.hbmError ch loc ecc else d
          let d := if ready && same.any (fun x => x.cls == 3) then d.scrubGranule c ch loc else d
          if clients = 0 then d.countRead ch .point
          else
            let (d, b, p, e) := Dev.sliceRead c d (anyWho c r.facet) r.pa r.hint false .point true
            answer d b p e

/-- The facets of the bits that may be set: an ABSENT facet's bit has no effect (R295). -/
def presentBits (c : Ctl) (v : Nat) : List Nat := (bitsOf 16 v).filter (fun f => c.fstate f ≠ .absent)

/-- MS_FLUSH (R285, R295): the bits are set, and the slice starts its visit. -/
def execMsFlush (fn : Fin 16) (slice : Fin 16) (b : BitVec 16) (s : State) : Host.Outcome State Fault Refusal :=
  onDev s fun c d =>
    let off := baseMs slice + 4
    hostWrite c d fn off 4 fun d => d.setReg off (d.reg off ||| maskOf (presentBits c b.toNat))

/-- MS_UNKEEP (R285, R295). -/
def execMsUnkeep (fn : Fin 16) (slice : Fin 16) (b : BitVec 16) (s : State) : Host.Outcome State Fault Refusal :=
  onDev s fun c d =>
    let off := baseMs slice + 8
    hostWrite c d fn off 4 fun d => d.setReg off (d.reg off ||| maskOf (presentBits c b.toNat))

/-- MS_FLUSH_DONE (R285): every set has been visited, and the bit clears. -/
def execMsFlushDone (slice : Fin 16) (f : Fin 16) (unkeep : Bool) (s : State) : Host.Outcome State Fault Refusal :=
  onDev s fun c d =>
    let off := baseMs slice + (if unkeep then 8 else 4)
    if bit (d.reg off) f then
      let base := ((slice.val * 16 + f.val) * 2 + flagNat unkeep) * 4096
      let sets := ((d.mem.lines.filter (fun e => e.1 / 65536 = slice.val && (e.2.state ≠ .invalid && e.2.facet = f.val))).map (fun e => e.1 % 65536 / 16)).eraseDups
      let d := (sets.filter (fun x => !NatSet.has d.mem.visited (base + x))).foldl (fun d x => Dev.visitSet c d slice f unkeep x) d
      { d with mem := { d.mem with visited := d.mem.visited.filter (fun x => x / 4096 ≠ base / 4096) } }.setReg off (setBit (d.reg off) f false)
    else d

/-- SCRUB_READ (R291): the scrub's read of the next 256 B granule of a READY channel enters the point queue as four requests of the lowest class.
ecc: the error that the granule's 64 B part n holds by now, which the read of that part meets. -/
def execScrubRead (ch : Fin 384) (n : Fin 4) (ecc : Ecc) (s : State) : Host.Outcome State Fault Refusal :=
  onDev s fun c d =>
    let k := d.mchan ch
    if k.state = .ready && d.flag (baseMc ch + 0x14) 16 then
      let q := k.scrubPos
      let d := (d.setMchan ch { k with scrubPos := if q = 4718591 then 0 else q + 1 }).count (baseMc ch + 0x60) 1
      let f := ((chanOwner (nth 0x80 c.tm.chan ch)).head?).getD 0
      (d.hbmError ch (q * 256 + 64 * n.val) ecc).pointQueue ch ((List.range 4).map (fun i => { pa := c.unplace ch (q * 256 + 64 * i), cls := 3, facet := f }))
    else d

/-- CHANNEL_FAILED (R276): a READY channel enters FAILED. -/
def execChannelFailed (ch : Fin 384) (s : State) : Host.Outcome State Fault Refusal :=
  onDev s fun _ d =>
    let k := d.mchan ch
    if k.state = .ready then ((d.setMchan ch { k with state := .failed }).raise (baseMc ch) 2 (baseMc ch + 0x28)).readyLost else d

/-- CHANNEL_TRAINING_END (R276, R438 step 7): a channel that the map in effect does not map out and that is DOWN ends its training. -/
def execChannelTrainingEnd (ch : Fin 384) (ok : Bool) (s : State) : Host.Outcome State Fault Refusal :=
  onDev s fun c d =>
    let k := d.mchan ch
    if k.state = .down && (c.map.isSome && !(chanOwner (nth 0x80 c.tm.chan ch)).isEmpty) then
      if ok then d.setMchan ch { k with state := .ready } else d
    else d

end Sys2Proof.Machine
end

