-- ==== Sys2Proof/Machine/Power.lean ====
section
/-! DEFINITION. Input power, rails, trips, reset, the power governor, SMBus and the test port (Power, Connectors and Mechanical Data; Rails
of Bring-up, Ageing and Margin Re-planning). -/

namespace Sys2Proof.Machine

/-! ### Reset -/

/-- The logic is put in reset (R502, R503, R491, R436): every volatile memory and register is lost; module flash, the supply and the pins stay.
A facet's key pair does not survive (R487). -/
def State.holdInReset (s : State) : State :=
  { s with
    ctl := { power := { s.ctl.power with running := false, thermalHold := false }, flash := s.ctl.flash, keyEpoch := s.ctl.keyEpoch.map (· + 1) }
    dev := { freeCtr := s.dev.freeCtr, out := s.dev.out } }

/-- The state with its supply and pins changed. -/
def State.updPower (s : State) (f : Power → Power) : State := { s with ctl := { s.ctl with power := f s.ctl.power } }

/-- Every rail reports power good. -/
def Power.allGood (p : Power) : Bool := p.rails.all id
/-- V_AUX is up: the sideband controller, SMBus and the test port work (R505). -/
def Power.aux (p : Power) : Bool := nth false p.rails 1
/-- An instruction that keeps the logic in reset is loaded (R506). -/
def TapInstr.holds : TapInstr → Bool
  | .bypass => false
  | .samplePreload => false
  | .extest => true
  | .extestPulse => true
  | .extestTrain => true
/-- The outputs PWR_OK, THERM_TRIP_N and SMB_ALERT_N (R491, R503 to R505): high while every rail is good; low from a trip until the input stops. -/
def Power.pwrOk (p : Power) : Bool := p.allGood
def Power.thermTripN (p : Power) : Bool := p.trip = 0
def Power.smbAlertN (p : Power) : Bool := p.trip = 0
/-- Nothing keeps the logic in reset (R503, R491, R506). -/
def Power.mayRun (p : Power) : Bool := p.pwrOk && (p.thermTripN && (p.rstN && (p.refclk && !p.tap.holds)))

/-- The logic leaves reset if nothing keeps it there; the input energy of the time in reset is not measured (log entry 78). -/
def State.leaveReset (s : State) : State :=
  if s.ctl.power.running || !s.ctl.power.mayRun then s
  else
    let d := s.dev.free
    { s with dev := d.1, ctl := { s.ctl with power := { s.ctl.power with running := true, energy := s.ctl.power.energy + d.2.toNat } } }

/-- INPUT_IN_RANGE (R489, R490). -/
def execInputInRange (s : State) : Host.Outcome State Fault Refusal :=
  .next (s.updPower (fun p => { p with inputOk := true, inOperating := true }))

/-- INPUT_STOP (R490, R491): the rails go down, the trip ends, all volatile contents are lost. -/
def execInputStop (s : State) : Host.Outcome State Fault Refusal :=
  .next (s.holdInReset.updPower (fun p => { p with
    inputOk := false, inOperating := false, rails := List.replicate 6 false, railMv := List.replicate 6 0, trip := 0, energy := 0
    thermalHold := false, tap := .bypass }))

/-- VIN_OUT (R490): the input is between the operating range and a stop condition; a running module goes on. -/
def execVinOut (s : State) : Host.Outcome State Fault Refusal :=
  let s := s.updPower (fun p => { p with inOperating := false })
  .next (if s.ctl.power.running then { s with dev := s.dev.raise basePW 4 (basePW + 0x20) } else s)

/-- RAIL_POWER_GOOD (R436): the next rail in order reports power good; none after a trip (R491). -/
def execRailPowerGood (mv : BitVec 16) (s : State) : Host.Outcome State Fault Refusal :=
  .next (s.updPower (fun p =>
    if !p.inputOk || p.trip ≠ 0 then p
    else match findIdx (fun b => !b) p.rails with
      | none => p
      | some r => { p with rails := modNth (fun _ => true) r p.rails, railMv := modNth (fun _ => mv.toNat) r p.railMv }))

/-- The rails that a trip leaves up (R491): V_BUS and V_AUX; a rail that has lost power good is down whichever it is. -/
def tripRails (cause : TripCause) (l : List Bool) : List Bool :=
  let l := l.take 2 ++ List.replicate 4 false
  match cause with
  | .railFault r => modNth (fun _ => false) r l
  | _ => l

/-- The trip can happen: a rail fault needs a rail that was good. -/
def tripCan (cause : TripCause) (p : Power) : Bool :=
  p.inputOk && (p.trip = 0 && (match cause with
    | .railFault r => nth false p.rails r
    | _ => p.aux))

/-- TRIP (R491). -/
def execTrip (cause : TripCause) (s : State) : Host.Outcome State Fault Refusal :=
  .next (if tripCan cause s.ctl.power then
    s.holdInReset.updPower (fun p => { p with rails := tripRails cause p.rails, trip := cause.code })
  else s)

/-- MOD_RST_N_ASSERT (R503). -/
def execModRstNAssert (s : State) : Host.Outcome State Fault Refusal :=
  .next (s.holdInReset.updPower (fun p => { p with rstN := false }))

/-- RESET_RELEASE (R503): PWR_OK is high, REFCLK stable and MOD_RST_N high; the event is the latest of the three. -/
def execResetRelease (s : State) : Host.Outcome State Fault Refusal :=
  .next (if s.ctl.power.allGood && s.ctl.power.trip = 0 then (s.updPower (fun p => { p with rstN := true, refclk := true })).leaveReset else s)

/-- REFCLK_LOSS (R502). -/
def execRefclkLoss (s : State) : Host.Outcome State Fault Refusal :=
  .next (s.holdInReset.updPower (fun p => { p with refclk := false }))

/-! ### The governor -/

/-- A sum of fractions. -/
def Frac.add (a b : Frac) : Frac :=
  if a.den = b.den then { num := a.num + b.num, den := a.den }
  else
    let l := Nat.lcm a.den b.den
    { num := a.num * (l / a.den : Nat) + b.num * (l / b.den : Nat), den := l }
/-- a < b, for fractions with positive denominators. -/
def Frac.lt (a b : Frac) : Bool := decide (a.num * (b.den : Int) < b.num * (a.den : Int))
/-- The greatest whole number of W not above a fraction in mW. -/
def Frac.watts (a : Frac) : Int := a.num / ((a.den : Int) * 1000)

/-- The facets that the governor accounts, with their shares; without a map the module is one facet (R493). -/
def govShares (c : Ctl) : List (Nat × Nat) :=
  match c.map with
  | none => [(0, 1)]
  | some m => m.facets.map (fun e => (e.id, nth 0 m.share e.id))
/-- The sum of the shares. -/
def govTotal (c : Ctl) : Nat := max 1 ((govShares c).foldl (fun t x => t + x.2) 0)
/-- The module limits in W: cont_cap and peak, or those of R7. -/
def govCaps (c : Ctl) : Nat × Nat := if c.map.isSome then (c.tm.cap, c.tm.peak) else (1200, 1500)
/-- The excursion allowance in ms. -/
def govX (c : Ctl) : Nat := if c.map.isSome then c.tm.excursion else 20
/-- C_f in mW (R494). -/
def govC (c : Ctl) (share : Nat) : Frac := { num := ((govCaps c).1 * 1000 * share : Nat), den := govTotal c }
/-- K_f in mW. -/
def govK (c : Ctl) (share : Nat) : Frac := { num := ((govCaps c).2 * 1000 * share : Nat), den := govTotal c }

/-- The attributed power of a facet in mW (R493). -/
def govPower (c : Ctl) (x : PowerSample) (f share : Nat) : Frac :=
  let sumE := (govShares c).foldl (fun t y => t + nth 0 x.estimate y.1) 0
  { num := ((nth 0 x.estimate f : Nat) : Int) * (govTotal c : Int) + ((x.power : Int) - (sumE : Int)) * (share : Int), den := govTotal c }

/-- The mean of the last 6,250 samples; a sample not taken yet counts 0 W (R494, R497). -/
def GovFacet.average (g : GovFacet) : Frac :=
  let t := g.hist.foldl Frac.add {}
  { t with den := t.den * 6250 }

/-- One sample of one facet (R494, R495): the new account, and whether it reached its excursion allowance, exceeded its peak limit, exceeded its
average limit. -/
def govFacetStep (c : Ctl) (hold : Bool) (g : GovFacet) (p : Frac) (share : Nat) : GovFacet × Bool × Bool × Bool :=
  let lim := govC c share
  let above := lim.lt p
  let exc := if above then g.excCount + 1 else g.excCount
  let low := if above then 0 else g.low + 1
  let reached := 125 * govX c ≤ 2 * exc
  let g' : GovFacet := { g with
    sample := p, hist := (p :: g.hist).take 6250, low := low
    below := if Frac.lt { p with num := p.num * 100 } { lim with num := lim.num * 95 } then g.below + 1 else 0 }
  let peak := (govK c share).lt p
  let slow := lim.lt g'.average
  let isOver := hold || (peak || (slow || (reached && above)))
  let g' := if isOver then { g' with level := min 16 (g.level + 1) }
    else if 6 ≤ g'.below then { g' with level := g.level - 1, below := 0 }
    else g'
  ({ g' with excCount := if 250 * govX c ≤ low then 0 else exc }, (reached && !(125 * govX c ≤ 2 * g.excCount)), peak, slow)

/-- One facet's account of a sample, with its flags. -/
def Dev.govFacet (c : Ctl) (x : PowerSample) (d : Dev) (f share : Nat) : Dev :=
  let (g, reached, peak, slow) := govFacetStep c c.power.thermalHold (nth {} d.gov f) (govPower c x f share) share
  let d := { d with gov := modNth (fun _ => g) f d.gov }
  let d := if reached then d.raise basePW 0 (basePW + 0x10) else d
  let d := if peak then d.raise basePW 1 (basePW + 0x14) else d
  if slow then d.raise basePW 2 (basePW + 0x18) else d

/-- The larger of two 8-bit two's complement numbers. -/
def maxSigned8 (a b : Nat) : Nat := if sext 8 a < sext 8 b then b else a

/-- The registers of a sample (Table 19.4). -/
def Dev.govRegs (d : Dev) (x : PowerSample) : Dev :=
  let w := min 65535 (x.power / 1000)
  let d := (((d.setFld (basePW + 0x40) 15 0 x.vin).setFld (basePW + 0x44) 15 0 x.iin).setFld (basePW + 0x48) 15 0 w)
  let d := d.setFld (basePW + 0x4C) 15 0 (max w (d.fld (basePW + 0x4C) 15 0))
  let d := (d.setFld (basePW + 0x50) 23 16 x.tcase.toNat).setFld (basePW + 0x50) 7 0 x.tj.toNat
  { d.setFld (basePW + 0x54) 7 0 (maxSigned8 (d.fld (basePW + 0x54) 7 0) x.tj.toNat) with energy := d.energy + 16 * x.power }

/-- GOVERNOR_SAMPLE (R493 to R496). -/
def execGovernorSample (sample : PowerSample) (s : State) : Host.Outcome State Fault Refusal :=
  onAll s fun c d =>
    let d := (govShares c).foldl (fun d y => d.govFacet c sample y.1 y.2) (d.govRegs sample)
    ({ c with power := { c.power with
        energy := c.power.energy + 16 * sample.power, inOperating := 50000 ≤ sample.vin && sample.vin ≤ 58000
        vin := sample.vin, iin := sample.iin, pin := sample.power / 1000, tj := sample.tj.toNat, tcase := sample.tcase.toNat } }, d)

/-- GOVERNOR_WINDOW (R495): the next 1 µs window; levels take effect at a 16 µs boundary. A window in which a facet may start nothing counts
as held. -/
def execGovernorWindow (s : State) : Host.Outcome State Fault Refusal :=
  onDev s fun c d =>
    let d := { d with window := (d.window + 1) % 16 }
    let d := if d.window = 0 then { d with gov := d.gov.map (fun g : GovFacet => { g with effective := g.level }) } else d
    (govShares c).foldl (fun d y => if d.permits y.1 then d else d.count (basePW + 0x10C + 0x20 * y.1) 1) d

/-- THERMAL_HOLD_START (R496). -/
def execThermalHoldStart (tj tcase : BitVec 8) (s : State) : Host.Outcome State Fault Refusal :=
  onAll s fun c d =>
    if (100 ≤ sext 8 tj.toNat || 82 ≤ sext 8 tcase.toNat) && !c.power.thermalHold then
      ({ c with power := { c.power with thermalHold := true, tj := tj.toNat, tcase := tcase.toNat } }, d.raise basePW 3 (basePW + 0x1C))
    else (c, d)

/-- THERMAL_HOLD_END (R496). -/
def execThermalHoldEnd (tj tcase : BitVec 8) (s : State) : Host.Outcome State Fault Refusal :=
  onAll s fun c d =>
    if (sext 8 tj.toNat ≤ 97 && sext 8 tcase.toNat ≤ 79) && c.power.thermalHold then
      ({ c with power := { c.power with thermalHold := false, tj := tj.toNat, tcase := tcase.toNat } }, d)
    else (c, d)

/-! ### SMBus -/

/-- An SMBus read of n bytes (R505): the sideband controller answers while V_AUX is up, in reset and after a trip too. -/
def smbRead (s : State) (n : Nat) (v : Power → Dev → Nat) : Host.Outcome State Fault Refusal :=
  .next { s with dev := { s.dev with reply :=
    if s.ctl.power.aux then
      let x := v s.ctl.power s.dev % 2 ^ (8 * n)
      { data := x, bytes := toLe n x }
    else { error := true } } }

/-- The value of BU_ID (R6). -/
def buId : Nat := if Config.wide then 0x00122212 else 0x00121211

/-- The flags of SMBus STATUS (Table 19.9). -/
def Power.statusWord (p : Power) : Nat :=
  maskOf ((if p.allGood then [0] else []) ++ (if p.running then [] else [1]) ++ (if p.trip ≠ 0 then [2] else []) ++
    (if p.refclk then [3] else []) ++ (if p.thermalHold then [4] else []) ++ (if p.inOperating then [5] else []))

/-- IDENT (R505). -/
def execIdent (s : State) : Host.Outcome State Fault Refusal := smbRead s 4 (fun _ _ => buId)
/-- STATUS (R505). -/
def execStatus (s : State) : Host.Outcome State Fault Refusal := smbRead s 2 (fun p _ => p.statusWord)
/-- TRIP_CAUSE (R505). -/
def execTripCause (s : State) : Host.Outcome State Fault Refusal := smbRead s 1 (fun p _ => p.trip)
/-- VIN (R505): mean over 1 ms, in mV. -/
def execVin (mean : BitVec 16) (s : State) : Host.Outcome State Fault Refusal := smbRead s 2 (fun _ _ => mean.toNat)
/-- IIN (R505): mean over 1 ms, in mA. -/
def execIin (mean : BitVec 16) (s : State) : Host.Outcome State Fault Refusal := smbRead s 2 (fun _ _ => mean.toNat)
/-- PIN (R505): mean over 1 ms, in W. -/
def execPin (mean : BitVec 16) (s : State) : Host.Outcome State Fault Refusal := smbRead s 2 (fun _ _ => mean.toNat)
/-- TJ (R505). -/
def execTj (now : BitVec 8) (s : State) : Host.Outcome State Fault Refusal := smbRead s 1 (fun _ _ => now.toNat)
/-- TCASE (R505). -/
def execTcase (now : BitVec 8) (s : State) : Host.Outcome State Fault Refusal := smbRead s 1 (fun _ _ => now.toNat)
/-- RAILS (R505). -/
def execRails (s : State) : Host.Outcome State Fault Refusal :=
  smbRead s 1 (fun p _ => maskOf ((List.range 6).filter (fun r => nth false p.rails r)))
/-- ENERGY (R505): mJ since the input was applied. While the logic is in reset the energy drawn since the reset is not known (log entry 78). -/
def execEnergy (s : State) : Host.Outcome State Fault Refusal :=
  let r := s.dev.free
  let s' := if s.ctl.power.running then s else { s with dev := r.1 }
  smbRead s' 8 (fun p _ => (p.energy + if p.running then 0 else r.2.toNat) / 1000000)
/-- SMBUS_WRITE (R505): a write or an unknown command code is not acknowledged. -/
def execSmbusWrite (_code : BitVec 8) (s : State) : Host.Outcome State Fault Refusal :=
  .next { s with dev := { s.dev with reply := { error := true } } }

/-! ### Test port -/

/-- An instruction is loaded into the test port (R506): one that would hold the logic in reset acts as BYPASS while MOD_RST_N is high, and the
logic leaves reset when no loaded instruction keeps it there. -/
def tapLoad (i : TapInstr) (s : State) : Host.Outcome State Fault Refusal :=
  .next (if s.ctl.power.aux then
    (s.updPower (fun p => { p with tap := if i.holds && p.rstN then .bypass else i })).leaveReset
  else s)

/-- BYPASS (R506). -/
def execBypass (s : State) : Host.Outcome State Fault Refusal := tapLoad .bypass s
/-- SAMPLE_PRELOAD (R506). -/
def execSamplePreload (s : State) : Host.Outcome State Fault Refusal := tapLoad .samplePreload s
/-- EXTEST (R506). -/
def execExtest (s : State) : Host.Outcome State Fault Refusal := tapLoad .extest s
/-- EXTEST_PULSE (R506). -/
def execExtestPulse (s : State) : Host.Outcome State Fault Refusal := tapLoad .extestPulse s
/-- EXTEST_TRAIN (R506). -/
def execExtestTrain (s : State) : Host.Outcome State Fault Refusal := tapLoad .extestTrain s
/-- TRST_N_ASSERT (R506): Test-Logic-Reset, which selects BYPASS. -/
def execTrstNAssert (s : State) : Host.Outcome State Fault Refusal := tapLoad .bypass s

end Sys2Proof.Machine
end

