-- ==== Sys2Proof/Machine/Security.lean ====
section
/-! DEFINITION. Owner key commands and attestation (Identity, Signing and Protected Regions). -/

namespace Sys2Proof.Machine

/-- KEY_COMMAND (R482, R483): a write of RG_KEY_CMD.go; it waits while a Trail Map load is under way. -/
def execKeyCommand (fn : Fin 16) (s : State) : Host.Outcome State Fault Refusal :=
  onAll s fun c d =>
    let (d, ok) := checkWrite c d fn (baseRG + 0x1010) 4
    if !ok || c.keyPhase ≠ .idle then (c, d)
    else if c.load.isSome then ({ c with keyPhase := .waiting }, d)
    else ({ c with keyPhase := .reading }, d.readKeyRecord)

/-- The slot (1 to 8) of an owner key. -/
def keySlot (keys : List OwnerKey) (s : Nat) : OwnerKey := if s = 0 then {} else nth {} keys (s - 1)

/-- The key that signer s of an enrolment record names, where it may sign one (Table 18.2). -/
def enrolKey (c : Ctl) (s : Nat) : Option (List Byte) :=
  if s = 0 then some c.vendorKey
  else if 8 < s then none
  else if bit (keySlot c.flash.keys s).rights 1 then (keySlot c.flash.keys s).key else none

/-- The checks of an enrolment record in table order: the refusal code of the first that fails (R482, Table 18.2, Table 18.4). -/
def recordCheck (c : Ctl) (b : List Byte) : Option Nat :=
  let enrol := byteAt b 4 = 1
  let slot := byteAt b 5
  if le b 0 4 ≠ 0x454B5847 || (!enrol && byteAt b 4 ≠ 2) then some 2
  else if slot < 1 || 8 < slot then some 2
  else if (if enrol then 4 else 1) ≤ byteAt b 6 || byteAt b 7 ≠ 0 then some 2
  else if le b 8 8 ≤ (keySlot c.flash.keys slot).counter then some 3
  else if slice b 0x10 16 ≠ (sha256 Config.identityKey).take 16 then some 4
  else if (if enrol then !keyOnCurve (slice b 0x20 64) else le b 0x20 64 ≠ 0) then some 2
  else match enrolKey c (le b 0x60 4) with
    | none => some 5
    | some k =>
      if le b 0x64 28 ≠ 0 then some 2
      else if !verifySig k (slice b 0 128) (slice b 128 64) then some 6
      else none

/-- A key command refused. -/
def keyRefused (c : Ctl) (d : Dev) (code : Nat) : Ctl × Dev :=
  ({ c with keyPhase := .idle, secCode := code }, d.raise (baseRG + 0x1000) 1 (baseRG + 0x1008))

/-- The slot entry that a record leaves: a revocation keeps the counter (R482). -/
def keyEntry (b : List Byte) : OwnerKey :=
  if byteAt b 4 = 1 then { key := some (slice b 0x20 64), rights := byteAt b 6, counter := le b 8 8 }
  else { key := none, rights := 0, counter := le b 8 8 }

/-- KEY_RECORD_READ_DONE (R482): ok: host memory could be read. -/
def execKeyRecordReadDone (ok : Bool) (record : List Byte) (s : State) : Host.Outcome State Fault Refusal :=
  onAll s fun c d =>
    if c.keyPhase ≠ .reading then (c, d)
    else if !ok then keyRefused c d 1
    else
      let b := padTo 192 record
      match recordCheck c b with
      | some code => keyRefused c d code
      | none => ({ c with keyPhase := .writing (byteAt b 5) (keyEntry b) }, d)

/-- KEY_SLOT_WRITE_DONE (R482): ok: the slot was read back and verified. -/
def execKeySlotWriteDone (ok : Bool) (s : State) : Host.Outcome State Fault Refusal :=
  onAll s fun c d =>
    match c.keyPhase with
    | .writing slot e =>
      if !ok then keyRefused c d 7
      else ({ c with keyPhase := .idle, flash := { c.flash with keys := modNth (fun _ => e) (slot - 1) c.flash.keys } },
        d.raise (baseRG + 0x1000) 0 (baseRG + 0x1004))
    | _ => (c, d)

/-- ATTEST (R484): a write of RG_ATTEST.go, without effect while a report is in progress; the nonce is read from the host address in RG_ATTEST_SRC. -/
def execAttest (fn : Fin 16) (s : State) : Host.Outcome State Fault Refusal :=
  onAll s fun c d =>
    let (d, ok) := checkWrite c d fn (baseRG + 0x1040) 4
    if !ok || c.attesting then (c, d)
    else ({ c with attesting := true }, d.hostGet (d.fld (baseRG + 0x1044) 31 6 * 64 + d.reg (baseRG + 0x1048) * 2 ^ 32) 32)

/-- The attestation report up to its signature (Table 18.3). -/
def reportBody (c : Ctl) (nonce : List Byte) : List Byte :=
  toLe 4 0x52415847 ++ toLe 2 1 ++ zeros 2 ++ toLe 4 buId ++ toLe 4 c.reports ++ padTo 32 nonce ++ padTo 64 Config.identityKey ++
  padTo 32 Config.rootHash ++ sha256 c.firmware ++ toLe 4 (le c.firmware 8 4) ++ zeros 4 ++ toLe 8 c.generation ++
  (if c.map.isSome then sha256 c.tm.image else zeros 32) ++
  toLe 2 (maskOf ((List.range 8).filter (fun i => (nth {} c.flash.keys i).key.isSome))) ++ zeros 14 ++
  (List.range 8).flatMap (fun i => match (nth ({} : OwnerKey) c.flash.keys i).key with
    | some k => (sha256 k).take 16
    | none => zeros 16) ++ zeros 16

/-- ATTEST_NONCE_READ_DONE (R484): the report is built, signed with the identity key and written to RG_ATTEST_DST. -/
def execAttestNonceReadDone (nonce : List Byte) (s : State) : Host.Outcome State Fault Refusal :=
  onAll s fun c d =>
    if !c.attesting then (c, d)
    else
      let body := reportBody c nonce
      let dst := d.fld (baseRG + 0x104C) 31 6 * 64 + d.reg (baseRG + 0x1050) * 2 ^ 32
      let d := (d.hostPost dst (body ++ padTo 64 (Config.sign body)) false false).1
      ({ c with attesting := false, reports := w32 (c.reports + 1) }, d.raise (baseRG + 0x1000) 2 (baseRG + 0x100C))

end Sys2Proof.Machine
end

