-- ==== Sys2Proof/Machine/Views.lean ====
section
/-! DEFINITION. What a read of a register gives (R37 to R44, R440, and the register tables): fields that the model holds in structures of their
own are computed here; every other field is read from the register file. -/

namespace Sys2Proof.Machine

/-- A computed field of a register: bits [hi:lo] and its value. -/
abbrev View := Nat × Nat × Nat

/-- Word j of a bit array of 32-bit words. -/
def arrayWord (j : Nat) (p : Nat → Bool) : Nat := maskOf ((List.range 32).filter (fun k => p (32 * j + k)))

/-- BU (Tables 0.2, 1.3, 16.5). -/
def viewBU (c : Ctl) (d : Dev) (o : Nat) : List View :=
  if o = 0 then [(31, 0, buId)]
  else if o = 0x10 then [(31, 0, d.ltc)]
  else if o = 0x14 then [(31, 0, d.ltc / 2 ^ 32)]
  else if o = 0x20 then
    [(12, 12, flagNat ((d.port 6).state = .up && d.twin.state = 2)),
     (11, 6, maskOf ((List.range 6).filter (fun p => (d.port p).state = .up))),
     (5, 5, flagNat c.blocksReady), (4, 4, flagNat c.blocksReady), (3, 3, flagNat c.map.isSome),
     (2, 2, flagNat (c.stage = .firmware)), (1, 1, flagNat d.hl.eklUp)]
  else if 0x30 ≤ o && o < 0x40 then [(31, 0, arrayWord ((o - 0x30) / 4) (fun n => coreReady c d n))]
  else if o = 0x40 then [(15, 0, if c.blocksReady then 0xFFFF else 0)]
  else if 0x60 ≤ o && o < 0x90 then [(31, 0, arrayWord ((o - 0x60) / 4) (fun k => (d.mchan k).state = .ready))]
  else if 0xA0 ≤ o && o < 0xB4 then [(31, 0, c.bistFail >>> (32 * ((o - 0xA0) / 4)))]
  else if o = 0xC0 then
    [(31, 28, match c.stage with | .rom => 0 | .romWait => 1 | .firmware => 2), (23, 16, c.fwCode), (1, 1, c.fwBank), (0, 0, flagNat c.fwLoad)]
  else []

/-- PW (Table 19.4). -/
def viewPW (c : Ctl) (d : Dev) (o : Nat) : List View :=
  if o = 0 then [(27, 27, flagNat c.power.thermalHold), (26, 26, flagNat (d.gov.any (fun g => 0 < g.level)))]
  else if o = 0x58 then [(31, 0, d.energy / 1000000)]
  else if o = 0x5C then [(31, 0, d.energy / 1000000 / 2 ^ 32)]
  else if 0x60 ≤ o && o < 0x78 then
    let r := (o - 0x60) / 4
    [(31, 31, flagNat (nth false c.power.rails r)), (15, 0, nth 0 c.power.railMv r)]
  else if 0x100 ≤ o && o < 0x300 then
    let f := (o - 0x100) / 0x20
    let g := nth ({} : GovFacet) d.gov f
    let share := ((govShares c).find? (fun y => y.1 == f)).map (·.2)
    match (o - 0x100) % 0x20 with
    | 0 => [(31, 16, ((share.map (fun x => (govC c x).watts)).getD 0).toNat), (4, 0, g.level)]
    | 4 => [(31, 16, ((share.map (fun x => (govK c x).watts)).getD 0).toNat), (15, 0, wrapInt 16 g.sample.watts)]
    | 8 => [(31, 16, wrapInt 16 g.average.watts), (15, 0, g.excCount)]
    | _ => []
  else []

/-- The code of a facet state (Table 2.6). -/
def FacetState.code : FacetState → Nat
  | .running => 0
  | .draining => 1
  | .drained => 2
  | .absent => 3

/-- The code of a quarantine phase (Table 17.12). -/
def QuarPhase.code : QuarPhase → Nat
  | .none => 0
  | .isolating => 1
  | .releasing => 2
  | .quarantined => 3
  | .testing => 4

/-- RG (Tables 2.6, 17.12, 18.4). -/
def viewRG (c : Ctl) (d : Dev) (o : Nat) : List View :=
  if o = 0x100 then [(0, 0, flagNat c.load.isSome)]
  else if o = 0x10C then
    [(23, 16, c.refuseCode), (3, 0, match c.load with
      | none => if c.map.isSome then 1 else 0
      | some l => if l.phase = .applying then 3 else 2)]
  else if o = 0x110 then [(31, 0, c.faultOffset)]
  else if o = 0x114 then [(31, 0, c.generation)]
  else if o = 0x118 then [(31, 0, c.generation / 2 ^ 32)]
  else if o = 0x128 then [(15, 0, maskOf ((List.range 16).filter (fun f => c.fstate f = .draining)))]
  else if o = 0x12C then [(15, 0, maskOf c.resumeWait)]
  else if o = 0x130 then [(31, 0, (List.range 16).foldl (fun w f => w + (c.fstate f).code * 4 ^ f) 0)]
  else if o = 0x134 then [(31, 0, c.flash.floorOf)]
  else if o = 0x138 then [(31, 0, c.flash.floorOf / 2 ^ 32)]
  else if o = 0x200 then [(31, 31, 0), (30, 30, flagNat (d.cores.any (fun (e : Nat × Core) => e.2.quar.phase = .testing)))]
  else if 0x210 ≤ o && o < 0x220 then [(31, 0, arrayWord ((o - 0x210) / 4) (fun n => (d.core n).quar.phase = .quarantined || (d.core n).quar.phase = .testing))]
  else if 0x400 ≤ o && o < 0x600 then
    let q := (d.core ((o - 0x400) / 4)).quar
    [(31, 28, q.cause), (27, 24, q.phase.code), (15, 0, min 0xFFFF q.released)]
  else if o = 0x1000 then [(31, 24, c.secCode)]
  else if o = 0x1010 then [(0, 0, flagNat (c.keyPhase ≠ .idle))]
  else if 0x1024 ≤ o && o < 0x1040 then [(1, 0, (nth ({} : OwnerKey) c.flash.keys ((o - 0x1024) / 4)).rights)]
  else if o = 0x1040 then [(1, 0, (nth ({} : OwnerKey) c.flash.keys 7).rights), (0, 0, flagNat c.attesting)]
  else []

/-- AG (Table 16.6). -/
def viewAG (c : Ctl) (o : Nat) : List View :=
  if o = 0 then [(16, 16, flagNat c.measure.isSome)]
  else if o = 4 then [(0, 0, flagNat ((c.measure.map (fun m => decide (m.cause = .command))).getD false))]
  else if o = 0xC then [(31, 0, c.flash.hours)]
  else if o = 0x48 then [(13, 0, c.flash.history.length)]
  else if 0x1000 ≤ o && o < 0x1800 then [(31, 16, nth 0 c.ro ((o - 0x1000) / 4))]
  else if 0x2000 ≤ o && o < 0x2000 + 8 * 132 then
    let p := (o - 0x2000) / 8
    if o % 8 = 0 then [(31, 24, nth 0 c.slack p), (23, 16, nth 0 c.minSlack p)]
    else
      let m := c.margin p
      [(31, 24, m.vOff), (23, 16, m.vCeil), (15, 12, m.fBin), (11, 8, m.pending.getD m.fBin), (1, 1, flagNat m.pending.isSome), (0, 0, flagNat m.propose)]
  else []

/-- TL (Table 17.13). -/
def viewTL (d : Dev) (o : Nat) : List View :=
  if o = 0x20 then [(31, 0, d.tripNext)]
  else if o = 0x24 then [(31, 0, d.tripNext / 2 ^ 32)]
  else if 0x100 ≤ o && o < 0x200 then
    let r := nth ({} : Replay) d.replay ((o - 0x100) / 0x10)
    match o % 0x10 with
    | 0 => [(31, 31, 0), (30, 30, flagNat r.stopping), (27, 24, r.state), (23, 16, r.code)]
    | 4 => [(31, 0, r.forced)]
    | 8 => [(11, 0, r.divChannel)]
    | 0xC => [(31, 0, r.divTrip)]
    | _ => []
  else []

/-- HL (Table 15.7). -/
def viewHL (d : Dev) (o : Nat) : List View :=
  let h := d.hl
  if o = 0 then [(31, 28, h.state), (27, 27, flagNat h.eklUp), (26, 26, flagNat h.pcieUp), (19, 16, h.fn)]
  else if o = 4 then [(31, 0, h.session)]
  else if o = 0xC then [(15, 0, h.echo)]
  else if o = 0x10 then [(17, 17, flagNat h.armed)]
  else if 0x8000 ≤ o && o < 0x8000 + 4 * 4160 then [(30, 30, flagNat (NatSet.has h.pend ((o - 0x8000) / 4)))]
  else []

/-- The code of a port state (Table 14.1). -/
def PortState.code : PortState → Nat
  | .disabled => 0
  | .training => 1
  | .up => 2
  | .mismatch => 3
  | .down => 4

/-- A port's registers (Table 14.8), o from the port's base. -/
def viewPort (d : Dev) (p o : Nat) : List View :=
  if o = 0 then [(31, 28, (d.port p).state.code)]
  else if o = 8 then [(0, 0, flagNat ((d.port p).state = .training))]
  else []

/-- TW (Table 14.10). -/
def viewTW (d : Dev) (o : Nat) : List View :=
  if 0x800 ≤ o then viewPort d 6 (o - 0x800)
  else if o = 0 then [(31, 28, d.twin.state), (27, 24, d.twin.cause)]
  else if o = 0x48 then [(31, 0, match d.twin.lastHb with
    | some t => min (2 ^ 32 - 1) ((d.ltc - t) / 100)
    | none => 0)]
  else if 0x100 ≤ o && o < 0x500 then
    let m := d.mirror ((o - 0x100) / 0x40)
    match (o - 0x100) % 0x40 with
    | 0x10 => [(4, 4, 0), (3, 2, m.cause), (1, 0, m.state)]
    | 0x14 => [(31, 0, m.next)]
    | 0x18 => [(31, 0, m.next / 2 ^ 32)]
    | 0x1C => [(31, 0, m.acked)]
    | 0x20 => [(31, 0, m.acked / 2 ^ 32)]
    | 0x24 => [(31, 0, m.applied)]
    | 0x28 => [(31, 0, m.applied / 2 ^ 32)]
    | 0x2C => [(31, 0, m.divSeq)]
    | 0x30 => [(31, 0, m.divSeq / 2 ^ 32)]
    | 0x34 => [(15, 0, m.divStatus)]
    | 0x38 => [(31, 0, m.lost)]
    | _ => []
  else []

/-- The bytes of a fault entry (Table 11.6). -/
def FaultEntry.bytes (e : FaultEntry) : List Byte :=
  toLe 1 e.kind ++ toLe 1 e.level ++ toLe 2 e.as ++ toLe 1 e.access ++ zeros 1 ++ toLe 2 e.waiters.length ++ toLe 8 e.region ++
  toLe 8 e.firstVa ++ toLe 8 e.entry ++ toLe 8 e.opened ++ toLe 2 e.first ++ zeros 22 ++ toLe 64 (maskOf (e.waiters.map (·.1)))

/-- TR (Tables 11.12, 11.13). -/
def viewTR (c : Ctl) (d : Dev) (o : Nat) : List View :=
  if o = 0 then [(31, 23, d.openFaults.length)]
  else if o = 0x114 then
    [(5, 4, match d.xl.invs.head? with | none => 0 | some v => if v.block then 1 else 2), (3, 0, d.xl.invs.length)]
  else if 0x410 ≤ o && o < 0x430 then [(31, 0, arrayWord ((o - 0x410) / 4) (fun n => (Sparse.get none d.xl.faults n).isSome))]
  else if 0x8000 ≤ o && o < 0x10000 then
    match Sparse.get none d.xl.faults ((o - 0x8000) / 0x80) with
    | some e => [(31, 0, le e.bytes (o % 0x80) 4)]
    | none => []
  else if 0x10000 ≤ o && o < 0x20000 && o % 0x40 = 0 then [(3, 0, (c.asFacet ((o - 0x10000) / 0x40)).getD 0)]
  else []

/-- MS, slice s (Table 10.5). -/
def viewMS (d : Dev) (s o : Nat) : List View :=
  let count := fun (st : LineState) (f : Nat) =>
    (d.mem.lines.filter (fun (e : Nat × Line) => e.1 / 65536 = s && (e.2.state = st && e.2.facet = f))).length
  if o = 0 then [(16, 16, flagNat (d.reg (baseMs s + 4) ≠ 0 || d.reg (baseMs s + 8) ≠ 0))]
  else if 0x100 ≤ o && o < 0x180 then [(16, 0, count (if o % 8 = 0 then .keep else .last) ((o - 0x100) / 8))]
  else []

/-- The code of a channel state (Table 10.1). -/
def ChanState.code : ChanState → Nat
  | .down => 0
  | .ready => 1
  | .mappedOut => 2
  | .failed => 3

/-- MC, channel k (Table 10.4). -/
def viewMC (d : Dev) (k o : Nat) : List View :=
  if o = 0 then [(31, 28, (d.mchan k).state.code), (14, 8, (d.mchan k).queue.length)]
  else if o = 0x18 then [(22, 0, (d.mchan k).scrubPos)]
  else []

/-- A submission channel (Table 12.13). -/
def viewCh (d : Dev) (ch o : Nat) : List View :=
  let h := d.chan ch
  if o = 0x18 then [(31, 30, if !d.chOn ch then 0 else if h.await then 2 else 1), (29, 29, flagNat h.held), (28, 24, h.outstanding)]
  else if o = 0x1C then [(1, 1, 0), (0, 0, flagNat h.aborting)]
  else if o = 0x20 then [(31, 0, h.cons)]
  else if o = 0x24 then [(31, 0, h.prod)]
  else if o = 0x28 then [(31, 0, h.cmplProd)]
  else []

/-- FE beyond its channels (Tables 12.14, 13.4), o from the FE base. -/
def viewFE (c : Ctl) (d : Dev) (o : Nat) : List View :=
  if o < 0x100000 then viewCh d (o / 0x100) (o % 0x100)
  else if 0x108000 ≤ o && o < 0x109000 then
    let q := d.queue ((o - 0x108000) / 0x10)
    if o % 0x10 = 0xC then [(31, 16, q.reserved), (15, 0, q.occupancy)] else []
  else if 0x109000 ≤ o && o < 0x109400 then
    let f := (o - 0x109000) / 0x40
    if o % 0x40 = 0 then
      (List.range 4).map (fun l => (8 * l + 7, 8 * l, min 255 (d.ready.filter (fun r => r.facet == f && r.task.level == l)).length))
    else if o % 0x40 = 0xC then [(8, 0, (c.facetCores f).foldl (fun t n => t + (d.core n).saved.length) 0)]
    else []
  else if 0x10A000 ≤ o && o < 0x10E000 then
    let x := d.client ((o - 0x10A000) / 0x10)
    match o % 0x10 with
    | 0 => [(31, 0, x.completed)]
    | 4 => [(31, 0, x.completed / 2 ^ 32)]
    | 8 => [(16, 0, x.outstanding)]
    | _ => []
  else if 0x180000 ≤ o then
    let x := d.syncObj ((o - 0x180000) / 4)
    [(31, 31, flagNat x.poison), (15, 15, flagNat x.owner.isSome), (14, 14, flagNat x.mirror), (6, 0, x.owner.getD 0)]
  else []

/-- What the sequencer does (SQ_STATUS.state). -/
def Dev.sqState (d : Dev) (n : Nat) : Nat :=
  let k := d.core n
  match k.seq.task with
  | none => 0
  | some t =>
    match k.seq.wait with
    | .sync _ _ _ => 2
    | .fence _ _ => 3
    | .none =>
      if d.faultWaits (4 * n) then 4
      else
        let full := match k.seq.buf.find? (fun e => e.1 == t.pc) with
          | some (_, op) => ([(0x10, Eng.me), (0x20, .mv), (0x30, .ve), (0x50, .ge), (0x60, .dma), (0x40, .xp)]).any (fun (x : Nat × Eng) =>
              decide (op % 256 / 16 * 16 = x.1) && decide (x.2.cap ≤ k.queued x.2))
          | none => false
        if full && !t.ending then 5 else 1

/-- SQ (Tables 9.6, 12.15, 13.5). -/
def viewSQ (d : Dev) (n o : Nat) : List View :=
  let k := d.core n
  let t := k.seq.task
  let tv := fun (f : Task → Nat) => (t.map f).getD 0
  match o with
  | 0 => [(31, 28, d.sqState n), (27, 24, k.queued .dma)]
  | 4 => [(31, 28, tv (·.gen)), (23, 12, tv (·.own.ch)), (9, 0, tv (·.as))]
  | 8 => [(31, 0, tv (·.pc))]
  | 0xC => [(19, 0, tv (·.pc) / 2 ^ 32)]
  | 0x10 => [(31, 0, tv (·.ops))]
  | 0x14 => match t, k.seq.wait with
    | some _, .sync obj _ _ => [(31, 31, 1), (16, 0, obj)]
    | _, _ => []
  | 0x34 => [(31, 0, k.arrived)]
  | 0x38 => [(31, 0, k.readPos)]
  | 0x3C => [(31, 0, k.freed)]
  | 0x84 => [(31, 30, k.saved.length), (29, 28, tv (·.level))]
  | _ => []

/-- The valid sub-arrays of a weight set. -/
def MeSet.validMask (m : MeSet) : Nat := maskOf ((m.subs.filter (fun e => e.2.isSome)).map (·.1))

/-- The engine blocks of core n (Tables 5.8, 6.10, 7.13, 8.10, 3.14, 11.14), o from the core's base. -/
def viewEngines (d : Dev) (n o : Nat) : List View :=
  let k := d.core n
  if o = 0x2000 then
    [(31, 28, k.me.level), (27, 24, k.queued .me), (23, 22, if k.me.active.validMask = 0 then 0 else k.me.active.shape.getD 0),
     (21, 21, flagNat k.me.active.sparse), (20, 20, flagNat (!k.me.groups.isEmpty || !k.me.started.isEmpty))]
  else if o = 0x2004 then [(31, 16, k.me.shadow.validMask), (15, 0, k.me.active.validMask)]
  else if o = 0x4000 then [(27, 24, k.queued .mv), (20, 20, flagNat (k.mv.run.isSome || k.mv.drain.isSome))]
  else if o = 0x6000 then [(27, 24, k.queued .ve), (21, 21, flagNat k.ve.running), (20, 20, flagNat (!k.ve.running && !k.ge.ring.isEmpty))]
  else if o = 0x6004 then [(31, 0, k.ve.live)]
  else if o = 0x8000 then
    [(27, 24, k.queued .xp), (21, 21, flagNat (k.xp.cur == some true)), (20, 20, flagNat (k.xp.cur == some false))]
  else if o = 0x8004 then [(15, 0, maskOf ((List.range 16).filter (fun i => (nth ({} : XpSlot) k.xp.slots i).valid)))]
  else if 0x8100 ≤ o && o < 0x8180 then
    let s := nth ({} : XpSlot) k.xp.slots ((o - 0x8100) / 8)
    if o % 8 = 0 then [(31, 16, s.version), (0, 0, flagNat s.valid)]
    else [(31, 27, s.refs), (17, 17, flagNat s.mirror), (16, 0, s.refSync)]
  else if 0x9000 ≤ o && o < 0xA000 then
    [(31, 0, le (nth ({} : XpSlot) k.xp.slots ((o - 0x9000) / 256)).image ((o - 0x9000) % 256) 4)]
  else if o = 0xA010 then [(31, 24, (k.ge.lists.filter (fun l => l.h.fwd.isNone && !l.dead)).length), (20, 16, k.ge.baskets.length)]
  else if o = 0xC000 then
    [(19, 16, maskOf ((List.range 4).filter (fun e => d.faultWaits (4 * n + e)))), (9, 0, k.tlb.length)]
  else if o = 0xC004 then [(7, 0, (k.tlb.filter (fun e => e.scout)).length)]
  else []

/-- The computed fields of the register at an offset of the control window. -/
def viewFields (c : Ctl) (d : Dev) (off : Nat) : List View :=
  if off < 0x10000 then viewBU c d off
  else if off < 0x20000 then viewPW c d (off - basePW)
  else if off < 0x30000 then viewRG c d (off - baseRG)
  else if off < 0x40000 then viewAG c (off - baseAG)
  else if off < 0x50000 then viewTL d (off - baseTL)
  else if off < 0x60000 then viewHL d (off - baseHL)
  else if off < 0x70000 then viewTW d (off - baseTW)
  else if off < 0x80000 then (if off < baseMF + 0x600 then viewPort d ((off - baseMF) / 0x100) (off % 0x100) else [])
  else if off < 0xC0000 then viewTR c d (off - baseTR)
  else if off < 0xD0000 then (if off = baseRD + 0x10 then [(22, 0, d.rd.length)] else [])
  else if off < 0xE0000 then viewMS d ((off - baseMS) / 0x1000) (off % 0x1000)
  else if off < 0x100000 then []
  else if off < 0x200000 then viewMC d ((off - baseMC) / 0x800) (off % 0x800)
  else if off < 0x400000 then viewFE c d (off - baseFE)
  else if 0x1000000 ≤ off && off < 0x2000000 then
    let n := coreOf off
    let o := off % 0x20000
    if o < 0x2000 then viewSQ d n o else viewEngines d n o
  else []

/-- Table 18.4 gives offset 0x1040 of RG both to RG_ATTEST and to RG_KEY_SLOT of slot 8: where the two differ in bit 0 it is free (log entry 80). -/
def attestClash (c : Ctl) (off : Nat) : Bool :=
  off = baseRG + 0x1040 && bit (nth ({} : OwnerKey) c.flash.keys 7).rights 0 ≠ c.attesting

/-- Registers whose value the spec leaves open now: a counter of cycles of which it gives no more than that they pass, while they pass, and a fault entry that
has been open and is free. A read gives a free value (log entry 79). -/
def viewFree (d : Dev) (off : Nat) : Bool :=
  if 0x1000000 ≤ off && off < 0x2000000 then
    let n := coreOf off
    match off % 0x20000 with
    | 0x74 => (d.core n).seq.wait.isSync
    | 0x7C => d.relayFull n
    | 0xC028 => (List.range 4).any (fun e => d.walkWaits (4 * n + e))
    | 0xC02C => d.coreFaults n
    | _ => false
  else
    let n := (off - (baseTR + 0x8000)) / 0x80
    baseTR + 0x8000 ≤ off && (off < baseTR + 0x10000 && (n < d.xl.faultTop && (Sparse.get none d.xl.faults n).isNone))

/-- The upper halves that a read at an offset latches (R28 and the register tables). -/
def latchTargets (off : Nat) : List Nat :=
  if off = 0x10 || off = 0x20114 || off = 0x20134 || off = 0x40020 || off = 0x10058 then [off + 4]
  else if 0x60100 ≤ off && off < 0x60500 then
    (if [0x14, 0x1C, 0x24, 0x2C].contains ((off - 0x60100) % 0x40) then [off + 4] else [])
  else if 0x100000 ≤ off && off < 0x1C0000 then (if off % 0x800 = 4 then [off + 4, off + 8] else [])
  else if 0x30A000 ≤ off && off < 0x30E000 then (if off % 0x10 = 0 then [off + 4] else [])
  else if 0x1000000 ≤ off && off < 0x2000000 then
    (if [8, 0x1C, 0x200C, 0x400C, 0x600C, 0x800C].contains (off % 0x20000) then [off + 4] else [])
  else []

/-- The register is read as latched. -/
def isLatched (off : Nat) : Bool := (4 ≤ off && (latchTargets (off - 4)).contains off) || (8 ≤ off && (latchTargets (off - 8)).contains off)

/-- What a register holds in this cycle. -/
def regNow (c : Ctl) (d : Dev) (off : Nat) : Nat := (viewFields c d off).foldl (fun w v => setBits w v.1 v.2.1 v.2.2) (d.reg off)

/-- The fields of access type RC of a register cleared (R44). -/
def clearRc (d : Dev) (off : Nat) : Dev :=
  (fieldsAt off).foldl (fun d f => if f.acc = .rc then d.setFld off f.hi f.lo 0 else d) d

/-- A 4 B read of a register of a ready block: its value; upper halves are latched, RC fields cleared (R28, R44). -/
def regRead (c : Ctl) (d : Dev) (off : Nat) : Dev :=
  if (fieldsAt off).isEmpty then d.answer 0
  else if isLatched off then d.answer (Sparse.get 0 d.latch off)
  else if viewFree d off then d.free.1.answer (d.free.2.toNat % 2 ^ 32)
  else if attestClash c off then d.free.1.answer (setBits (regNow c d off) 0 0 d.free.2.toNat)
  else
    let v := regNow c d off
    (clearRc { d with latch := (latchTargets off).foldl (fun m h => Sparse.set 0 m h (regNow c d h)) d.latch } off).answer v

/-- A host read of the control window (R36, R37, R440). -/
def windowRead (c : Ctl) (d : Dev) (fn off width : Nat) : Ctl × Dev :=
  let sy := baseSY ≤ off && off < 0x500000
  if !widthOk off width then (c, (d.violate (hostViolation 6 (blockCode off) 0 fn off)).answerError width)
  else if !blockReady c d off then (c, (d.count (baseBU + 0xD8) 1).answer 0)
  else if sy then
    let v := (d.syncObj ((off - baseSY) / 8)).value
    (c, d.answer (if width = 8 then v else if off % 8 = 0 then v % 2 ^ 32 else v / 2 ^ 32))
  else if off = baseAG + 0x44 then
    let r := histData c d
    (r.1, r.2.1.answer r.2.2)
  else (c, regRead c d off)

end Sys2Proof.Machine
end

