-- ==== Sys2Proof/Machine/ControlWindow.lean ====
section
/-! DEFINITION. Host writes and reads of the control window that have no row of their own (Architecture and the Two Serving Flows: Control window,
Registers). A REGISTER_WRITE of a register of which some bits are commands of their own has the effect of those commands. -/

namespace Sys2Proof.Machine

/-- Meanings applied one after the other; each is applied to the state that the one before leaves. -/
def inTurn : List (State → Host.Outcome State Fault Refusal) → State → Host.Outcome State Fault Refusal
  | [], s => .next s
  | f :: r, s =>
    match f s with
    | .next t => inTurn r t
    | o => o

/-- A meaning where its bit of the written value is 1. -/
def ifBit (v i : Nat) (f : State → Host.Outcome State Fault Refusal) : State → Host.Outcome State Fault Refusal :=
  if bit v i then f else fun s => .next s

/-- An index cut to n values. -/
def idx (n : Nat) [NeZero n] (x : Nat) : Fin n := Fin.ofNat n x

/-- Facet f's entries of the Row Directory Cache cut to its quota, the newest kept (R88). -/
def trimFacet (f : Nat) : Nat → List RdEntry → List RdEntry
  | _, [] => []
  | q, e :: r =>
    if e.facet = f then
      match q with
      | 0 => trimFacet f 0 r
      | q + 1 => e :: trimFacet f q r
    else e :: trimFacet f q r

/-- A write that meets only the fields' access types, and what follows from it in state that is not a register: a lowered quota shrinks the cache
(R88), a scale register written by the host holds no poison. -/
def plainWrite (d : Dev) (off v : Nat) : Dev :=
  let d := writeFields d off v
  if baseRD + 0x40 ≤ off && off < baseRD + 0x80 then { d with rd := trimFacet ((off - (baseRD + 0x40)) / 4) (d.fld off 22 0) d.rd }
  else if 0x1000000 ≤ off && off < 0x2000000 then
    let o := off % 0x20000
    if 0x10000 ≤ o && o < 0x14000 then
      d.updCore (coreOf off) (fun k => { k with me := { k.me with scalePoison := NatSet.del k.me.scalePoison ((o - 0x10000) / 4) } })
    else if 0x14000 ≤ o && o < 0x18000 then
      d.updCore (coreOf off) (fun k => { k with mv := { k.mv with scalePoison := NatSet.del k.mv.scalePoison ((o - 0x14000) / 4) } })
    else d
  else d

/-- The RW and W1C fields of a register. -/
def fieldsOnly (off v : Nat) (s : State) : Host.Outcome State Fault Refusal := onDev s fun _ d => plainWrite d off v

/-- The effect of an admitted write of v in the chip blocks below TR. -/
def chipWrite (fn : Fin 16) (off v : Nat) : State → Host.Outcome State Fault Refusal :=
  let w := BitVec.ofNat 32 v
  if off = baseBU + 0xC0 then fun s => onAll s fun c d => fwLoadWrite c d fn v
  else if off = baseRG + 0x100 then fun s => onAll s fun c d => tmCtrlWrite c d fn v
  else if off = baseRG + 0x128 then execFacetDrain fn (BitVec.ofNat 16 v)
  else if off = baseRG + 0x12C then execFacetResume fn (BitVec.ofNat 16 v)
  else if off = baseRG + 0x200 then
    inTurn [fieldsOnly off v, ifBit v 31 (execQuarantine fn (idx 128 (bits v 6 0))), ifBit v 30 (execRelease fn (idx 128 (bits v 6 0)))]
  else if off = baseRG + 0x1010 then ifBit v 0 (execKeyCommand fn)
  else if off = baseRG + 0x1040 then ifBit v 0 (execAttest fn)
  else if off = baseAG + 4 then inTurn [fieldsOnly off v, ifBit v 0 (execMeasure fn)]
  else if off = baseAG + 0x40 then execAgHistIndexWrite fn w
  else if baseTL + 0x100 ≤ off && (off < baseTL + 0x200 && off % 0x10 = 0) then
    let f := idx 16 ((off - (baseTL + 0x100)) / 0x10)
    inTurn [ifBit v 31 (execGo fn f), ifBit v 30 (execStop fn f)]
  else if baseTL + 0x8000 ≤ off && off < baseTL + 0x10000 then
    execTlChWrite fn (idx 4096 ((off - (baseTL + 0x8000)) / 8)) (off % 8 = 4) w
  else if off = baseHL + 8 then
    inTurn [fieldsOnly off v, ifBit v 0 (execRequest fn (BitVec.ofNat 16 (bits v 31 16))), ifBit v 1 (execComplete fn), ifBit v 2 (execDetach fn)]
  else if off = baseHL + 0x10 then execHlHostRidWrite fn w
  else if baseTW + 0x100 ≤ off && (off < baseTW + 0x500 && off % 0x40 ≤ 0x10) then
    let f := idx 16 ((off - (baseTW + 0x100)) / 0x40)
    if off % 0x40 = 0x10 then ifBit v 4 (execRestart fn f) else execTwMirrorCfgWrite fn f (idx 4 (off % 0x40 / 4)) w
  else if off = baseTW + 0x808 then ifBit v 0 (execRetrain fn 6)
  else if baseMF ≤ off && (off < baseMF + 0x600 && off % 0x100 = 8) then ifBit v 0 (execRetrain fn (idx 7 ((off - baseMF) / 0x100)))
  else fieldsOnly off v

/-- The effect of an admitted write of v in TR, RD and MS. -/
def memWrite (fn : Fin 16) (off v : Nat) : State → Host.Outcome State Fault Refusal :=
  let w := BitVec.ofNat 32 v
  if off = baseTR + 0x110 then (if bit v 31 then fun s => onDev s fun c d => invCtrlWrite c d fn v else fieldsOnly off v)
  else if baseTR + 0x200 ≤ off && (off < baseTR + 0x400 && off % 0x20 = 0xC) then
    inTurn [fieldsOnly off v, ifBit v 4 (execClear fn (idx 16 ((off - (baseTR + 0x200)) / 0x20)))]
  else if off = baseTR + 0x400 then
    (if bits v 31 30 = 1 then execRetry fn (idx 256 (bits v 7 0)) else if bits v 31 30 = 2 then execAbort fn (idx 256 (bits v 7 0)) else fun s => .next s)
  else if baseTR + 0x10000 ≤ off && (off < baseTR + 0x20000 && off % 0x40 < 0x14) then
    execContextWrite fn (idx 1024 ((off - (baseTR + 0x10000)) / 0x40)) (idx 5 (off % 0x40 / 4)) w
  else if baseTR + 0x20000 ≤ off && off < baseTR + 0x30000 then
    execHostWindowEntryWrite fn (idx 1024 ((off - (baseTR + 0x20000)) / 0x10)) (idx 4 (off % 0x10 / 4)) w
  else if baseTR + 0x30000 ≤ off && off < baseTR + 0x40000 then
    execImportEntryWrite fn (idx 4096 ((off - (baseTR + 0x30000)) / 0x10)) (idx 4 (off % 0x10 / 4)) w
  else if off = baseRD then inTurn [ifBit v 1 (execFlushAs fn), ifBit v 0 (execFlushAll fn)]
  else if baseRD + 0x1000 ≤ off && off < baseRD + 0x3000 then
    execRdTregWrite fn (idx 1024 ((off - (baseRD + 0x1000)) / 8)) (off % 8 = 4) w
  else if baseMS ≤ off && (off < baseMS + 0x10000 && off % 0x1000 = 4) then execMsFlush fn (idx 16 ((off - baseMS) / 0x1000)) (BitVec.ofNat 16 v)
  else if baseMS ≤ off && (off < baseMS + 0x10000 && off % 0x1000 = 8) then execMsUnkeep fn (idx 16 ((off - baseMS) / 0x1000)) (BitVec.ofNat 16 v)
  else fieldsOnly off v

/-- The effect of an admitted write of v in FE. -/
def frontWrite (fn : Fin 16) (off v : Nat) : State → Host.Outcome State Fault Refusal :=
  let w := BitVec.ofNat 32 v
  let o := off - baseFE
  if o < 0x100000 then
    let ch := idx 4096 (o / 0x100)
    let r := o % 0x100
    if r < 0x14 then execFeChCfgWrite fn ch (idx 5 (r / 4)) w
    else if r = 0x14 then execDoorbell fn ch w
    else if r = 0x1C then inTurn [ifBit v 1 (execReleaseHold fn ch), ifBit v 0 (execFeChAbort fn ch)]
    else fieldsOnly off v
  else if 0x101000 ≤ o && o < 0x103000 then execFeGregWrite fn (idx 1024 ((o - 0x101000) / 8)) (o % 8 = 4) w
  else if 0x108000 ≤ o && (o < 0x109000 && o % 0x10 < 0xC) then
    execDeviceQueueConfigWrite fn (idx 256 ((o - 0x108000) / 0x10)) (idx 3 (o % 0x10 / 4)) w
  else fieldsOnly off v

/-- The effect of an admitted write of v in a core region. -/
def coreWrite (fn : Fin 16) (off v : Nat) : State → Host.Outcome State Fault Refusal :=
  let w := BitVec.ofNat 32 v
  let n := idx 128 (coreOf off)
  let o := off % 0x20000
  if o = 0x30 then execSqRelayWrite fn n w
  else if o = 0x80 then execSqSaveWrite fn n w
  else if 0xA000 ≤ o && o < 0xA010 then execGeAreaWrite fn n (idx 4 ((o - 0xA000) / 4)) w
  else if o = 0xC008 then ifBit v 0 (execTrCoreFlush fn n)
  else fieldsOnly off v

/-- The effect of an admitted write of v. -/
def registerEffect (fn : Fin 16) (off v : Nat) : State → Host.Outcome State Fault Refusal :=
  if off < baseTR then chipWrite fn off v
  else if off < 0x100000 then memWrite fn off v
  else if baseFE ≤ off && off < baseSY then frontWrite fn off v
  else if 0x1000000 ≤ off then coreWrite fn off v
  else fieldsOnly off v

/-- A sync object set by the host (R36, R362): one SET that clears the poison bit. -/
def hostSyncSet (d : Dev) (o v : Nat) : Dev :=
  { d with sync := Sparse.upd {} d.sync o (fun x => { x with poison := false }) }.syncSet o v

/-- REGISTER_WRITE (R39, R427): after the checks, the fields take the value by their access types. An 8 B write reaches a sync object alone. -/
def execRegisterWrite (who : HostId) (off width : Nat) (val : BitVec 64) (s : State) : Host.Outcome State Fault Refusal :=
  if !s.ctl.power.running then .next s
  else if s.dev.ridRefuses who.rid then .next { s with dev := s.dev.ridReject }
  else
    let fn := who.fn
    let r := checkWrite s.ctl s.dev fn off width
    if !r.2 then .next { s with dev := r.1 }
    else if width = 8 then .next { s with dev := hostSyncSet r.1 ((off - baseSY) / 8) val.toNat }
    else registerEffect fn off (val.toNat % 2 ^ 32) s

/-- SYNC_OBJECT_WRITE (R36, R362). -/
def execSyncObjectWrite (fn : Fin 16) (obj : Fin 131072) (val : BitVec 64) (s : State) : Host.Outcome State Fault Refusal :=
  onDev s fun c d => hostWrite c d fn (syncOff obj) 8 fun d => hostSyncSet d obj val.toNat

/-- LATCHED_HALF_READ (R28): a 4 B read of the low half of a pair. -/
def execLatchedHalfRead (fn : Fin 16) (off : Nat) (s : State) : Host.Outcome State Fault Refusal := onAll s fun c d => windowRead c d fn off 4

/-- RC_FIELD_READ (R44): a 4 B read that clears. -/
def execRcFieldRead (fn : Fin 16) (off : Nat) (s : State) : Host.Outcome State Fault Refusal := onAll s fun c d => windowRead c d fn off 4

/-- AG_HIST_DATA_READ (R445). -/
def execAgHistDataRead (fn : Fin 16) (s : State) : Host.Outcome State Fault Refusal := onAll s fun c d => windowRead c d fn (baseAG + 0x44) 4

/-- CONTROL_WINDOW_READ (R36, R37, R427, R440). -/
def execControlWindowRead (who : HostId) (off width : Nat) (s : State) : Host.Outcome State Fault Refusal :=
  onAll s fun c d => if d.ridRefuses who.rid then (c, d.ridReject) else windowRead c d who.fn off width

end Sys2Proof.Machine
end

