-- ==== Sys2Proof/Machine/Streams.lean ====
section
/-! DEFINITION. Coded weight streams (Delta Compression and the Expander): stream and block headers, the table coding, decode table slots
and their references, the reading and decoding of blocks for a client. -/

namespace Sys2Proof.Machine

/-! ### Geometry -/

/-- The full span of a block (Table 8.2). -/
def Fmt.fullSpan (f : Fmt) : Nat := if f = .code3 then 4092 else 4096

/-- The position of element (r, c)'s first byte in the element byte stream of a coded tensor (R269); for a sub-byte format, of its code
block. -/
def Desc.streamPos (t : Desc) (r c : Nat) : Nat :=
  let f := t.fmt
  let tile := tileIndex t.levels (r / 32) (c / f.tc) * f.tileBytes
  if f.subByte then tile + c % 32 * f.colBytes else tile + (r % 32 * f.tc + c % f.tc) * f.bytes

/-- The blocks that hold a byte of the in-bounds elements of rows [r0, r0 + nr) and columns [c0, c0 + nc), ascending (R249). -/
def Desc.blocksOf (t : Desc) (r0 nr c0 nc : Nat) : NatSet :=
  (List.range nr).foldl (fun s i => (List.range nc).foldl (fun s j =>
    let r := r0 + i
    let c := c0 + j
    if !t.inBounds r c then s
    else
      let p := if t.fmt.subByte then t.streamPos r c + t.fmt.width * (r % 32) / 8 else t.streamPos r c
      NatSet.ins s (p / t.fmt.fullSpan)) s) []

/-- The span of block b of a stream (R233). -/
def StreamHdr.span (h : StreamHdr) (f : Fmt) (b : Nat) : Nat :=
  if b + 1 < h.blocks then f.fullSpan else h.elementBytes - f.fullSpan * (h.blocks - 1)

/-- The exponent bytes of a span (Table 8.3). -/
def Fmt.expsOf (f : Fmt) (span : Nat) : Nat := if f.subByte then span / f.colBytes else 0

/-! ### Headers -/

/-- A stream header's fields (Table 8.1). -/
def parseStream (b : List Byte) : StreamHdr where
  wfmt := byteAt b 6 % 16
  delta := bit (byteAt b 7) 0
  blocks := le b 8 4
  elementBytes := le b 0x10 8
  index := le b 0x18 8
  base := le b 0x20 8
  origin := le b 0x28 8

/-- A stream header keeps the rules of Table 8.1 that do not depend on its format or its base. -/
def streamForm (b : List Byte) : Bool :=
  let h := parseStream b
  le b 0 4 == 0x53445847 && (le b 4 2 == 1 && (byteAt b 6 < 16 && (byteAt b 7 < 2 && (le b 0xC 4 == 0 && (le b 0x30 16 == 0 &&
  (1 ≤ h.blocks && (h.blocks ≤ 2 ^ 24 && (h.index % 64 == 0 && h.origin % 64 == 0))))))))

/-- The block count is that of the element bytes in the op's format (R233), and a base stream names no base. -/
def streamOk (f : Fmt) (b : List Byte) : Bool :=
  let h := parseStream b
  h.blocks == cdiv h.elementBytes f.fullSpan && (h.delta || h.base == 0)

/-- What a block header of block b of a stream breaks (Table 8.3, R233): BAD_HEADER, or none. -/
def blockBad (h : StreamHdr) (f : Fmt) (b : Nat) (x : List Byte) : Bool :=
  let table := byteAt x 0 = 1
  let span := h.span f b
  !((table || byteAt x 0 == 2) && (byteAt x 1 < (if table then 16 else 1) && (decide (table = (le x 2 2 ≠ 0)) &&
  (le x 4 4 == b && ((h.delta || le x 8 4 == 2 ^ 32 - 1) &&
  ((if table then 1 ≤ le x 0xC 2 && le x 0xC 2 ≤ 4096 else le x 0xC 2 == span) && (le x 0xE 2 == span && (le x 0x10 2 == f.expsOf span &&
  le x 0x12 14 == 0))))))))

/-! ### Table coding -/

/-- The code length of symbol i in a decode table image (Table 8.4). -/
def codeLen (img : List Byte) (i : Nat) : Nat := byteAt img (0x10 + i / 2) / 16 ^ (i % 2) % 16

/-- A decode table image keeps Table 8.4. -/
def tableOk (b : List Byte) : Bool :=
  let lens := (List.range 268).map (codeLen b)
  le b 0 4 == 0x42545847 && (1 ≤ le b 4 2 && (byteAt b 6 == 1 && (le b 7 9 == 0 && (le b 0x96 106 == 0 &&
  (2 ≤ (lens.filter (· ≠ 0)).length && (lens.foldl (fun s l => if l = 0 then s else s + 2 ^ (15 - l)) 0 == 2 ^ 15))))))

/-- The symbols of code length l, ascending (R238: codes of one length are assigned in symbol order). -/
def symsOf (img : List Byte) (l : Nat) : List Nat := (List.range 268).filter (fun i => codeLen img i == l)

/-- One symbol taken from the bits of a payload: `lens` are the lengths still to try, `code` the bits so far, `first` the first code of the
present length. -/
def takeSym (img : List Byte) : List Nat → List Bool → Nat → Nat → Option (Nat × List Bool)
  | [], _, _, _ => none
  | _, [], _, _ => none
  | l :: lens, b :: bs, code, first =>
    let code := 2 * code + (if b then 1 else 0)
    let syms := symsOf img l
    let first := 2 * first
    if code < first + syms.length then (syms.drop (code - first)).head?.map (fun s => (s, bs))
    else takeSym img lens bs code (first + syms.length)

/-- Symbols decoded until `left` bytes have come (R238, R239): none for CORRUPT. -/
def takeBytes (img : List Byte) : Nat → List Bool → Nat → Option (List Byte)
  | 0, _, _ => none
  | _, bs, 0 => if bs.length < 8 && bs.all (! ·) then some [] else none
  | n + 1, bs, left => match takeSym img ((List.range 15).map (· + 1)) bs 0 0 with
    | none => none
    | some (s, bs) =>
      let out := if s < 256 then [BitVec.ofNat 8 s] else zeros (2 ^ (s - 255))
      if left < out.length then none else (takeBytes img n bs (left - out.length)).map (out ++ ·)

/-- The bits of a payload, each byte from its least significant bit up (RFC 1951, 3.1.1). -/
def payloadBits (b : List Byte) : List Bool := b.flatMap (fun x => (List.range 8).map (fun i => bit x.toNat i))

/-- A payload decoded to its span (R235, R238). -/
def decodePayload (img : List Byte) (coding span : Nat) (b : List Byte) : Option (List Byte) :=
  if coding = 2 then some b else takeBytes img (span + 1) (payloadBits b) span

/-- Bitwise exclusive or (R235). -/
def xorBytes (a b : List Byte) : List Byte := (a.zip b).map (fun x => x.1 ^^^ x.2)

/-! ### Slots -/

/-- Slot s of a core's Expander. -/
def Core.slot (k : Core) (s : Nat) : XpSlot := nth {} k.xp.slots s
def Dev.updSlot (d : Dev) (core s : Nat) (f : XpSlot → XpSlot) : Dev :=
  d.updCore core (fun k => { k with xp := { k.xp with slots := modNth f s k.xp.slots } })

/-- The mirror object of a slot receives its count (R243). -/
def Dev.mirrorSlot (d : Dev) (core s : Nat) : Dev :=
  let x := (d.core core).slot s
  if x.mirror then d.syncSet x.refSync x.refs else d

def Dev.addRef (d : Dev) (core s : Nat) : Dev := (d.updSlot core s (fun x => { x with refs := x.refs + 1 })).mirrorSlot core s
def Dev.delRef (d : Dev) (core s : Nat) : Dev := (d.updSlot core s (fun x => { x with refs := x.refs - 1 })).mirrorSlot core s

/-! ### Clients -/

def Core.sess (k : Core) : XpClient → Option XpSess
  | .me => k.xp.me
  | .mv => k.xp.mv

def Core.setSess (k : Core) (x : XpClient) (s : Option XpSess) : Core :=
  match x with
  | .me => { k with xp := { k.xp with me := s } }
  | .mv => { k with xp := { k.xp with mv := s } }

def Dev.setSess (d : Dev) (core : Nat) (x : XpClient) (s : Option XpSess) : Dev := d.updCore core (fun k => k.setSess x s)

/-- The client code of XP_CAUSE (Table 8.10). -/
def XpClient.code : XpClient → Nat
  | .me => 0
  | .mv => 1

/-- Every block of a session has been delivered. -/
def XpSess.finished (s : XpSess) : Bool := s.hdr.isSome && (s.todo.isEmpty && s.ahead.isEmpty)

/-- The Expander records a cause (R252): XP_CAUSE, XP_ERR_ADDR, XP_ERR_BLOCK, the error flag. -/
def Dev.xpCause (d : Dev) (core client opcode cause addr block : Nat) : Dev :=
  let b := baseXP core
  let d := d.setReg (b + 8) (cause * 65536 + client * 256 + opcode)
  (((d.setReg (b + 0xC) (addr % 2 ^ 32)).setReg (b + 0x10) (addr / 2 ^ 32 % 2 ^ 20)).setReg (b + 0x14) (block % 2 ^ 32)).raise b 0 (b + 0x20)

/-- What a step of a client gives: it waits for data, it has gone on, or the op stops with a cause at an address. -/
inductive XpRes where
  | wait
  | ok
  | stop (cause addr block : Nat)
  deriving DecidableEq, Repr

/-- What reading bytes for the Expander gives: nothing yet, the bytes, a page that carries the protected attribute, or an address outside
the space. -/
inductive XpGot where
  | wait
  | got (b : List PByte)
  | prot (va : Nat)
  | outside
  deriving DecidableEq, Repr

/-- n bytes at an address of a session's space (R231, R254). -/
def Dev.xpBytes (c : Ctl) (d : Dev) (core : Nat) (s : XpSess) (a n : Nat) : Dev × XpGot :=
  if s.desc.space = 0 then (d, if a + n ≤ storeBytes then .got ((d.core core).csRead a n) else .outside)
  else if 2 ^ 52 < a + n then (d, .outside)
  else match d.resolve c core 3 s.op.as a n false with
    | (d, none) => (d, .wait)
    | (d, some ps) => match ps.find? (fun p => match p.tr with | some (_, lb) => bit lb 2 | none => false) with
      | some p => (d, .prot p.va)
      | none => match d.fetchPieces c (whoCore core 4 (c.facetOfCore core)) core 3 s.op.as (some s.op.own) s.hint ps with
        | (d, none) => (d, .wait)
        | (d, some b) => (d, .got b)

/-- A record of a block as read: its header's fields, payload and exponent bytes. -/
structure XpPiece where
  coding : Nat := 2
  slot : Nat := 0
  num : Nat := 0
  base : Nat := 0
  span : Nat := 0
  payload : List Byte := []
  exps : List Byte := []
  poison : Bool := false
  /-- Its header or index entry was read poisoned. -/
  blind : Bool := false
  at_ : Nat := 0
  /-- Bytes of the record in a relay stream. -/
  size : Nat := 0
  deriving DecidableEq, Repr

/-- What reading a record gives. -/
inductive XpRead where
  | wait
  | stop (cause addr : Nat)
  | piece (p : XpPiece)
  deriving DecidableEq, Repr

/-- The slot that a header names does not hold the table it was coded for (R244). -/
def Core.mismatch (k : Core) (x : List Byte) : Bool :=
  byteAt x 0 = 1 && (let s := k.slot (byteAt x 1 % 16); !(s.valid && s.version == le x 2 2))

/-- A piece from a header and what follows it; a poisoned header names no slot. -/
def mkPiece (x : List PByte) (span : Nat) (rest : List PByte) (a : Nat) : XpPiece :=
  let h := plain x
  let bad := anyPoison x
  let n := le h 0xC 2
  { coding := if bad then 2 else byteAt h 0, slot := byteAt h 1 % 16, num := le h 4 4, base := le h 8 4, span := span
    payload := plain (rest.take n), exps := plain (rest.drop n), poison := bad || anyPoison rest
    blind := bad, at_ := a, size := upTo (32 + n + le h 0x10 2) 64 }

/-- Block b of a stream read through its index (R232, R234, R253). -/
def Dev.xpIndexed (c : Ctl) (d : Dev) (core : Nat) (s : XpSess) (h : StreamHdr) (b : Nat) : Dev × XpRead :=
  let f := s.desc.fmt
  match d.xpBytes c core s (h.index + 8 * b) 8 with
  | (d, .wait) => (d, .wait)
  | (d, .prot va) => (d, .stop 7 va)
  | (d, .outside) => (d, .stop 2 (h.index + 8 * b))
  | (d, .got e) =>
    if anyPoison e then (d, .piece { span := h.span f b, num := b, poison := true, blind := true, at_ := h.index + 8 * b })
    else if le (plain e) 0 2 ≠ 0 then (d, .stop 3 (h.index + 8 * b))
    else
      let a := h.origin + 64 * (leNat (plain e) / 65536)
      match d.xpBytes c core s a 32 with
      | (d, .wait) => (d, .wait)
      | (d, .prot va) => (d, .stop 7 va)
      | (d, .outside) => (d, .stop 3 a)
      | (d, .got x) =>
        if anyPoison x then (d, .piece { span := h.span f b, num := b, poison := true, blind := true, at_ := a })
        else if blockBad h f b (plain x) then (d, .stop 3 a)
        else if (d.core core).mismatch (plain x) then (d, .stop 4 a)
        else match d.xpBytes c core s (a + 32) (le (plain x) 0xC 2 + le (plain x) 0x10 2) with
          | (d, .wait) => (d, .wait)
          | (d, .prot va) => (d, .stop 7 va)
          | (d, .outside) => (d, .stop 3 a)
          | (d, .got r) => (d, .piece (mkPiece x (h.span f b) r a))

/-- A block read with its base block goes into the session: references are taken (R243), the block waits to decode. -/
def Dev.xpAhead (d : Dev) (core : Nat) (x : XpClient) (s : XpSess) (b : Nat) (p : XpPiece) (q : Option XpPiece) : Dev :=
  let refs := (if p.coding = 1 then [p.slot] else []) ++ (match q with | some q => if q.coding = 1 then [q.slot] else [] | none => [])
  let bad := p.poison || (q.map (·.poison)).getD false
  let blk : XpBlock := {
    num := b, coding := p.coding, slot := p.slot, span := p.span, payload := p.payload, exps := p.exps, poison := bad, refs := refs
    at_ := p.at_, blind := p.blind || (q.map (·.blind)).getD false, base := q.map (fun q => (q.coding, q.slot, q.payload, q.exps, q.at_)) }
  let d := if bad && !s.poisoned then d.raise (baseXP core) 1 (baseXP core + 0x24) else d
  refs.foldl (fun d r => d.addRef core r)
    (d.setSess core x (some { s with todo := s.todo.drop 1, ahead := s.ahead ++ [blk], poisoned := s.poisoned || bad }))

/-- Bytes of the landing ring from byte position pos. -/
def Core.ringRead (k : Core) (base size pos n : Nat) : List PByte := (List.range n).flatMap (fun i => k.csRead (base + (pos + i) % size) 1)

/-- Bytes [o, o + n) of the landing ring past the read position, once they have arrived (R187, R359). -/
def Dev.ringGet (d : Dev) (core o n : Nat) : Option (List PByte) :=
  let k := d.core core
  if 64 * (k.arrived - k.readPos) < o + n then none
  else some (k.ringRead (d.fld (baseSQ core + 0x30) 10 0 * 4096) (d.fld (baseSQ core + 0x30) 26 16 * 4096) (64 * k.readPos + o) n)

/-- The Core Store offset of byte o of the landing ring past the read position. -/
def Dev.ringAt (d : Dev) (core o : Nat) : Nat :=
  d.fld (baseSQ core + 0x30) 10 0 * 4096 + (64 * (d.core core).readPos + o) % (d.fld (baseSQ core + 0x30) 26 16 * 4096)

/-- The record at offset o of the landing ring, for block b of a stream, or for a base record (R237). -/
def Dev.ringRecord (d : Dev) (core : Nat) (h : StreamHdr) (f : Fmt) (b : Option Nat) (o : Nat) : XpRead :=
  match d.ringGet core o 32 with
  | none => .wait
  | some x =>
    let hd := plain x
    let at_ := d.ringAt core o
    match d.ringGet core o (upTo (32 + le hd 0xC 2 + le hd 0x10 2) 64) with
    | none => .wait
    | some r =>
      let p := mkPiece x (h.span f (b.getD 0)) ((r.drop 32).take (le hd 0xC 2 + le hd 0x10 2)) at_
      if anyPoison x then .piece p
      else match b with
        | some b => if blockBad h f b hd then .stop 3 at_ else if (d.core core).mismatch hd then .stop 4 at_ else .piece p
        | none =>
          if le hd 8 4 ≠ 2 ^ 32 - 1 then .stop 6 at_
          else if blockBad { h with delta := false, blocks := 2, elementBytes := f.fullSpan + le hd 0xE 2 } f 1 (overlay hd 4 (toLe 4 1))
          then .stop 3 at_
          else if (d.core core).mismatch hd then .stop 4 at_ else .piece { p with span := le hd 0xE 2 }

/-- The next block of a relay stream (R237). -/
def Dev.xpRelayBlock (d : Dev) (core : Nat) (x : XpClient) (s : XpSess) (h : StreamHdr) (b : Nat) : Dev × XpRes :=
  let f := s.desc.fmt
  let at_ := d.ringAt core 0
  let take := fun (d : Dev) n => d.updCore core (fun k => { k with readPos := k.readPos + n / 64 })
  if !h.delta then
    match d.ringRecord core h f (some b) 0 with
    | .wait => (d, .wait)
    | .stop cs a => (d, .stop cs a b)
    | .piece p => ((take d p.size).xpAhead core x s b p none, .ok)
  else match d.ringRecord core h f none 0 with
    | .wait => (d, .wait)
    | .stop cs a => (d, .stop cs a b)
    | .piece q => match d.ringRecord core h f (some b) q.size with
      | .wait => (d, .wait)
      | .stop cs a => (d, .stop cs a b)
      | .piece p =>
        if !(p.blind || q.blind) && (p.base ≠ q.num || (p.span ≠ q.span || p.exps.length ≠ q.exps.length)) then (d, .stop 6 at_ b)
        else ((take d (q.size + p.size)).xpAhead core x s b p (some q), .ok)

/-- The next block of a stream, with its base block (R236, R249). -/
def Dev.xpNextBlock (c : Ctl) (d : Dev) (core : Nat) (x : XpClient) (s : XpSess) (h : StreamHdr) : Dev × XpRes :=
  match s.todo with
  | [] => (d, .wait)
  | b :: _ =>
    if s.desc.space = 2 then d.xpRelayBlock core x s h b
    else match d.xpIndexed c core s h b with
      | (d, .wait) => (d, .wait)
      | (d, .stop cs a) => (d, .stop cs a b)
      | (d, .piece p) => match s.baseHdr with
        | none => (d.xpAhead core x s b p none, .ok)
        | some g =>
          if p.blind then (d.xpAhead core x s b p none, .ok)
          else if g.blocks ≤ p.base then (d, .stop 6 h.base b)
          else match d.xpIndexed c core s g p.base with
            | (d, .wait) => (d, .wait)
            | (d, .stop cs a) => (d, .stop cs a b)
            | (d, .piece q) =>
              if !q.blind && (p.span ≠ q.span || p.exps.length ≠ q.exps.length) then (d, .stop 6 h.base b)
              else (d.xpAhead core x s b p (some q), .ok)

/-- A stream header for a client (R231, R252): a poisoned one is POISON_STREAM; the caller checks what depends on its format and base. -/
def Dev.xpHeader (c : Ctl) (d : Dev) (core : Nat) (s : XpSess) (a : Nat) : Dev × (Option (List Byte) ⊕ XpRes) :=
  let judge := fun (d : Dev) (b : List PByte) =>
    if anyPoison b then (d, Sum.inr (XpRes.stop 0xA a 0))
    else if streamForm (plain b) then (d, Sum.inl (some (plain b)))
    else (d, Sum.inr (XpRes.stop 2 a 0))
  if s.desc.space = 2 then
    match d.ringGet core 0 64 with
    | none => (d, .inr .wait)
    | some b => judge d b
  else match d.xpBytes c core s a 64 with
    | (d, .wait) => (d, .inr .wait)
    | (d, .prot va) => (d, .inr (.stop 7 va 0))
    | (d, .outside) => (d, .inr (.stop 2 a 0))
    | (d, .got b) => judge d b

/-- The stream header, and the base stream's, are read and checked (R231, R236, R269). -/
def Dev.xpOpen (c : Ctl) (d : Dev) (core : Nat) (x : XpClient) (s : XpSess) : Dev × XpRes :=
  let a := s.desc.base
  let relay := s.desc.space = 2
  match d.xpHeader c core s a with
  | (d, .inr r) => (d, r)
  | (d, .inl none) => (d, .wait)
  | (d, .inl (some b)) =>
    let h := parseStream b
    if h.wfmt ≠ s.desc.fmtCode || (!streamOk s.desc.fmt b || h.elementBytes ≠ s.desc.elementBytes) then (d, .stop 2 a 0)
    else
      let s := { s with hdr := some h, todo := if relay then List.range h.blocks else s.todo }
      let d := if relay then d.updCore core (fun k => { k with readPos := k.readPos + 1 }) else d
      if relay || !h.delta then (d.setSess core x (some s), .ok)
      else match d.xpHeader c core s h.base with
        | (d, .inr r) => (d, r)
        | (d, .inl none) => (d, .wait)
        | (d, .inl (some g)) =>
          let gh := parseStream g
          if gh.delta || gh.wfmt ≠ h.wfmt then (d, .stop 6 h.base 0)
          else if !streamOk s.desc.fmt g then (d, .stop 2 h.base 0)
          else (d.setSess core x (some { s with baseHdr := some gh }), .ok)

/-- One header step of a client (R249): the stream header first, then the next block, at most 4 ahead. -/
def Dev.xpHeaderStep (c : Ctl) (d : Dev) (core : Nat) (x : XpClient) : Dev × XpRes :=
  let go := fun (d : Dev) (s : XpSess) => match s.hdr with
    | none => (d, XpRes.wait)
    | some h => if 4 ≤ s.ahead.length then (d, .wait) else Dev.xpNextBlock c d core x s h
  let r := match (d.core core).sess x with
    | none => (d, XpRes.wait)
    | some s => match s.hdr with
      | some _ => go d s
      | none => match Dev.xpOpen c d core x s with
        | (d, .ok) => match (d.core core).sess x with
          | some s => (match go d s with
            | (d, .wait) => (d, XpRes.ok)
            | r => r)
          | none => (d, .ok)
        | r => r
  match r with
  | (d, .wait) => (d, .wait)
  | (d, r) => (d.doneOutside core 3, r)

/-- Core cycles of a block (R248). -/
def blockCycles (b : XpBlock) : Nat :=
  let rate := fun (cd : Nat) => if cd = 1 then 128 else 256
  let r := match b.base with
    | some q => min (rate b.coding) (rate q.1)
    | none => rate b.coding
  max (cdiv b.span r) (cdiv (b.payload.length + (match b.base with | some q => q.2.2.1.length | none => 0)) 256)

/-- The bytes and exponents that a block rebuilds (R235), or the address of the header whose payload is CORRUPT. -/
def Core.rebuild (k : Core) (b : XpBlock) : (List Byte × List Byte) ⊕ Nat :=
  match decodePayload (k.slot b.slot).image b.coding b.span b.payload with
  | none => .inr b.at_
  | some p => match b.base with
    | none => .inl (p, b.exps)
    | some (cd, sl, q, e, a) => match decodePayload (k.slot sl).image cd b.span q with
      | none => .inr a
      | some q => .inl (xorBytes p q, xorBytes b.exps e)

/-- The cycles of a block (R248, R253). A block that is blind has no coding to go by: a free bit chooses between the two rates (log 51). -/
def Dev.xpCycles (d : Dev) (b : XpBlock) : Nat :=
  if b.blind then cdiv b.span (if (Config.freeValue d.freeCtr).getLsbD 0 then 128 else 256) else blockCycles b

/-- The oldest block read ahead is decoded: its references go, its bytes are delivered (R243, R249). Of a poisoned block no byte is decoded,
and no block is counted as decoded (R253). -/
def Dev.xpDecodeStep (d : Dev) (core : Nat) (x : XpClient) : Dev × XpRes :=
  match (d.core core).sess x with
  | none => (d, .wait)
  | some s => match s.ahead with
    | [] => (d, .wait)
    | b :: rest =>
      match (if b.poison then .inl ([], []) else (d.core core).rebuild b) with
      | .inr a => (d, .stop 5 a b.num)
      | .inl (bytes, exps) =>
        let a := baseXP core
        let pieces := if b.poison then [] else [b.coding] ++ (match b.base with | some q => [q.1] | none => [])
        let inb := b.payload.length + (match b.base with | some q => q.2.2.1.length | none => 0)
        let d := (d.count (a + 0x40) (pieces.filter (· == 1)).length).count (a + 0x44) (pieces.filter (· == 2)).length
        let d := ((d.count (a + 0x4C) (cdiv b.span 64)).count (a + 0x50) (cdiv inb 64)).count (a + 0x58) (d.xpCycles b)
        let d := { d with freeCtr := d.freeCtr + 1 }
        let d := d.setSess core x (some { s with ahead := rest, out := s.out ++ [{ num := b.num, bytes := bytes, exps := exps, poison := b.poison }] })
        (b.refs.foldl (fun d r => d.delRef core r) d, .ok)

/-- The Expander turns to its next block (R250): `last` is the client whose block has ended, none where it was idle. With both clients ready
they alternate, the ME first after an idle time. -/
def Dev.xpTurn (d : Dev) (core : Nat) (last : Option Bool) : Dev :=
  d.updCore core (fun k =>
    let ready := fun (s : Option XpSess) => (s.map (fun s => !s.ahead.isEmpty)).getD false
    let me := ready k.xp.me
    let mv := ready k.xp.mv
    { k with xp := { k.xp with cur := if me && (!mv || last ≠ some true) then some true else if mv then some false else none } })

/-- A block that has become ready is taken up where the Expander is idle, or has lost the block that it decoded. -/
def Dev.xpReady (d : Dev) (core : Nat) : Dev :=
  let k := d.core core
  let ready := fun (s : Option XpSess) => (s.map (fun s => !s.ahead.isEmpty)).getD false
  match k.xp.cur with
  | none => d.xpTurn core none
  | some m => if ready (if m then k.xp.me else k.xp.mv) then d else d.xpTurn core (some m)

/-- The Expander stops a client's op (R243, R252, R254): references go, the cause is recorded; PROTECTED is a violation of its own. -/
def Dev.xpStop (c : Ctl) (d : Dev) (core : Nat) (x : XpClient) (cause addr block : Nat) : Dev :=
  match (d.core core).sess x with
  | none => d
  | some s =>
    let d := (d.setSess core x none).doneOutside core 3
    let d := (s.ahead.flatMap (·.refs)).foldl (fun d r => d.delRef core r) d
    let d := d.xpCause core x.code (s.op.op % 256) cause addr block
    if cause = 7 then (d.raise (baseXP core) 3 (baseXP core + 0x2C)).violate (opViolation c core 4 2 7 addr s.op.as) else d

/-- The bytes [p, p + n) of the element byte stream, as delivered. -/
def XpSess.at (s : XpSess) (p n : Nat) : Nat × Bool :=
  let span := s.desc.fmt.fullSpan
  match s.out.find? (fun o => o.num == p / span) with
  | none => (0, false)
  | some o => (le o.bytes (p % span) n, o.poison)

/-- Element (r, c) of a coded tensor as delivered (R267, R269): codes for a sub-byte format. -/
def XpSess.elem (s : XpSess) (r c : Nat) : Nat × Bool :=
  let t := s.desc
  let f := t.fmt
  if !t.inBounds r c then (t.fill % 2 ^ f.width, false)
  else if f.subByte then
    let p := t.streamPos r c + f.width * (r % 32) / 8
    let (lo, a) := s.at p 1
    let (hi, b) := s.at (p + 1) 1
    let sh := f.width * (r % 32) % 8
    if sh + f.width ≤ 8 then (lo / 2 ^ sh % 2 ^ f.width, a) else ((lo + 256 * hi) / 2 ^ sh % 2 ^ f.width, a || b)
  else s.at (t.streamPos r c) f.bytes

/-- The exponent byte of the code block of (r, c), as delivered. -/
def XpSess.exp (s : XpSess) (r c : Nat) : Nat × Bool :=
  let t := s.desc
  let f := t.fmt
  if !t.blockIn r c then (0x80, false)
  else
    let p := t.streamPos r c
    match s.out.find? (fun o => o.num == p / f.fullSpan) with
    | none => (0x80, false)
    | some o => (byteAt o.exps (p % f.fullSpan / f.colBytes), o.poison)

end Sys2Proof.Machine
end

