-- ==== Sys2Proof/Machine/MatrixEngine.lean ====
section
/-! DEFINITION. The Matrix Engine (Matrix Engine): weight sets, tile groups, the current staircase, preemption's reload. Ops that no event
completes (SWAP, INVAL, SCALES, the start of loads) take effect as soon as the rules let them, after each event of the engine. -/

namespace Sys2Proof.Machine

def Dev.me (d : Dev) (core : Nat) : Me := (d.core core).me
def Dev.updMe (d : Dev) (core : Nat) (f : Me → Me) : Dev := d.updCore core (fun k => { k with me := f k.me })

/-! ### Shapes, formats, fields -/

/-- The sub-array size of a shape (Table 5.1). -/
def shapeS (shape : Nat) : Nat := if shape = 0 then 128 else if shape = 1 then 64 else 32
/-- The number of sub-arrays of a shape. -/
def shapeN (shape : Nat) : Nat := 4 ^ shape

/-- The operand pairs of the ME (Table 4.5). -/
def mePair (a w : Fmt) : Bool :=
  let f8 := fun (x : Fmt) => x = .e4m3 || x = .e5m2
  (f8 a && f8 w) || ((a = .fp16 && w = .fp16) || ((a = .bf16 && w = .bf16) || ((a = .int8 && (w = .int8 || w = .int4)) || (f8 a && w = .int4))))

/-- Formats that the ME takes as weights, as activations, as outputs (Table 4.1, Table 5.4). -/
def meWeight (code : Nat) : Bool := 1 ≤ code && code ≤ 6
def meAct (code : Nat) : Bool := 1 ≤ code && code ≤ 5
def meOut (code : Nat) : Bool := code ≤ 5

/-- An op's FP32 scale register i of an engine with registers at base, with its poison. -/
def Dev.scaleReg (d : Dev) (base : Nat) (poison : NatSet) (i : Nat) : Nat × Bool := (d.reg (base + 4 * i), NatSet.has poison i)

/-- The scale registers of the ME of core n (R35, R179). -/
def baseMeScale (n : Nat) : Nat := baseCore n + 0x10000
/-- The scale registers of the MVP. -/
def baseMvScale (n : Nat) : Nat := baseCore n + 0x14000

/-! ### Ends of ops -/

/-- A refusal recorded in ME_ERR, ME_ERR_ADDR and ME_STATUS (R168). -/
def Dev.meErr (d : Dev) (core : Nat) (q : QOp) (code : Nat) : Dev :=
  let b := baseME core
  (((d.setReg (b + 8) (code * 65536 + q.op % 256)).setReg (b + 0xC) (q.va % 2 ^ 32)).setReg (b + 0x10) (q.va / 2 ^ 32)).raise b 2 (b + 0x28)

/-- The ME refuses an op (R168). -/
def Dev.meRefuse (c : Ctl) (d : Dev) (core : Nat) (q : QOp) (code : Nat) (logged : Bool) : Dev :=
  Dev.opRefused c (d.meErr core q code) core .me q code logged

/-- Ops of the ME queue leave it. -/
def Dev.meTake (d : Dev) (core : Nat) (ids : List Nat) : Dev :=
  d.updMe core (fun m => { m with queue := m.queue.filter (fun q => !ids.contains q.id), issues := m.issues + ids.length })

/-- A group is refused as a whole (R154, R168): the refusal is recorded for member q, the others leave with it. -/
def Dev.meRefuseGroup (c : Ctl) (d : Dev) (core : Nat) (qs : List QOp) (q : QOp) (code : Nat) (logged : Bool) : Dev :=
  let d := d.meTake core (qs.map (·.id))
  Dev.meRefuse c (qs.foldl (fun d x => d.dropOutst core x.id) d) core q code logged

/-! ### Groups at the head of the queue -/

def isMm (q : QOp) : Bool := q.op % 256 == 0x12
def isJoin (q : QOp) : Bool := isMm q && opt q.op 1 2
def isLoad (q : QOp) : Bool := q.op % 256 == 0x10
def isSwap (q : QOp) : Bool := q.op % 256 == 0x11
def isInval (q : QOp) : Bool := q.op % 256 == 0x13

/-- A run of members with join set that another ME op ends, or that is longer than any shape admits (R154). -/
def openRun : List QOp → List QOp → Option (List QOp)
  | run, [] => if 16 ≤ run.length then some run else none
  | run, q :: r =>
    if isJoin q then openRun (run ++ [q]) r
    else if isMm q then (if 16 ≤ run.length then some (run ++ [q]) else openRun [] r)
    else if run.isEmpty then openRun [] r else some run

/-- The complete group at the head of the issue path: its members. -/
def headGroup (l : List QOp) : Option (List QOp) :=
  let m := l.takeWhile isJoin
  match l.drop m.length with
  | q :: _ => if isMm q then some (m ++ [q]) else none
  | [] => none

/-- The field checks of an ME_MM (Table 5.5, R163, R166). -/
def mmFieldsOk (op : Nat) : Bool :=
  opClean op [(1, 2, 0), (2, 7, 0), (3, 3, 0), (4, 15, 0), (6, 11, 0), (8, 22, 0), (11, 7, 0), (12, 22, 0), (15, 7, 0), (16, 31, 0), (20, 31, 0),
    (24, 15, 0), (26, 15, 0), (28, 22, 0)] &&
  (opn op 4 2 ≤ 2048 && (offOk (opn op 8 3) 64 && (offOk (opn op 12 3) 64 &&
  ((if opt op 1 1 then opn op 28 4 < storeBytes && opn op 28 4 + cdiv (opn op 4 2) 2 ≤ storeBytes else opn op 28 4 == 0) &&
  ((opb op 11 == 0 || opf op 2 3 0 == 5) && (opb op 15 == 0 || opf op 2 7 4 == 5))))))

/-- Output bytes per element of an ME_MM. -/
def mmOutBytes (op : Nat) : Nat := ((fmtOf (opf op 2 7 4)).getD .fp32).bytes

/-- The active sub-array that a member names. -/
def Me.subOf (m : Me) (op : Nat) : Option SubArr := Sparse.get none m.active.subs (opf op 3 3 0)

/-- The period p of a group (R159). -/
def groupPeriod (m : Me) (qs : List QOp) : Nat :=
  let two := qs.any (fun q => opf q.op 2 3 0 == 1 || opf q.op 2 3 0 == 2)
  let out := cdiv ((qs.map (fun q => (((m.subOf q.op).map (·.n)).getD 0) * mmOutBytes q.op)).foldl (· + ·) 0) 1024
  max (if two then 2 else 1) out

/-- Rows of the newest group are still to issue (R159): no other group and no SWAP issues before them. -/
def Me.issuing (m : Me) : Bool :=
  match m.groups.getLast? with
  | some g => g.any (fun x => x.out < opn x.op.op 4 2)
  | none => false

/-- Some element of a list occurs twice. -/
def hasDup : List Nat → Bool
  | [] => false
  | a :: r => r.contains a || hasDup r

/-- What a complete group breaks before its descriptors are read (R154, R159, R166): the member at fault and the code. DESIGN CHOICE (log 44):
where several rules are broken the checks go by kind, in the order below; BAD_GROUP is recorded with the last member. -/
def groupFault (m : Me) (qs : List QOp) : Option (QOp × Nat) :=
  let last := (qs.getLast?).getD {}
  let shape := m.active.shape.getD 0
  let p := groupPeriod m qs
  match qs.find? (fun q => !mmFieldsOk q.op) with
  | some q => some (q, 1)
  | none => match qs.find? (fun q => !meAct (opf q.op 2 3 0) || !meOut (opf q.op 2 7 4)) with
    | some q => some (q, 2)
    | none =>
      if hasDup (qs.map (fun q => opf q.op 3 3 0)) then some (last, 6)
      else if m.active.shape.isSome && (shapeN shape < qs.length || qs.any (fun q => shapeN shape ≤ opf q.op 3 3 0)) then some (last, 6)
      else match qs.find? (fun q => (m.subOf q.op).isNone) with
        | some q => some (q, 7)
        | none => match qs.find? (fun q => !mePair ((fmtOf (opf q.op 2 3 0)).getD .fp32) ((fmtOf (((m.subOf q.op).getD {}).wfmt)).getD .fp32)) with
          | some q => some (q, 2)
          | none => match qs.find? (fun q => 2048 < opn q.op 4 2 * p) with
            | some q => some (q, 8)
            | none => match qs.find? (fun q => 4096 < opf q.op 6 11 0 + ((m.subOf q.op).getD {}).n) with
              | some q => some (q, 9)
              | none => none

/-! ### Loads -/

/-- The field checks of an ME_LOAD (Table 5.4): the code of a refusal, 0 for none. -/
def loadFault (op : Nat) : Nat :=
  let shape := opf op 1 1 0
  let sparse := opt op 1 2
  let s := shapeS shape
  let k := opn op 4 2
  let n := opn op 6 2
  let meta_ := opn op 20 4
  if !opClean op [(1, 2, 0), (2, 3, 0), (3, 3, 0), (4, 15, 0), (6, 15, 0), (8, 22, 0), (12, 31, 0), (16, 31, 0), (20, 22, 0)] ||
    (shape = 3 || (shapeN shape ≤ opf op 3 3 0 || !offOk (opn op 8 4) 64)) then 1
  else if !meWeight (opf op 2 3 0) then 2
  else if k < 1 || s < k || (sparse && k % 4 ≠ 0) || n < 1 || (if sparse then 2 * s else s) < n then 3
  else if (if sparse then meta_ % 16 ≠ 0 || storeBytes < meta_ + n * (s / 8) else meta_ ≠ 0) then 1
  else 0

/-- The kept positions of a channel of sparse weights (R156), as read, with poison. -/
def Core.metaOf (k : Core) (meta_ s kext n : Nat) : List Nat × Bool :=
  let (v, p) := k.word (meta_ + n * (s / 8)) (s / 8)
  ((List.range (kext / 2)).map (fun i => v / 4 ^ i % 4), p)

/-- The positions of a channel rise within each group. -/
def metaRises : List Nat → Bool
  | a :: b :: r => a < b && metaRises r
  | _ => true

/-- An ME_LOAD starts (R163, R164): its checks, its descriptor, its metadata; the first load into a free shadow set gives it its shape. -/
def Dev.startLoad (c : Ctl) (d : Dev) (core : Nat) (q : QOp) : Dev :=
  let op := q.op
  let d := d.meTake core [q.id]
  let k := d.core core
  let m := k.me
  let shape := opf op 1 1 0
  let sparse := opt op 1 2
  let code := loadFault op
  if code ≠ 0 then d.meRefuse c core q code true
  else if m.shadow.shape.isSome && (m.shadow.shape ≠ some shape || m.shadow.sparse ≠ sparse) then d.meRefuse c core q 4 true
  else
    let metas := if sparse then (List.range (opn op 6 2)).map (k.metaOf (opn op 20 4) (shapeS shape) (opn op 4 2)) else []
    if metas.any (fun x => !x.2 && !metaRises x.1) then d.meRefuse c core q 5 true
    else match k.desc (opn op 8 4) [0] [0, 1] false with
      | .poison => d.meRefuse c core q 0xA false
      | .bad => d.meRefuse c core q 0xA true
      | .ok t =>
        if t.fmtCode ≠ opf op 2 3 0 then d.meRefuse c core q 0xA true
        else d.updMe core (fun m => { m with
          started := m.started ++ [{ op := q, desc := t, pos := metas.map (·.1), poison := metas.any (·.2) }]
          shadow := { m.shadow with shape := some shape, sparse := sparse } })

/-- The rows of the weight tensor that a load reads (R164): kept weights when sparse. -/
def loadRows (op : Nat) : Nat × Nat :=
  if opt op 1 2 then (16 * opn op 12 4, opn op 4 2 / 2) else (32 * opn op 12 4, opn op 4 2)

/-- The Expander's session for the oldest load in progress, when its weights are coded. -/
def Dev.meSession (d : Dev) (core : Nat) : Dev :=
  let k := d.core core
  match k.me.started, k.xp.me with
  | r :: _, none =>
    if r.desc.coding = 1 then
      let (r0, nr) := loadRows r.op.op
      d.setSess core .me (some { op := r.op, desc := r.desc, todo := r.desc.blocksOf r0 nr (32 * opn r.op.op 16 4) (opn r.op.op 6 2) })
    else d
  | _, _ => d

/-- The weights of a load, read element by element: from Core Store for a plain tensor, from the session for a coded one. -/
def Core.loadWeights (k : Core) (r : MeLoadRun) (s : Option XpSess) : SubArr :=
  let op := r.op.op
  let t := r.desc
  let (r0, nr) := loadRows op
  let c0 := 32 * opn op 16 4
  let n := opn op 6 2
  let elem := fun (i j : Nat) => match s with
    | some s => s.elem (r0 + i) (c0 + j)
    | none => if t.fmt.subByte then k.code t (r0 + i) (c0 + j) else k.elem t (r0 + i) (c0 + j)
  let exp := fun (i j : Nat) => match s with
    | some s => s.exp i (c0 + j)
    | none => k.expByte t i (c0 + j)
  let blocks := if t.fmt.subByte then cdiv (opn op 4 2) 32 else 0
  let rowOf := fun (b : Nat) => if opt op 1 2 then r0 + 16 * b else r0 + 32 * b
  let w := (List.range n).map (fun j => (List.range nr).map (fun i => elem i j))
  let e := (List.range n).map (fun j => (List.range blocks).map (fun b => exp (rowOf b) j))
  { load := r.op, k := opn op 4 2, n := n, wfmt := opf op 2 3 0
    w := w.map (fun l => l.map (·.1)), ex := e.map (fun l => l.map (·.1)), pos := r.pos
    poison := r.poison || (w.any (fun l => l.any (·.2)) || e.any (fun l => l.any (·.2))) }

/-- Fill reads of a load (R267, R268). -/
def loadFills (r : MeLoadRun) : Nat :=
  let (r0, nr) := loadRows r.op.op
  let c0 := 32 * opn r.op.op 16 4
  (List.range nr).foldl (fun a i => a + ((List.range (opn r.op.op 6 2)).filter (fun j => !r.desc.inBounds (r0 + i) (c0 + j))).length) 0

/-- The weights of the oldest load are in the shadow set (R169): its sub-array is valid. -/
def Dev.landLoad (d : Dev) (core : Nat) (r : MeLoadRun) (s : Option XpSess) : Dev :=
  let sub := (d.core core).loadWeights r s
  let d := ((d.oobReads core (loadFills r)).count (baseME core + 0x6C) 1).markIf sub.poison r.op.own 0
  let d := if s.isNone then d.count (baseXP core + 0x48) (cdiv (sub.n * (loadRows r.op.op).2 * r.desc.fmt.width / 8) 256) else d
  d.updMe core (fun m => { m with shadow := { m.shadow with subs := Sparse.set none m.shadow.subs (opf r.op.op 3 3 0) (some sub) } })

/-- A load is stopped (R252): its sub-array is not valid; a set that holds nothing and loads nothing is free again. -/
def Dev.stopLoad (d : Dev) (core : Nat) (r : MeLoadRun) : Dev :=
  d.updMe core (fun m =>
    let started := m.started.filter (fun x => x.op.id ≠ r.op.id)
    let subs := Sparse.set none m.shadow.subs (opf r.op.op 3 3 0) none
    { m with started := started, shadow := if subs.isEmpty && started.isEmpty then {} else { m.shadow with subs := subs } })

/-- The Expander has stopped the oldest load (R168, R252). -/
def Dev.meXpError (c : Ctl) (d : Dev) (core cause : Nat) : Dev :=
  match (d.me core).started with
  | r :: _ => (d.stopLoad core r).meRefuse c core r.op 0xB (cause ≠ 0xA)
  | [] => d

/-! ### Reload after preemption -/

/-- A coded stream read and decoded whole, step by step, by a reload: `false` when it stopped. -/
def Dev.xpWhole (c : Ctl) (core : Nat) : Nat → Dev → Dev × Bool
  | 0, d => (d, true)
  | n + 1, d =>
    match Dev.xpHeaderStep c d core .me with
    | (d, .stop cs a b) => (d.xpStop c core .me cs a b, false)
    | (d, r) => match Dev.xpDecodeStep d core .me with
      | (d, .stop cs a b) => (d.xpStop c core .me cs a b, false)
      | (d, .wait) => if r = .wait then (d, true) else Dev.xpWhole c core n d
      | (d, .ok) => Dev.xpWhole c core n d

/-- One recorded load repeated into the shadow set (R178): a load that fails leaves its sub-array not valid and is recorded. -/
def Dev.reloadOne (c : Ctl) (d : Dev) (core : Nat) (s : SubArr) : Dev :=
  let q := s.load
  let fail := fun (d : Dev) (code : Nat) (logged : Bool) =>
    let d := d.meErr core q code
    if logged then d.violate (opViolation c core 1 3 code q.va q.as) else d
  match (d.core core).desc (opn q.op 8 4) [0] [0, 1] false with
  | .poison => fail d 0xA false
  | .bad => fail d 0xA true
  | .ok t =>
    if t.fmtCode ≠ opf q.op 2 3 0 then fail d 0xA true
    else
      let k := d.core core
      let metas := if opt q.op 1 2 then (List.range s.n).map (k.metaOf (opn q.op 20 4) (shapeS (opf q.op 1 1 0)) s.k) else []
      if metas.any (fun x => !x.2 && !metaRises x.1) then fail d 5 true
      else
        let r : MeLoadRun := { op := q, desc := t, pos := metas.map (·.1), poison := metas.any (·.2) }
        if t.coding = 0 then d.landLoad core r none
        else
          let d := (d.updMe core (fun m => { m with started := [r] })).meSession core
          let n := (((d.core core).xp.me).map (fun x => x.todo.length)).getD 0
          match Dev.xpWhole c core (2 * n + 8) d with
          | (d, ok) =>
            let x := (d.core core).xp.me
            let d := (d.setSess core .me none).updMe core (fun m => { m with started := [] })
            if ok && (x.map (·.finished)).getD false then d.landLoad core r x else fail d 0xB ((d.fld (baseXP core + 8) 23 16) ≠ 0xA)

/-- The recorded loads of a set repeated into an empty shadow set. -/
def Dev.reloadSet (c : Ctl) (d : Dev) (core : Nat) (s : MeSet) : Dev :=
  let d := d.updMe core (fun m => { m with shadow := { shape := s.shape, sparse := s.sparse } })
  s.subs.foldl (fun d e => match e.2 with
    | some x => d.reloadOne c core x
    | none => d) d

/-- The sets are rebuilt from their load record before the resumed task's next ME op (R178). -/
def Dev.reload (c : Ctl) (d : Dev) (core : Nat) (r : MeSet × MeSet) : Dev :=
  let d := (d.updMe core (fun m => { m with reload := none })).reloadSet c core r.1
  let d := d.updMe core (fun m => { m with active := m.shadow, shadow := {} })
  (d.reloadSet c core r.2).raise (baseME core) 3 (baseME core + 0x2C)

/-! ### Ops without an event of their own -/

/-- The scale copy of ME_SCALES and MV_SCALES (R167, R195): the code of a refusal (1 BAD_FIELD, 2 the range), or the registers' values. -/
def scalesOf (k : Core) (op : Nat) : Nat ⊕ List (Nat × Nat × Bool) :=
  let first := opn op 4 2
  let n := opn op 6 2
  let src := opn op 8 4
  if !opClean op [(4, 11, 0), (6, 15, 0), (8, 22, 0)] || (n < 1 || (4096 < n || (src % 4 ≠ 0 || storeBytes < src + 4 * n))) then .inl 1
  else if 4096 < first + n then .inl 2
  else .inr ((List.range n).map (fun i => (first + i, k.word (src + 4 * i) 4)))

/-- Scale registers written, with their poison. -/
def Dev.putScales (d : Dev) (base : Nat) (l : List (Nat × Nat × Bool)) : Dev := l.foldl (fun d x => d.setReg (base + 4 * x.1) x.2.1) d
def scalePoisonAfter (s : NatSet) (l : List (Nat × Nat × Bool)) : NatSet :=
  l.foldl (fun s x => if x.2.2 then NatSet.ins s x.1 else NatSet.del s x.1) s

/-- One op of the ME queue that can take effect now does (R154, R163 to R165, R167); none when nothing can. -/
def Dev.meStep (c : Ctl) (d : Dev) (core : Nat) : Option Dev :=
  let m := d.me core
  match m.queue with
  | [] => none
  | q :: _ =>
    if d.withheld core q then none
    else match m.reload with
    | some r => some (d.reload c core r)
    | none => match openRun [] m.queue with
      | some run => some (d.meRefuseGroup c core run ((run.getLast?).getD q) 6 true)
      | none => match (m.queue.takeWhile (fun x => !isSwap x && !isInval x)).find? isLoad with
        | some l => some (d.startLoad c core l)
        | none =>
          let idle := m.started.all (fun x => q.id < x.op.id) && m.groups.isEmpty
          if isSwap q then
            if !opClean q.op [] then some ((d.meTake core [q.id]).meRefuse c core q 1 true)
            else if m.started.isEmpty && (m.level = 8 && !m.issuing) then
              let d := (d.meTake core [q.id]).updMe core (fun m => { m with active := m.shadow, shadow := {}, gap := 0 })
              some ((d.count (baseME core + 0x70) 1).opDone core q)
            else none
          else if isInval q then
            if !opClean q.op [] then some ((d.meTake core [q.id]).meRefuse c core q 1 true)
            else if idle then some (((d.meTake core [q.id]).updMe core (fun m => { m with active := {}, shadow := {} })).opDone core q)
            else none
          else if q.op % 256 = 0x14 then
            if !idle then none
            else match scalesOf (d.core core) q.op with
              | .inl e => some ((d.meTake core [q.id]).meRefuse c core q (if e = 1 then 1 else 9) true)
              | .inr l =>
                let d := (((d.meTake core [q.id]).markIf (l.any (·.2.2)) q.own 0).putScales (baseMeScale core) l).updMe core (fun m => { m with scalePoison := scalePoisonAfter m.scalePoison l })
                some (d.opDone core q)
          else match headGroup m.queue with
            | none => none
            | some qs => match groupFault m qs with
              | some (x, code) => some (d.meRefuseGroup c core qs x code true)
              | none => none

/-- Ops take effect until none can; the Expander serves the oldest load. -/
def Dev.meDrain (c : Ctl) (core : Nat) : Nat → Dev → Dev
  | 0, d => d.meSession core
  | n + 1, d => match d.meStep c core with
    | none => d.meSession core
    | some d => Dev.meDrain c core n d

/-- An ME op enters the queue (R163); what can take effect at once does. -/
def meIssue (core o : Nat) (s : State) : Host.Outcome State Fault Refusal :=
  onDev s fun c d => let (d, ok) := d.issue core o .me; if ok then d.meDrain c core 64 else d

/-- ME_LOAD (R164). -/
def execMeLoad (core : Fin 128) (s : State) : Host.Outcome State Fault Refusal := meIssue core 0x10 s
/-- ME_SWAP (R152, R165). -/
def execMeSwap (core : Fin 128) (s : State) : Host.Outcome State Fault Refusal := meIssue core 0x11 s
/-- ME_MM (R166). -/
def execMeMm (core : Fin 128) (s : State) : Host.Outcome State Fault Refusal := meIssue core 0x12 s
/-- ME_INVAL (R165). -/
def execMeInval (core : Fin 128) (s : State) : Host.Outcome State Fault Refusal := meIssue core 0x13 s
/-- ME_SCALES (R167). -/
def execMeScales (core : Fin 128) (s : State) : Host.Outcome State Fault Refusal := meIssue core 0x14 s

/-- ME_LOAD_COMPLETE (R169): the oldest load, once a coded stream has been delivered whole. -/
def execMeLoadComplete (core : Fin 128) (s : State) : Host.Outcome State Fault Refusal :=
  onDev s fun c d =>
    let k := d.core core
    match k.me.started with
    | [] => d
    | r :: rest =>
      let x := if r.desc.coding = 1 then k.xp.me else none
      if r.desc.coding = 1 && !((x.map (·.finished)).getD false) then d
      else
        let d := (d.landLoad core r x).updMe core (fun m => { m with started := rest })
        let d := if r.desc.coding = 1 then d.setSess core .me none else d
        (d.opDone core r.op).meDrain c core 64

/-! ### Rows -/

/-- The zero blocks of row i of a member's bitmap (R157, R176): bits, poison (then none is marked). -/
def Core.zeroBits (k : Core) (op i : Nat) : Nat × Bool :=
  if opt op 1 1 then
    let (v, p) := k.word (opn op 28 4 + i / 2) 1
    if p then (0, true) else (v / 16 ^ (i % 2) % 16, false)
  else (0, false)

/-- Row i of a member is skipped (R158): every block within k_extent is marked. -/
def Core.rowSkipped (k : Core) (op kext i : Nat) : Bool :=
  let b := (k.zeroBits op i).1
  opt op 1 1 && (List.range (cdiv kext 32)).all (fun j => bit b j)

/-- A member passes the skipped rows before its next row to issue (R158). -/
def Core.passSkipped (k : Core) (x : MeMember) : MeMember :=
  { x with out := x.out + (((List.range (opn x.op.op 4 2 - x.out)).map (x.out + ·)).takeWhile (k.rowSkipped x.op.op x.sub.k)).length }

/-- The member's next row issues; the skipped rows behind it are passed with it. -/
def Core.issueOne (k : Core) (x : MeMember) : MeMember :=
  if x.out < opn x.op.op 4 2 then k.passSkipped { x with out := x.out + 1 } else x

/-- The member's operand pair takes two cycles a row (R159). -/
def MeMember.format (x : MeMember) : Nat := if opf x.op.op 2 3 0 = 1 || opf x.op.op 2 3 0 = 2 then 2 else 1

/-- Every cell of a member's sub-array works in cycle i of its row's period (R154, R157, R164): the row issues, it fills the sub-array,
and no block is marked. -/
def Core.fullCycle (k : Core) (s i : Nat) (x : MeMember) : Bool :=
  x.out < opn x.op.op 4 2 && (i < x.format && (x.sub.k == s && (x.sub.n == (if x.sparse then 2 else 1) * s && (k.zeroBits x.op.op x.out).1 == 0)))

/-- The cycles of the next row's period in which some cell performs a blanket operation (R170, R179). -/
def Core.blanketCycles (k : Core) (m : Me) (g : List MeMember) : Nat :=
  let shape := m.active.shape.getD 0
  ((List.range m.period).filter (fun i => !(g.length == shapeN shape && g.all (k.fullCycle (shapeS shape) i)))).length

/-- The next row of each member of the newest group issues (R159): p cycles; it ends a gap (R171). -/
def Dev.issueRow (d : Dev) (core : Nat) : Dev :=
  let k := d.core core
  let m := k.me
  if !m.issuing then d
  else
    let g := (m.groups.getLast?).getD []
    let g' := g.map k.issueOne
    let rows := (g.filter (fun x => x.out < opn x.op.op 4 2)).length
    let b := baseME core
    let d := ((d.count (b + 0x44) rows).count (b + 0x4C) m.period).count (b + 0x50) (k.blanketCycles m g)
    let d := d.count (b + 0x48) ((g.map k.issueOne).foldl (fun a x => a + x.out) 0 - g.foldl (fun a x => a + x.out) 0 - rows)
    d.updMe core (fun m => { m with groups := m.groups.dropLast ++ [g'], gap := 0 })

/-- The weights of channel n in block b as (K position within the sub-array, value) (R155). -/
def SubArr.block (s : SubArr) (sparse : Bool) (n b : Nat) : List (Nat × Num) :=
  let f := (fmtOf s.wfmt).getD .fp16
  let w := nth [] s.w n
  if sparse then
    let p := nth [] s.pos n
    ((List.range 16).map (fun i => 16 * b + i)).filterMap (fun j =>
      if j < w.length then some (4 * (j / 2) + nth 0 p j, f.decodeIn (nth 0 w j)) else none)
  else ((List.range 32).map (fun i => 32 * b + i)).filterMap (fun j => if j < w.length then some (j, f.decodeIn (nth 0 w j)) else none)

/-- An activation value as it enters arithmetic (R132, R143). -/
def actValue (f : Fmt) (zp w : Nat) : Num := if f = .int8 then Num.ofInt (sext 8 w - sext 8 zp) else f.decodeIn w

/-- The accumulator of channel n over the unmarked blocks (R129, R130, R134). -/
def SubArr.dot (s : SubArr) (sparse : Bool) (act : List Num) (marks n : Nat) : Num :=
  let blocks := (List.range (cdiv s.k 32)).filter (fun b => !bit marks b)
  let prods := fun b => (s.block sparse n b).map (fun x => (nth (Num.fin false 0 0) act x.1).mul x.2)
  if s.wfmt = 5 then (Num.sum (blocks.flatMap prods)).intZero
  else accumulate (blocks.map (fun b => (prods b, if s.wfmt = 6 then some (nth 0x80 (nth [] s.ex n) b) else none)))

/-- An output element (R136, R138, R139): encoding and special kind. -/
def outElem (f : Fmt) (zo : Nat) (acc scale tensor : Num) (old : Option Num) : Nat × Nat :=
  let t := scaled acc scale tensor
  f.narrow (sext 8 zo) (match old with | some o => (o.add t).r32 | none => t)

/-- A member's row: (column, encoding, special kind, poison) of each output element, and its fill reads (R136, R158, R176). -/
def Core.mmRow (k : Core) (x : MeMember) : List (Nat × Nat × Nat × Bool) × Nat :=
  let op := x.op.op
  let s := x.sub
  let af := (fmtOf (opf op 2 3 0)).getD .fp16
  let of := (fmtOf (opf op 2 7 4)).getD .fp32
  let r := opn op 20 4 + x.row
  let (marks, bp) := k.zeroBits op x.row
  let cols := (List.range s.k).filter (fun j => !bit marks (j / 32))
  let reads := (List.range s.k).map (fun j => if bit marks (j / 32) then (0, false) else k.elem x.adesc r (32 * opn op 24 2 + j))
  let act := reads.map (fun v => actValue af (opb op 11) v.1)
  let fills := (cols.filter (fun j => !x.adesc.inBounds r (32 * opn op 24 2 + j))).length
  let rowPoison := bp || (s.poison || reads.any (·.2))
  let tensor := Fmt.fp32.decode (opn op 16 4)
  let skipped := k.rowSkipped op s.k x.row
  ((List.range s.n).map (fun n =>
    let col := 32 * opn op 26 2 + n
    let (sc, sp) := nth (0x3F800000, false) x.scales n
    let (ov, opz) := if opt op 1 0 && x.odesc.inBounds r col then k.elem x.odesc r col else (0, false)
    let acc := if skipped then Num.fin false 0 0 else s.dot x.sparse act marks n
    let (w, kind) := outElem of (opb op 15) acc (Fmt.fp32.decode sc) tensor (if opt op 1 0 then some (of.decode ov) else none)
    (col, w, kind, rowPoison || (sp || opz))), fills)

/-- Output elements of one row written through a descriptor (R145, R176, R266, R268): in-bounds elements, the first special one among granules
that are not poisoned, whether any poison was written, the dropped positions. The op's rows row0 to r - 1 stand already. -/
def Dev.putRow (d : Dev) (core eng : Nat) (t : Desc) (o : Owner) (r row0 col0 : Nat) (l : List (Nat × Nat × Nat × Bool)) (report : Bool) :
    Dev × Option (Nat × Nat × Nat) × Bool × Bool :=
  let inn := l.filter (fun e => t.inBounds r e.1)
  let out := l.filter (fun e => !t.inBounds r e.1)
  let d := d.writeElems core (inn.map (fun e => (t.addr r e.1, elemBytes t.fmt e.2.1 e.2.2.2)))
    (t.wrote (row0, r - row0) (col0, l.length) (fun _ _ => true))
  let k := d.core core
  let clean := inn.filter (fun e => !NatSet.has k.poison (t.addr r e.1 / 64))
  let sp := firstSpecial (clean.map (fun e => (r - row0, e.1 - col0, e.2.2.1)))
  let d := d.oobDrop core eng t o out.length (out.head?.map (fun e => (r, e.1))) report
  (d, sp, inn.any (·.2.2.2), !out.isEmpty)

/-- A member's tile completes (R145 to R147, R160, R176): status flags, counts, the op's end. -/
def Dev.mmDone (d : Dev) (core : Nat) (x : MeMember) : Dev :=
  let b := baseME core
  let d := d.count (b + 0x40) 1
  let d := match x.special with
    | some (r, cl, kd) => d.placeSpecial b 0 (b + 0x20) (b + 0x18) x.op.own (specialRec 0 x.tile r cl kd)
    | none => d
  let d := if x.wrotePoison then d.raise b 1 (b + 0x24) else d
  d.opDone core x.op

/-- The next row of a member is written. Poison that it consumed marks its task, whether or not it was written (R290). -/
def Dev.mmWrite (d : Dev) (core : Nat) (x : MeMember) : Dev × MeMember :=
  let op := x.op.op
  let k := d.core core
  let (l, fills) := k.mmRow x
  let d := (d.oobReads core fills).markIf (l.any (·.2.2.2)) x.op.own 0
  let (d, sp, pz, dropped) := d.putRow core 0 x.odesc x.op.own (opn op 20 4 + x.row) (opn op 20 4) (32 * opn op 26 2) l x.dropped.isNone
  (d, { x with row := x.row + 1, special := x.special.orElse (fun _ => sp), wrotePoison := x.wrotePoison || pz
               dropped := if dropped then x.dropped.orElse (fun _ => some (0, 0)) else x.dropped })

/-- Some member of the oldest group has a row to write that has issued or been skipped. -/
def Me.writable (m : Me) : Bool :=
  match m.groups with
  | g :: _ => g.any (fun x => x.row < x.out)
  | [] => false

/-- ME_ROW_WRITE (R160): the next row of each member of the oldest group whose next row has issued; at level 8 rows whose issue no
ME_LEVEL_STEP has shown issue first. Members whose last row it is complete, in sub-array order. DESIGN CHOICE (log 44): members that
accumulate into one output (R142) do so in ascending sub-array order, row by row. -/
def execMeRowWrite (core : Fin 128) (s : State) : Host.Outcome State Fault Refusal :=
  onDev s fun c d =>
    let d := if !(d.me core).writable && ((d.me core).groups.length == 1 && (d.me core).level == 8) then d.issueRow core else d
    match (d.me core).groups with
    | [] => d
    | g :: rest =>
      let (d, xs) := g.foldl (fun (acc : Dev × List MeMember) x =>
        if x.row < x.out then (let (d, x) := acc.1.mmWrite core x; (d, acc.2 ++ [x])) else (acc.1, acc.2 ++ [x])) (d, [])
      let fin := fun (x : MeMember) => opn x.op.op 4 2 ≤ x.row
      let left := xs.filter (fun x => !fin x)
      let d := d.updMe core (fun m => { m with groups := if left.isEmpty then rest else left :: rest })
      ((xs.filter fin).foldl (fun d x => d.mmDone core x) d).meDrain c core 64

/-! ### Issue and level -/

/-- The descriptors of a member, read at its first issue cycle (R258): (activation, output), or the refusal (with a cause other than
poison: logged). -/
def Core.mmDescs (k : Core) (op : Nat) : (Desc × Desc) ⊕ Bool :=
  let x := k.desc (opn op 8 3) [0] [0] false
  let y := k.desc (opn op 12 3) [0] [0] true
  match x, y, x.cause (fun t => t.fmtCode == opf op 2 3 0), y.cause (fun t => t.fmtCode == opf op 2 7 4) with
  | .ok a, .ok o, none, none => .inl (a, o)
  | _, _, p, q => .inr (p = some true || q = some true)

/-- Insertion of members in ascending sub-array order. -/
def insertMember (x : MeMember) : List MeMember → List MeMember
  | [] => [x]
  | y :: r => if opf x.op.op 3 3 0 < opf y.op.op 3 3 0 then x :: y :: r else y :: insertMember x r

/-- Members numbered as tiles in sub-array order (R145, R177). -/
def numberTiles : Nat → List MeMember → List MeMember
  | _, [] => []
  | t, x :: r => { x with tile := t } :: numberTiles (t + 1) r

/-- ME_GROUP_ISSUE (R159, R161): the group at the head of the issue path starts to issue, at level 8 and while the governor permits, once the
group before it has issued whole; members without rows complete at once. A group whose rows are all skipped issues none and ends no gap. -/
def execMeGroupIssue (core : Fin 128) (s : State) : Host.Outcome State Fault Refusal :=
  onDev s fun c d =>
    let d := d.meDrain c core 64
    let m := d.me core
    let k := d.core core
    match headGroup m.queue with
    | none => d
    | some qs =>
      let rows := qs.any (fun q => opn q.op 4 2 ≠ 0)
      if (rows && (m.level ≠ 8 || !d.permits (c.facetOfCore core))) || (m.issuing || qs.any (d.withheld core)) then d
      else match qs.find? (fun q => (k.mmDescs q.op).isRight) with
        | some q =>
          let logged := qs.any (fun q => match k.mmDescs q.op with | .inr l => l | .inl _ => false)
          (d.meRefuseGroup c core qs q 0xA logged).meDrain c core 64
        | none =>
          let mk := fun (q : QOp) => match k.mmDescs q.op with
            | .inl (a, o) =>
              let sub := (m.subOf q.op).getD {}
              k.passSkipped { op := q, sub := sub, sparse := m.active.sparse, adesc := a, odesc := o
                              scales := (List.range sub.n).map (fun i => d.scaleReg (baseMeScale core) m.scalePoison (opf q.op 6 11 0 + i)) }
            | .inr _ => {}
          let xs := qs.map mk
          let work := (xs.filter (fun x => opn x.op.op 4 2 ≠ 0)).foldl (fun l x => insertMember x l) []
          let d := d.meTake core (qs.map (·.id))
          let d := d.updMe core (fun m' => { m' with
            groups := if work.isEmpty then m'.groups else m'.groups ++ [numberTiles m'.tile work]
            tile := m'.tile + work.length, period := groupPeriod m qs })
          let d := (d.count (baseME core + 0x48) (work.foldl (fun a x => a + x.out) 0)).issueRow core
          let d := (qs.filter (fun q => opn q.op 4 2 = 0)).foldl (fun d q => d.opDone core q) d
          d.meDrain c core 64

/-- The level, the cycles held and the gap count of the next core cycle without an issue (R171 to R173). -/
def Me.nextLevel (m : Me) (ready : Bool) : Nat × Nat × Nat :=
  if m.level = 8 then (if ready || m.gap < 64 then (8, m.held, m.gap + 1) else (7, 1, m.gap + 1))
  else if m.held < 16 then (m.level, m.held + 1, m.gap + 1)
  else if ready then (m.level + 1, 1, m.gap + 1)
  else if m.level = 0 then (0, m.held + 1, m.gap + 1)
  else (m.level - 1, 1, m.gap + 1)

/-- The counter of a gap cycle in which no work is ready (R175): offset in the ME block. -/
def gapCounter (m : Me) (portReady permits : Bool) : Nat :=
  if m.issuing then 0x60
  else match m.queue.find? (fun q => !isLoad q) with
    | none => 0x68
    | some q =>
      if isSwap q then 0x5C
      else match headGroup m.queue with
        | none => 0x68
        | some _ => if !portReady then 0x60 else if !permits then 0x64 else 0x68

/-- Work is ready (R173): a row within the tile, the SWAP or the group at the head of the issue path. -/
def Me.ready (m : Me) (portReady permits : Bool) : Bool :=
  if m.issuing then portReady
  else match m.queue.find? (fun q => !isLoad q) with
    | none => false
    | some q => if isSwap q then m.started.isEmpty else (headGroup m.queue).isSome && (portReady && permits)

/-- ME_LEVEL_STEP (R170 to R175): one core cycle of the ME. portReady: the next activation row is in the port. With work ready at level 8,
from this cycle on or before it, the next row of the tile in progress issues (p cycles), or the SWAP takes effect; a group at the head starts at
its own event. Otherwise it is a gap cycle. -/
def execMeLevelStep (core : Fin 128) (portReady : Bool) (s : State) : Host.Outcome State Fault Refusal :=
  onDev s fun c d =>
    let m := d.me core
    let permits := d.permits (c.facetOfCore core)
    let ready := m.ready portReady permits
    let go := fun (d : Dev) => (d.issueRow core).meDrain c core 64
    if m.level = 8 && ready then go d
    else
      let (l, h, g) := m.nextLevel ready
      let d := d.updMe core (fun m => { m with level := l, held := h, gap := g })
      if l = 8 && ready then go d
      else
        let b := baseME core
        let g := if ready then 0x58 else gapCounter m portReady permits
        let d := (d.count (b + g) 1).count (baseXP core + 0x54) (if g = 0x5C then 1 else 0)
        let d := if l = 0 then d else d.count (b + 0x50) 1
        if 0 < l && l < 8 then d.count (b + 0x54) 1 else d

end Sys2Proof.Machine
end

