-- ==== Sys2Proof/Machine/MatrixVector.lean ====
section
/-! DEFINITION. The Matrix-Vector Path (Matrix-Vector Path and Product Tables) and the Expander's events and ops (Delta Compression and the
Expander). -/

namespace Sys2Proof.Machine

def Dev.updMv (d : Dev) (core : Nat) (f : Mv → Mv) : Dev := d.updCore core (fun k => { k with mv := f k.mv })

/-! ### Ends of ops -/

/-- The MVP refuses an op (R196). -/
def Dev.mvRefuse (c : Ctl) (d : Dev) (core : Nat) (q : QOp) (code : Nat) (logged : Bool) : Dev :=
  let b := baseMV core
  let d := ((d.setReg (b + 8) (code * 65536 + q.op % 256)).setReg (b + 0xC) (q.va % 2 ^ 32)).setReg (b + 0x10) (q.va / 2 ^ 32)
  Dev.opRefused c (d.raise b 2 (b + 0x28)) core .mv q code logged

/-- The Expander has stopped the running op (R196, R252): it writes no output, and the cycles that it has taken stay counted. -/
def Dev.mvXpError (c : Ctl) (d : Dev) (core cause : Nat) : Dev :=
  match (d.core core).mv.run with
  | some r => (d.updMv core (fun m => { m with run := none })).mvRefuse c core r.op 7 (cause ≠ 0xA)
  | none => d

/-- MV_SCALES at the head of the queue take effect once no earlier op runs (R193, R195). -/
def Dev.mvDrain (c : Ctl) (core : Nat) : Nat → Dev → Dev
  | 0, d => d
  | n + 1, d =>
    let m := (d.core core).mv
    match m.queue, m.run, m.drain with
    | q :: rest, none, none =>
      if q.op % 256 ≠ 0x21 || d.withheld core q then d
      else
        let d := d.updMv core (fun m => { m with queue := rest })
        match scalesOf (d.core core) q.op with
        | .inl e => (d.mvRefuse c core q (if e = 1 then 1 else 5) true).mvDrain c core n
        | .inr l =>
          let d := ((d.markIf (l.any (·.2.2)) q.own 0).putScales (baseMvScale core) l).updMv core (fun m => { m with scalePoison := scalePoisonAfter m.scalePoison l })
          (d.opDone core q).mvDrain c core n
    | _, _, _ => d

/-- An op enters the MV queue (R193). -/
def mvIssue (core o : Nat) (s : State) : Host.Outcome State Fault Refusal :=
  onDev s fun c d => let (d, ok) := d.issue core o .mv; if ok then d.mvDrain c core 9 else d

/-- MV_MM (R182, R193). -/
def execMvMm (core : Fin 128) (s : State) : Host.Outcome State Fault Refusal := mvIssue core 0x20 s
/-- MV_SCALES (R195). -/
def execMvScales (core : Fin 128) (s : State) : Host.Outcome State Fault Refusal := mvIssue core 0x21 s

/-! ### Lead-in -/

/-- The width of a weight code by its format code: 2, 3 or 4. -/
def codeWidth (wfmt : Nat) : Nat := ((fmtOf wfmt).getD .code4).width
/-- Rows of an MV_MM. -/
def mvRows (op : Nat) : Nat := opf op 3 7 4
/-- Build cycles of a chunk of 64 positions (R184). -/
def mvBuild (op : Nat) : Nat := cdiv (mvRows op * 2 ^ codeWidth (opf op 3 3 0)) 8
/-- Chunks of an MV_MM (R189). -/
def mvChunks (op : Nat) : Nat := cdiv (opn op 4 2) 2
/-- The length of a chunk slot (R189). -/
def mvSlot (op : Nat) : Nat := max (cdiv (opn op 6 2) 8) (mvBuild op)

/-- The field checks of an MV_MM (Table 6.6, Table 6.7): the code of a refusal, 0 for none. -/
def mvFault (op : Nat) : Nat :=
  let lv := opt op 1 1
  if !opClean op [(1, 5, 0), (2, 7, 0), (3, 7, 0), (4, 15, 0), (6, 15, 0), (8, 22, 0), (11, 7, 0), (12, 22, 0), (15, 7, 0), (16, 31, 0), (20, 22, 0),
      (24, 22, 0), (28, 11, 0)] ||
    (opf op 1 3 2 = 3 || (opf op 1 5 4 = 3 || (8 < mvRows op || (!offOk (opn op 8 3) 64 || (!offOk (opn op 12 3) 64 || (!offOk (opn op 20 4) 64 ||
    ((if lv then !offOk (opn op 24 4) 32 else opn op 24 4 ≠ 0) ||
    ((opb op 11 ≠ 0 && opf op 2 3 0 ≠ 5) || (opb op 15 ≠ 0 && opf op 2 7 4 ≠ 5))))))))) then 1
  else if 5 < opf op 2 3 0 || (opf op 3 3 0 < 7 || (9 < opf op 3 3 0 || !([0, 1, 2, 5].contains (opf op 2 7 4)))) then 2
  else if opn op 4 2 < 1 || (2048 < opn op 4 2 || (opn op 6 2 < 1 || (4096 < opn op 6 2 || 16384 < mvRows op * opn op 6 2))) then 3
  else if 2048 < mvChunks op * mvSlot op then 4
  else if 4096 < opn op 28 2 + opn op 6 2 then 5
  else 0

/-- The descriptors of an MV_MM (R194, Table 9.3): activation, output, weights; or BAD_DESC, logged unless poison is the only cause. -/
def Core.mvDescs (k : Core) (op : Nat) : (Desc × Desc × Desc) ⊕ Bool :=
  let src := opf op 1 3 2
  let n := opn op 6 2
  let kk := 32 * opn op 4 2
  let fits := fun (fmt r cl : Nat) (t : Desc) => t.fmtCode == fmt && (t.rows == r && t.cols == cl)
  let x := k.desc (opn op 8 3) [0] [0] false
  let y := k.desc (opn op 12 3) [0] [0] true
  let z := k.desc (opn op 20 4) [src] (if src = 2 then [1] else [0, 1]) false
  let cx := x.cause (fits (opf op 2 3 0) (mvRows op) kk)
  let cy := y.cause (fits (opf op 2 7 4) (mvRows op) n)
  let cz := z.cause (fits (opf op 3 3 0) kk n)
  match x, y, z with
  | .ok a, .ok o, .ok w => if cx.isNone && (cy.isNone && cz.isNone) then .inl (a, o, w) else .inr true
  | _, _, _ => .inr ([cx, cy, cz].contains (some true))

/-- MV_LEAD_IN (R189, R191): the MV_MM at the head of the queue starts, which it may while the op before it drains (R190): checks,
descriptors, scale registers and level set latched. -/
def execMvLeadIn (core : Fin 128) (s : State) : Host.Outcome State Fault Refusal :=
  onDev s fun c d =>
    let k := d.core core
    match k.mv.queue, k.mv.run with
    | q :: rest, none =>
      let op := q.op
      if op % 256 ≠ 0x20 || (!d.permits (c.facetOfCore core) || d.withheld core q) then d
      else
        let d := d.updMv core (fun m => { m with queue := rest })
        if mvFault op ≠ 0 then (d.mvRefuse c core q (mvFault op) true).mvDrain c core 9
        else match k.mvDescs op with
          | .inr l => (d.mvRefuse c core q 6 l).mvDrain c core 9
          | .inl (a, o, w) =>
            if mvRows op = 0 then (d.opDone core q).mvDrain c core 9
            else
              let n := 2 ^ codeWidth (opf op 3 3 0)
              let lv := if opt op 1 1 then (List.range n).map (fun i => k.word (opn op 24 4 + 2 * i) 2) else []
              let run : MvRun := {
                op := q, adesc := a, odesc := o, wdesc := w, levels := lv.map (·.1)
                levelPoison := opt op 1 1 && anyPoison (k.csRead (opn op 24 4) 32)
                scales := (List.range (opn op 6 2)).map (fun i => d.scaleReg (baseMvScale core) k.mv.scalePoison (opn op 28 2 + i))
                acc := List.replicate (mvRows op) (List.replicate (opn op 6 2) (.fin false 0 0, false)) }
              let d := d.updMv core (fun m => { m with run := some run })
              if w.coding = 1 then
                d.setSess core .mv (some { op := q, desc := w, hint := opf op 1 5 4, todo := w.blocksOf 0 (32 * opn op 4 2) 0 (opn op 6 2) })
              else d
    | _, _ => d

/-! ### Lookups -/

/-- The level of a code (R127). -/
def mvLevel (r : MvRun) (code : Nat) : Num :=
  let op := r.op.op
  if opt op 1 1 then Fmt.fp16.decodeIn (nth 0 r.levels code) else Num.ofInt (sext (codeWidth (opf op 3 3 0)) code)

/-- A product-table entry (R135, R148). -/
def mvEntry (r : MvRun) (act code : Nat) : Num :=
  let op := r.op.op
  ((actValue ((fmtOf (opf op 2 3 0)).getD .fp32) (opb op 11) act).mul (mvLevel r code)).r16

/-- The codes and exponents of channel n in a chunk: by block of 32, with the poison of the channel's granules. -/
abbrev MvCodes := List (List Nat × Nat) × Bool

/-- The bytes of a plain weight tensor in device memory, by 64 B granule (R187). -/
def granuleWord (ps : List (Nat × List PByte)) (a n : Nat) : Nat × Bool :=
  let b := (List.range n).map (fun i => match ps.find? (fun p => p.1 == (a + i) / 64) with
    | some p => nth (0, false) p.2 ((a + i) % 64)
    | none => ((0 : Byte), false))
  (leNat (plain b), anyPoison b)

/-- The blocks of 32 positions of chunk j (R184). -/
def mvBlocks (op j : Nat) : List Nat := (List.range (min 2 (opn op 4 2 - 2 * j))).map (2 * j + ·)

/-- The codes of a channel, read through `blk` (the code string and the exponent byte of block b). -/
def channelCodes (w : Nat) (bs : List Nat) (blk : Nat → (Nat × Bool) × (Nat × Bool)) : MvCodes :=
  let l := bs.map blk
  (l.map (fun x => ((List.range 32).map (fun i => x.1.1 / 2 ^ (w * i) % 2 ^ w), x.2.1)), l.any (fun x => x.1.2 || x.2.2))

/-- The blocks of a coded tensor that chunk j needs have been delivered (R249). -/
def XpSess.hasChunk (s : XpSess) (op j : Nat) : Bool :=
  let left := s.todo ++ s.ahead.map (·.num)
  s.hdr.isSome && !((s.desc.blocksOf (64 * j) (min 64 (32 * opn op 4 2 - 64 * j)) 0 (opn op 6 2)).any left.contains)

/-- The codes of every channel for chunk j, where they have all come: from the session of a coded tensor, from Core Store, or from device
memory (none while a read waits). -/
def Dev.mvCodes (c : Ctl) (d : Dev) (core : Nat) (r : MvRun) (j : Nat) : Dev × Option (List MvCodes) :=
  let op := r.op.op
  let t := r.wdesc
  let w := t.fmt.width
  let bs := mvBlocks op j
  let chans := List.range (opn op 6 2)
  if t.coding = 1 then
    match (d.core core).xp.mv with
    | none => (d, none)
    | some s =>
      if !s.hasChunk op j then (d, none)
      else (d, some (chans.map (fun n => channelCodes w bs (fun b => (s.at (t.streamPos (32 * b) n) t.fmt.colBytes, s.exp (32 * b) n)))))
  else if t.space = 0 then
    let k := d.core core
    (d, some (chans.map (fun n => channelCodes w bs (fun b =>
      (k.word (t.blockAddr (32 * b) n) t.fmt.colBytes, k.word (t.blockAddr (32 * b) n + t.fmt.colBytes) 1)))))
  else
    let grans := (chans.flatMap (fun n => bs.flatMap (fun b => granules (t.blockAddr (32 * b) n) (t.fmt.colBytes + 1)))).foldl NatSet.ins []
    match d.resolveSpans c core 3 r.op.as false (grans.map (fun g => (g, 64))) with
    | (d, none) => (d, none)
    | (d, some ps) => match d.fetchPieces c (whoCore core 4 (c.facetOfCore core)) core 3 r.op.as (some r.op.own) (opf op 1 5 4) ps with
      | (d, none) => (d, none)
      | (d, some bytes) =>
        let tab := (List.range grans.length).map (fun i => (nth 0 grans i / 64, (bytes.drop (64 * i)).take 64))
        (d.doneOutside core 3, some (chans.map (fun n => channelCodes w bs (fun b =>
          (granuleWord tab (t.blockAddr (32 * b) n) t.fmt.colBytes, granuleWord tab (t.blockAddr (32 * b) n + t.fmt.colBytes) 1)))))

/-- The accumulator of a row and channel after a chunk (R130, R186, R197): its block sums in ascending K. acts: the chunk's activations of
the row. -/
def mvAcc (r : MvRun) (acts : List (Nat × Bool)) (cs : MvCodes) (a : Num × Bool) : Num × Bool :=
  ((List.range cs.1.length).foldl (fun a j =>
    let (codes, e) := nth ([], 0x80) cs.1 j
    accStep a (blockTerm ((((acts.drop (32 * j)).take 32).zip codes).map (fun x => mvEntry r x.1.1 x.2)) (some e))) a.1,
   a.2 || (acts.any (·.2) || cs.2))

/-- A chunk is looked up (R185, R186): its codes select entries from the tables of every row; its bank is free again. -/
def MvRun.lookUp (r : MvRun) (chunk : List (List (Nat × Bool))) (rest : List (List (List (Nat × Bool)))) (codes : List MvCodes) : MvRun :=
  { r with
    banks := rest, looked := r.looked + 1
    acc := (List.range r.acc.length).map (fun b =>
      let acts := nth [] chunk b
      let row := nth [] r.acc b
      (List.range row.length).map (fun n => mvAcc r acts (nth ([], false) codes n) (nth (.fin false 0 0, false) row n))) }

/-- Lookups run as far as tables and codes allow (R184, R189): each chunk's lookup cycles are counted, and those lost to the build that made
its slot longer. With the last chunk looked up, and a coded stream delivered whole, the op drains and the next may start (R190). -/
def Dev.mvLook (c : Ctl) (core : Nat) : Nat → Dev → Dev
  | 0, d => d
  | n + 1, d =>
    match (d.core core).mv.run with
    | none => d
    | some r =>
      let op := r.op.op
      match r.banks with
      | [] =>
        let all := r.wdesc.coding ≠ 1 || (((d.core core).xp.mv).map (·.finished)).getD false
        if r.looked < mvChunks op || (!all || (d.core core).mv.drain.isSome) then d
        else
          let d := d.updMv core (fun m => { m with run := none, drain := some r })
          if r.wdesc.coding = 1 then d.setSess core .mv none
          else d.count (baseXP core + 0x48) (cdiv (opn op 4 2 * opn op 6 2 * r.wdesc.fmt.colBytes) 256)
      | chunk :: rest => match d.mvCodes c core r r.looked with
        | (d, none) => d
        | (d, some codes) =>
          let look := cdiv (opn op 6 2) 8
          let b := baseMV core
          let d := (d.count (b + 0x44) look).count (b + 0x60) ((mvBlocks op r.looked).length * opn op 6 2)
          let d := d.count (b + 0x4C) (if r.looked = 0 then 0 else mvSlot op - look)
          (d.updMv core (fun m => { m with run := some (r.lookUp chunk rest codes) })).mvLook c core n

/-- MV_CHUNK_BUILD_DONE (R184, R191): the activations of the next chunk are read and its tables are built, in the bank that the lookups of the
chunk before the last have left. -/
def execMvChunkBuildDone (core : Fin 128) (s : State) : Host.Outcome State Fault Refusal :=
  onDev s fun c d =>
    let d := d.mvLook c core 3
    let k := d.core core
    match k.mv.run with
    | none => d
    | some r =>
      let op := r.op.op
      let j := r.built
      if mvChunks op ≤ j || 2 ≤ r.banks.length then d
      else
        let n := min 64 (32 * opn op 4 2 - 64 * j)
        let rows := (List.range (mvRows op)).map (fun b => (List.range n).map (fun i => k.elem r.adesc b (64 * j + i)))
        let d := d.count (baseMV core + 0x48) (if n = 64 then mvBuild op else cdiv (mvRows op * 2 ^ codeWidth (opf op 3 3 0)) 16)
        (d.updMv core (fun m => { m with run := some { r with built := j + 1, banks := r.banks ++ [rows] } })).mvLook c core 3

/-! ### Completion -/

/-- The output element (b, n) of an op (R182, R197): encoding, special kind, poison. -/
def mvOut (r : MvRun) (b n : Nat) (old : Nat × Bool) : Nat × Nat × Bool :=
  let op := r.op.op
  let f := (fmtOf (opf op 2 7 4)).getD .fp32
  let (sc, sp) := nth (0x3F800000, false) r.scales n
  let (a, ap) := nth (.fin false 0 0, false) (nth [] r.acc b) n
  let (w, k) := outElem f (opb op 15) a (Fmt.fp32.decode sc) (Fmt.fp32.decode (opn op 16 4)) (if opt op 1 0 then some (f.decode old.1) else none)
  (w, k, ap || (r.levelPoison || (sp || old.2)))

/-- The gap and idle cycles of the MVP (R192); a cycle of MV_GAP_SOURCE counts as lag of the Expander once, though the ME may count it too
(R251). -/
def Dev.mvGaps (d : Dev) (core : Nat) (g : Gaps) : Dev :=
  let b := baseMV core
  let d := ((d.count (b + 0x50) g.xp).count (b + 0x54) g.port).count (b + 0x58) g.governor
  (d.count (b + 0x5C) g.idle).count (baseXP core + 0x54) (g.xp - g.both)

/-- MV_OP_COMPLETE (R190, R197, R198): once every chunk has been looked up, the outputs are written. -/
def execMvOpComplete (core : Fin 128) (gaps : Gaps) (s : State) : Host.Outcome State Fault Refusal :=
  onDev s fun c d =>
    let d := d.mvLook c core 3
    match (d.core core).mv.drain with
    | none => d
    | some r =>
      let op := r.op.op
      let n := opn op 6 2
      let b := baseMV core
      let k := d.core core
      let rows := (List.range (mvRows op)).map (fun i => (List.range n).map (fun j =>
        (j, mvOut r i j (if opt op 1 0 then k.elem r.odesc i j else (0, false)))))
      let (d, sp, pz) := ((List.range (mvRows op)).zip rows).foldl
        (fun (acc : Dev × Option (Nat × Nat × Nat) × Bool) x =>
          let (d, s, p, _) := acc.1.putRow core 1 r.odesc r.op.own x.1 0 0 x.2 true
          (d, acc.2.1.orElse (fun _ => s), acc.2.2 || p)) (d, none, false)
      let d := match sp with
        | some (rr, cl, kd) => d.placeSpecial b 0 (b + 0x20) (b + 0x18) r.op.own (specialRec 1 (d.core core).mv.tile rr cl kd)
        | none => d
      let d := (if pz then d.raise b 1 (b + 0x24) else d).markIf (rows.any (fun l => l.any (·.2.2.2))) r.op.own 0
      let d := ((d.count (b + 0x40) 1).mvGaps core gaps).updMv core (fun m => { m with drain := none, tile := m.tile + 1 })
      ((d.opDone core r.op).mvLook c core 3).mvDrain c core 9

/-! ### Events of the Expander -/

/-- The Expander stops a client's op: the client's engine refuses it (R252). -/
def Dev.xpFail (c : Ctl) (d : Dev) (core : Nat) (x : XpClient) (cause addr block : Nat) : Dev :=
  let d := d.xpStop c core x cause addr block
  match x with
  | .me => (d.meXpError c core cause).meDrain c core 64
  | .mv => (d.mvXpError c core cause).mvDrain c core 9

/-- XP_HEADER_READ (R243, R244, R249). -/
def execXpHeaderRead (core : Fin 128) (ask : XpAsk) (s : State) : Host.Outcome State Fault Refusal :=
  onDev s fun c d =>
    match (d.mvGaps core ask.gaps).xpHeaderStep c core ask.client with
    | (d, .stop cs a b) => (d.xpFail c core ask.client cs a b).xpReady core
    | (d, _) => d.xpReady core

/-- XP_BLOCK_DECODED (R249 to R251, R253): the block that the Expander decodes, for the client whose it is. gaps: the MVP's gap cycles since
they were last counted. -/
def execXpBlockDecoded (core : Fin 128) (client : XpClient) (gaps : Gaps) (s : State) : Host.Outcome State Fault Refusal :=
  onDev s fun c d =>
    let me := decide (client = .me)
    if (d.core core).xp.cur ≠ some me then d
    else match (d.mvGaps core gaps).xpDecodeStep core client with
      | (d, .stop cs a b) => (d.xpFail c core client cs a b).xpTurn core (some me)
      | (d, _) => (d.xpTurn core (some me)).mvLook c core 3

/-! ### Ops of the Expander -/

/-- An XP op is refused (R252, R245): SLOT_BUSY is logged with the slot image's control window address, any other with the op's. -/
def Dev.xpRefuse (c : Ctl) (d : Dev) (core : Nat) (q : QOp) (cause : Nat) (v : Option Violation) (logged : Bool) : Dev :=
  let d := d.xpCause core 2 (q.op % 256) cause q.va 0
  let d := if cause = 9 then d.raise (baseXP core) 2 (baseXP core + 0x28) else d
  match v with
  | some v => Dev.opRefused c (d.violate v) core .xp q cause false
  | none => Dev.opRefused c d core .xp q cause logged

/-- The violation of SLOT_BUSY (R245). -/
def slotBusy (c : Ctl) (core s : Nat) : Violation :=
  { opViolation c core 4 4 9 (baseXP core + 0x1000 + 256 * s) 0 with addrKind := 0 }

/-- The Expander of a core owns an object that a slot comes to mirror (R363). -/
def Dev.mirrorTag (d : Dev) (mirror : Bool) (core o : Nat) : Dev :=
  if mirror then { d with sync := Sparse.upd {} d.sync o (fun x => { x with owner := some core, mirror := true }) } else d

/-- A slot no longer mirrors its object (R363): the Expander's ownership ends, unless another of its slots mirrors the same object. -/
def Dev.unmirror (d : Dev) (core s : Nat) : Dev :=
  let x := (d.core core).slot s
  let other := (List.range 16).any (fun i => i ≠ s && (let y := (d.core core).slot i; y.mirror && y.refSync == x.refSync))
  if x.mirror && !other then
    { d with sync := Sparse.upd {} d.sync x.refSync (fun y =>
        if y.owner == some core && y.mirror then { y with owner := none, mirror := false } else y) }
  else d

/-- XP_TLOAD takes effect (R240, R243, R245, R256). -/
def Dev.xpTload (c : Ctl) (d : Dev) (core : Nat) (q : QOp) : Dev :=
  let op := q.op
  let s := opf op 1 3 0
  let mirror := opt op 1 4
  let off := opn op 4 4
  let o := opn op 8 4
  if !opClean op [(1, 4, 0), (4, 22, 0), (8, 16, 0)] || (!offOk off 256 || (!mirror && o ≠ 0)) then d.xpRefuse c core q 1 none true
  else if mirror && c.syncFacet o ≠ c.coreFacet core then d.xpRefuse c core q 1 (some (syncViolation c core 4 1 o)) true
  else if ((d.core core).slot s).refs ≠ 0 then d.xpRefuse c core q 9 (some (slotBusy c core s)) true
  else
    let b := (d.core core).csRead off 256
    if anyPoison b then d.xpRefuse c core q 8 none (!tableOk (plain b))
    else if !tableOk (plain b) then d.xpRefuse c core q 8 none true
    else
      let d := (d.unmirror core s).mirrorTag mirror core o
      let d := d.updSlot core s (fun _ => { image := plain b, version := le (plain b) 4 2, valid := true, mirror := mirror, refSync := o })
      ((d.mirrorSlot core s).count (baseXP core + 0x5C) 1).opDone core q

/-- XP_TFREE takes effect (R245, R256). -/
def Dev.xpTfree (c : Ctl) (d : Dev) (core : Nat) (q : QOp) : Dev :=
  let s := opf q.op 1 3 0
  if !opClean q.op [(1, 3, 0)] then d.xpRefuse c core q 1 none true
  else if ((d.core core).slot s).refs ≠ 0 then d.xpRefuse c core q 9 (some (slotBusy c core s)) true
  else ((d.unmirror core s).updSlot core s (fun _ => {})).opDone core q

/-- An XP op enters the queue and, no op being ahead of it there, takes effect (R246, R256). -/
def xpIssue (core o : Nat) (k : Ctl → Dev → Nat → QOp → Dev) (s : State) : Host.Outcome State Fault Refusal :=
  onDev s fun c d =>
    let (d, ok) := d.issue core o .xp
    if ok then
      match (d.core core).xp.queue with
      | q :: _ => k c (d.popOp core .xp) core q
      | [] => d
    else d

/-- XP_TLOAD (R256). -/
def execXpTload (core : Fin 128) (s : State) : Host.Outcome State Fault Refusal := xpIssue core 0x40 Dev.xpTload s
/-- XP_TFREE (R245). -/
def execXpTfree (core : Fin 128) (s : State) : Host.Outcome State Fault Refusal := xpIssue core 0x41 Dev.xpTfree s

end Sys2Proof.Machine
end

