-- ==== Sys2Proof/Machine/VectorEngine.lean ====
section
/-! DEFINITION. The Vector Engine (Vector Engine and Fused Chains): tile registers, chains and their checks, tensor passes, loads and stores,
the evaluation of delivery passes. The op at the head of the VE queue runs at VE_OP_COMPLETE. -/

namespace Sys2Proof.Machine

def Dev.updVe (d : Dev) (core : Nat) (f : Ve → Ve) : Dev := d.updCore core (fun k => { k with ve := f k.ve })

/-! ### Registers and views -/

/-- The bits of a view within a register word (Table 7.1): shift and width. -/
def viewBits (v : Nat) : Nat × Nat := if v = 0 then (0, 32) else if v = 1 then (0, 16) else if v = 2 then (16, 16) else (8 * (v - 3), 8)

/-- The formats a view takes. -/
def viewTakes (v : Nat) (f : Nat) : Bool := if v = 0 then f == 0 else if v ≤ 2 then f == 1 || f == 2 else v ≤ 6 && (3 ≤ f && f ≤ 5)

/-- Element (x, y) of a register in a view, with the poison of its row. -/
def Ve.get (v : Ve) (reg x y view : Nat) : Nat × Bool :=
  let (s, w) := viewBits view
  (Sparse.get 0 v.regs (1024 * reg + 32 * x + y) / 2 ^ s % 2 ^ w, NatSet.has v.regPoison (32 * reg + x))

/-- Element (x, y) written through a view (R202, R204): poison sets the row's bit and nothing here clears it. -/
def Ve.put (v : Ve) (reg x y view w : Nat) (p : Bool) : Ve :=
  let (s, n) := viewBits view
  { v with
    regs := Sparse.upd 0 v.regs (1024 * reg + 32 * x + y) (fun o => setBits o (s + n - 1) s w)
    regPoison := if p then NatSet.ins v.regPoison (32 * reg + x) else v.regPoison }

/-! ### Chains -/

/-- A stage entry (Table 7.3). -/
structure Stage where
  kind : Nat := 0
  op : Nat := 0
  src : List Nat := []
  dst : Option Nat := none
  view : Nat := 0
  map : Nat := 0
  fmt : Nat := 0
  p0 : Nat := 0
  deriving DecidableEq, Repr

/-- A chain descriptor (Table 7.2). -/
structure Chain where
  stages : List Stage := []
  inFmt : Nat := 0
  outFmt : Nat := 0
  sideFmt : Nat := 0
  ks : List Nat := []
  deriving DecidableEq, Repr

/-- Operands, cost and the p0 bits in use of an op (Table 7.5, Table 7.3); none for a reserved one. -/
def stageOp (kind op : Nat) : Option (Nat × Nat × Nat) :=
  match kind with
  | 1 => if op ≤ 2 || op = 5 || op = 6 then some (2, 1, 0) else if op ≤ 4 then some (3, 1, 0) else if op ≤ 9 then some (1, 1, 0) else none
  | 2 => if op ≤ 5 then some (2, 1, 0) else if op = 8 then some (3, 1, 0) else none
  | 3 => if op ≤ 8 then some (1, 2, 0) else none
  | 4 => if op ≤ 3 then some (1, 1, if op = 0 then 0xF else 0) else none
  | 5 => if op ≤ 2 then some (1, 1, if op = 0 then 0 else 0x1F) else none
  | 6 => if op ≤ 2 then some (1, 1, 7) else if op = 3 then some (1, 2, 0xF07) else none
  | _ => none

def Stage.arity (s : Stage) : Nat := ((stageOp s.kind s.op).map (·.1)).getD 0
def Stage.cost (s : Stage) : Nat := ((stageOp s.kind s.op).map (·.2.1)).getD 0
/-- The operand selectors in use. -/
def Stage.used (s : Stage) : List Nat := s.src.take s.arity
def Stage.isRed (s : Stage) : Bool := s.kind = 6
def Stage.isTopk (s : Stage) : Bool := s.kind = 6 && s.op = 3
/-- The stage reads a register, or writes one other than as a reduction. -/
def Stage.usesReg (s : Stage) : Bool := s.used.any (0x80 ≤ ·) || (s.dst.isSome && !s.isRed)

/-- The stage entry at index j of a chain descriptor's bytes. -/
def parseStage (b : List Byte) (j : Nat) : Stage :=
  let o := 0x40 + 24 * j
  let g := fun i => byteAt b (o + i)
  { kind := g 0, op := g 1, src := [g 2, g 3, g 4], dst := if bit (g 5) 7 then some (g 5 % 32) else none
    view := g 6 % 8, map := bits (g 6) 4 3, fmt := g 7 % 16, p0 := le b (o + 8) 4 }

/-- The chain of a descriptor's bytes. -/
def parseChain (b : List Byte) : Chain where
  stages := (List.range (min 8 (byteAt b 0))).map (parseStage b)
  inFmt := byteAt b 2 % 16
  outFmt := byteAt b 2 / 16
  sideFmt := byteAt b 3 % 16
  ks := (List.range 8).map (fun q => le b (0x20 + 4 * q) 4)

/-- The reserved bits of a stage entry are clear. -/
def stageClean (b : List Byte) (j : Nat) : Bool :=
  let o := 0x40 + 24 * j
  bits (byteAt b (o + 5)) 6 5 == 0 && (byteAt b (o + 6) < 32 && (byteAt b (o + 7) < 16 && (le b (o + 12) 4 == 0 && le b (o + 16) 8 == 0)))

/-- A format that VE streams and views take (R121, R208). -/
def veFmt (f : Nat) : Bool := f ≤ 5

/-- What stage j breaks (R209, Table 7.4, Table 7.5, R212, R214, R216): BAD_CHAIN 4, BAD_FORMAT 2, none 0. -/
def stageFault (s : Stage) (j : Nat) : Nat :=
  match stageOp s.kind s.op with
  | none => 4
  | some (n, _, mask) =>
    let selOk := fun (x : Nat) => (x = 1 && 0 < j) || (2 ≤ x && x ≤ 0x11) || (0x80 ≤ x && x ≤ 0x9F)
    let a := nth 0 s.src 0
    if !veFmt s.fmt then 2
    else if (s.p0 &&& mask) ≠ s.p0 || (s.view = 7 || s.map = 3) then 4
    else if !(s.used.all selOk) || (s.src.drop n).any (· ≠ 0) then 4
    else if s.kind = 5 && !(a = 2 || (a = 3 || 0x80 ≤ a)) then 4
    else if s.isRed && (s.dst.isNone || (s.view ≠ 0 || (s.fmt ≠ 0 || 1 < s.p0 % 4))) then 4
    else if s.isTopk && (s.p0 % 4 ≠ 0 || (bits s.p0 11 8 < 1 || 8 < bits s.p0 11 8)) then 4
    else if (s.usesReg || s.isRed) && !viewTakes s.view s.fmt then 2
    else if s.kind = 4 && s.op = 0 && !veFmt (s.p0 % 16) then 2
    else 0

/-- A register that a reduction writes is named by another stage (R216). -/
def redShared (l : List Stage) : Bool :=
  (List.range l.length).any (fun j =>
    let s := nth ({} : Stage) l j
    s.isRed && (List.range l.length).any (fun i =>
      let t := nth ({} : Stage) l i
      i ≠ j && (t.dst == s.dst || t.used.contains (0x80 + s.dst.getD 0))))

/-- The first nonzero code of a list. -/
def firstCode (l : List Nat) : Nat := (l.find? (· ≠ 0)).getD 0

/-- What a chain descriptor breaks (R208, R209, R216): a refusal code, 0 for none. A missing chain is BAD_CHAIN. -/
def chainFault (b : List Byte) : Nat :=
  let n := byteAt b 0
  let ch := parseChain b
  if n < 1 || (8 < n || (byteAt b 1 ≠ 0 || (15 < byteAt b 3 || (le b 4 28 ≠ 0 || le b (0x40 + 24 * n) (192 - 24 * n) ≠ 0)))) then 4
  else if !(veFmt ch.inFmt && (veFmt ch.outFmt && veFmt ch.sideFmt)) then 2
  else if !((List.range n).all (stageClean b)) then 4
  else
    let e := firstCode ((List.range n).map (fun j => stageFault (nth ({} : Stage) ch.stages j) j))
    if e ≠ 0 then e else if redShared ch.stages then 4 else 0

/-- The sum of the stage costs (R220). -/
def Chain.cost (ch : Chain) : Nat := (ch.stages.map (·.cost)).foldl (· + ·) 0
/-- The chain names an operand. -/
def Chain.names (ch : Chain) (p : Nat → Bool) : Bool := ch.stages.any (fun s => s.used.any p)

/-- The chain may run as a delivery pass (R225): no register, SIDE, RED or PERM. -/
def Chain.delivers (ch : Chain) : Bool :=
  !(ch.names (fun x => x = 3 || 0x80 ≤ x)) && ch.stages.all (fun s => s.dst.isNone && (s.kind ≠ 5 && s.kind ≠ 6))

/-- The result of a stage that is neither PERM nor RED. -/
def Stage.compute (s : Stage) (l : List Nat) : Nat :=
  match s.kind with
  | 1 => arith32 s.op l
  | 2 => cmp32 s.op l
  | 3 => lut32 s.op (nth 0 l 0)
  | 4 => cvt32 s.op s.p0 (nth 0 l 0)
  | _ => nth 0 l 0

/-- The stage narrows a NaN to INT8 (Table 7.5, R139): the output tile is SPECIAL for it (R145). -/
def Stage.quantNan (s : Stage) (l : List Nat) : Bool :=
  s.kind = 4 && (s.op = 0 && (fmtOf (s.p0 % 16) == some .int8 && f32 (nth 0 l 0) == .nan))

/-! ### Delivery passes -/

/-- The chain on one element of a record (R205, R223, R224): its result, and whether a stage narrowed a NaN to INT8. `src` gives the operands
but PREV. -/
def Chain.run (ch : Chain) (src : Nat → Nat) : Nat × Bool :=
  ch.stages.foldl (fun x s =>
    let l := s.used.map (fun o => if o = 1 then x.1 else src o)
    (s.compute l, x.2 || s.quantNan l)) (0, false)

/-- The chain's result on one element of a record. -/
def Chain.deliver (ch : Chain) (src : Nat → Nat) : Nat := (ch.run src).1

/-- The operands of a delivery pass (Table 7.4) for element i: IN, ACC, the record's count, weight sum, FIRST. -/
def Chain.source (ch : Chain) (inp acc count wsum : Nat) (first : Bool) (i sel : Nat) : Nat :=
  match sel with
  | 2 => inp
  | 4 => if count = 2 ^ 32 - 1 then to32 (Num.ofInt (2 ^ 32)) else to32 (Num.ofInt count)
  | 5 => wsum
  | 6 => if first then one32 else 0
  | 7 => acc
  | 0x10 => 0
  | 0x11 => to32 (Num.ofInt i)
  | x => if 8 ≤ x && x ≤ 0xF then nth 0 ch.ks (x - 8) else 0

/-- What a delivery chain's bytes are: missing (R102), invalid (with whether the invalidity is a violation, R225), or a chain. -/
inductive ChainUse where
  | missing
  | bad (logged : Bool)
  | ok (ch : Chain)
  deriving DecidableEq, Repr

/-- R225: a chain read poisoned is invalid whatever it holds, and a violation only if it fails a check too. -/
def chainUse (b : List Byte) (poison : Bool) : ChainUse :=
  let faulty := chainFault b ≠ 0 || !(parseChain b).delivers
  if poison then .bad faulty
  else if b.all (· == 0) then .missing
  else if faulty then .bad true
  else .ok (parseChain b)

/-- An invalid delivery chain (R225). -/
def Dev.chainBad (c : Ctl) (d : Dev) (core off : Nat) (logged : Bool) : Dev :=
  let b := baseVE core
  let d := (d.setReg (b + 0x14) off).raise b 3 (b + 0x2C)
  if logged then d.violate { opViolation c core 3 3 4 off 0 with addrKind := 3 } else d

/-! ### Tensor passes -/

/-- What a tensor pass carries from stage to stage and from element to element. reds: (stage, value, poison) of this element;
quant: a stage has narrowed a NaN to INT8. -/
structure PassAcc where
  ve : Ve := {}
  prev : Nat := 0
  pp : Bool := false
  reds : List (Nat × Nat × Bool) := []
  used : Bool := false
  quant : Bool := false
  deriving DecidableEq, Repr

/-- What an element of a tile reads (Table 7.4, R212): the tile of IN and of SIDE, its place. -/
structure PassEnv where
  ch : Chain := {}
  tr : Nat := 0
  tc : Nat := 0
  rowSlot : Nat := 0
  colSlot : Nat := 0
  ins : List (List (Nat × Bool)) := []
  sides : List (List (Nat × Bool)) := []
  deriving DecidableEq, Repr

/-- A cell of a tile; +0 beyond the extents. -/
def tileCell (t : List (List (Nat × Bool))) (r c : Nat) : Nat × Bool := nth (0, false) (nth [] t r) c

/-- The register element that a stage addresses for element (r, c) (R210). -/
def PassEnv.regAt (e : PassEnv) (s : Stage) (r c : Nat) : Nat × Nat :=
  match s.map with
  | 1 => ((e.colSlot + e.tc) % 32, c)
  | 2 => (r, (e.rowSlot + e.tr) % 32)
  | _ => (r, c)

/-- A register element widened (R203). -/
def regValue (v : Ve) (s : Stage) (reg x y : Nat) : Nat × Bool :=
  let (w, p) := v.get reg x y s.view
  (widen32 ((fmtOf s.fmt).getD .fp32) w, p)

/-- An operand of a stage. -/
def PassEnv.operand (e : PassEnv) (a : PassAcc) (s : Stage) (r c sel : Nat) : Nat × Bool :=
  if sel = 1 then (a.prev, a.pp)
  else if sel = 2 then tileCell e.ins r c
  else if sel = 3 then tileCell e.sides r c
  else if 8 ≤ sel && sel ≤ 0xF then (nth 0 e.ch.ks (sel - 8), false)
  else if sel = 0x10 then (to32 (Num.ofInt (32 * e.tr + r : Nat)), false)
  else if sel = 0x11 then (to32 (Num.ofInt (32 * e.tc + c : Nat)), false)
  else if 0x80 ≤ sel then (let (x, y) := e.regAt s r c; regValue a.ve s (sel - 0x80) x y)
  else (0, false)

/-- A PERM stage (R212): the operand's tile is read whole. -/
def PassEnv.perm (e : PassEnv) (a : PassAcc) (s : Stage) (r c : Nat) : Nat × Bool :=
  let q := s.p0 % 32
  let (x, y) := match s.op with
    | 0 => (c, r)
    | 1 => (r, q)
    | _ => (q, c)
  match nth 0 s.src 0 with
  | 2 => tileCell e.ins x y
  | 3 => tileCell e.sides x y
  | sel => regValue a.ve s (sel - 0x80) x y

/-- Stage j on element (r, c) (R205, R207, R227). -/
def PassEnv.stage (e : PassEnv) (r c : Nat) (a : PassAcc) (j : Nat × Stage) : PassAcc :=
  let s := j.2
  let (v, p, z) :=
    if s.kind = 5 then (let x := e.perm a s r c; (x.1, x.2, false))
    else
      let l := s.used.map (e.operand a s r c)
      (s.compute (l.map (·.1)), l.any (·.2), s.quantNan (l.map (·.1)))
  let a := { a with prev := v, pp := p, used := a.used || p, quant := a.quant || z }
  if s.isRed then { a with reds := a.reds ++ [(j.1, v, p)] }
  else match s.dst with
    | none => a
    | some t =>
      let (x, y) := e.regAt s r c
      { a with ve := a.ve.put t x y s.view (narrow32 ((fmtOf s.fmt).getD .fp32) v).1 p }

/-- Every element of a tile of mm rows and nn columns, in row-major order: results as (row, column, value, poison, a NaN narrowed to INT8), the operands of the
reductions as (stage, row, column, value, poison). -/
def PassEnv.elements (e : PassEnv) (v : Ve) (mm nn : Nat) :
    Ve × List (Nat × Nat × Nat × Bool × Bool) × List (Nat × Nat × Nat × Nat × Bool) × Bool :=
  let stages := (List.range e.ch.stages.length).zip e.ch.stages
  ((List.range mm).flatMap (fun r => (List.range nn).map (fun c => (r, c)))).foldl
    (fun (acc : Ve × List (Nat × Nat × Nat × Bool × Bool) × List (Nat × Nat × Nat × Nat × Bool) × Bool) rc =>
      let a := stages.foldl (e.stage rc.1 rc.2) { ve := acc.1 }
      (a.ve, acc.2.1 ++ [(rc.1, rc.2, a.prev, a.pp, a.quant)], acc.2.2.1 ++ a.reds.map (fun x => (x.1, rc.1, rc.2, x.2.1, x.2.2)), acc.2.2.2 || a.used))
    (v, [], [], false)

/-- A SUM, MAX or MIN of the operands of one row or column of a tile onto a register word (R214). -/
def reduce32 (op old : Nat) (l : List Nat) : Nat :=
  match op with
  | 0 => to32 ((Num.sum (l.map f32)).add (f32 old))
  | 1 => to32 ((l.map f32).foldl Num.max2 (f32 old))
  | _ => to32 ((l.map f32).foldl Num.min2 (f32 old))

/-- The identity of a reduction. -/
def redIdentity (op : Nat) : Nat := if op = 0 then 0 else if op = 1 then negInf32 else posInf32

/-- An entry (value, index) ranks above another (R215). An empty slot is none. -/
def ranksAbove (a b : Option (Nat × Nat)) : Bool :=
  match a, b with
  | none, _ => false
  | some _, none => true
  | some (v, i), some (w, j) =>
    let x := f32 v
    let y := f32 w
    match x, y with
    | .nan, .nan => i < j
    | .nan, _ => true
    | _, .nan => false
    | x, y =>
      if y.lt x then true else if x.lt y then false
      else if x.isZero && x.neg ≠ y.neg then y.neg else i < j

/-- An entry put in its rank. -/
def rankIn (x : Option (Nat × Nat)) : List (Option (Nat × Nat)) → List (Option (Nat × Nat))
  | [] => [x]
  | y :: r => if ranksAbove x y then x :: y :: r else y :: rankIn x r

/-- The running top k of row r of a register (R215). -/
def Ve.topk (v : Ve) (s : Stage) (r : Nat) (fresh : Bool) (l : List (Nat × Nat)) (p : Bool) : Ve :=
  let t := s.dst.getD 0
  let k := bits s.p0 11 8
  let slot := fun i =>
    let w := (v.get t r i 0).1
    let x := (v.get t r (16 + i) 0).1
    if x = 2 ^ 32 - 1 && w = negInf32 then none else some (w, x)
  let start := if fresh then List.replicate k none else (List.range k).map slot
  let best := (l.foldl (fun b e => rankIn (some e) b) (start.foldl (fun b e => rankIn e b) [])).take k
  (List.range k).foldl (fun v i => match nth none best i with
    | none => (v.put t r i 0 negInf32 p).put t r (16 + i) 0 (2 ^ 32 - 1) p
    | some (w, x) => (v.put t r i 0 (match f32 w with | .nan => Fmt.fp32.nan | _ => w) p).put t r (16 + i) 0 x p) v

/-- The reductions of a tile taken into the registers (R214, R215, R227). -/
def PassEnv.reduce (e : PassEnv) (v : Ve) (mm nn : Nat) (reds : List (Nat × Nat × Nat × Nat × Bool)) : Ve :=
  ((List.range e.ch.stages.length).zip e.ch.stages).foldl (fun v j =>
    let s := j.2
    let mine := reds.filter (fun x => x.1 == j.1)
    let t := s.dst.getD 0
    let init := bit s.p0 2
    if !s.isRed then v
    else if s.isTopk then
      (List.range mm).foldl (fun v r =>
        let l := mine.filter (fun x => x.2.1 == r)
        v.topk s r (init && e.tc = 0) (l.map (fun x => (x.2.2.2.1, 32 * e.tc + x.2.2.1))) (l.any (·.2.2.2.2))) v
    else
      let rows := s.p0 % 4 = 0
      (List.range (if rows then mm else nn)).foldl (fun v i =>
        let l := mine.filter (fun x => (if rows then x.2.1 else x.2.2.1) == i)
        let (x, y) := if rows then (i, (e.rowSlot + e.tr) % 32) else ((e.colSlot + e.tc) % 32, i)
        let old := if init && (if rows then e.tc else e.tr) = 0 then redIdentity s.op else (v.get t x y 0).1
        v.put t x y 0 (reduce32 s.op old (l.map (·.2.2.2.1))) (l.any (·.2.2.2.2))) v) v

/-- Output cells (row, column, encoding, special kind, poison) written through a descriptor (R145, R266, R268): the first special cell among
granules that are not poisoned, whether poison was written, whether a cell was dropped. prior: the bytes that the op has written before. -/
def Dev.putCells (d : Dev) (core eng : Nat) (t : Desc) (o : Owner) (l : List (Nat × Nat × Nat × Nat × Bool)) (report : Bool)
    (prior : Nat → Bool := fun _ => false) : Dev × Option (Nat × Nat × Nat) × Bool × Bool :=
  let inn := l.filter (fun e => t.inBounds e.1 e.2.1)
  let out := l.filter (fun e => !t.inBounds e.1 e.2.1)
  let d := d.writeElems core (inn.map (fun e => (t.addr e.1 e.2.1, elemBytes t.fmt e.2.2.1 e.2.2.2.2))) prior
  let k := d.core core
  let clean := inn.filter (fun e => !NatSet.has k.poison (t.addr e.1 e.2.1 / 64))
  (d.oobDrop core eng t o out.length (out.head?.map (fun e => (e.1, e.2.1))) report, firstSpecial (clean.map (fun e => (e.1, e.2.1, e.2.2.2.1))),
   inn.any (·.2.2.2.2), !out.isEmpty)

/-- An output tile of the task has been written (R146, R147, R228). -/
def Dev.veTile (d : Dev) (core : Nat) (o : Owner) (r0 c0 : Nat) (sp : Option (Nat × Nat × Nat)) : Dev :=
  let b := baseVE core
  let t := (d.core core).ve.tile
  let d := match sp with
    | some (r, c, k) => d.placeSpecial b 0 (b + 0x20) (b + 0x18) o (specialRec 2 t (r - r0) (c - c0) k)
    | none => d
  d.updVe core (fun v => { v with tile := v.tile + 1 })

/-- A stream tile as read (R206, R203): FP32 bits and poison by row; its fill reads. -/
def Core.streamTile (k : Core) (t : Option Desc) (r0 c0 mm nn : Nat) : List (List (Nat × Bool)) × Nat :=
  match t with
  | none => ([], 0)
  | some t =>
    ((List.range mm).map (fun i => (List.range nn).map (fun j => let (w, p) := k.elem t (r0 + i) (c0 + j); (widen32 t.fmt w, p))),
     ((List.range mm).flatMap (fun i => (List.range nn).filter (fun j => !t.inBounds (r0 + i) (c0 + j)))).length)

/-! ### Ops -/

/-- The VE refuses the op (R219). -/
def Dev.veRefuse (c : Ctl) (d : Dev) (core : Nat) (q : QOp) (code : Nat) (logged : Bool) : Dev :=
  let b := baseVE core
  let d := ((d.setReg (b + 8) (code * 65536 + q.op % 256)).setReg (b + 0xC) (q.va % 2 ^ 32)).setReg (b + 0x10) (q.va / 2 ^ 32)
  Dev.opRefused c (d.raise b 2 (b + 0x28)) core .ve q code logged

/-- The descriptor of a stream, when its stream is enabled (R217, R270), or what refuses it (with a cause other than poison). -/
def Core.veDesc (k : Core) (en : Bool) (off fmt : Nat) (write : Bool) : Option Desc ⊕ Bool :=
  if !en then .inl none
  else
    let x := k.desc off [0] [0] write
    match x, x.cause (fun t => t.fmtCode == fmt) with
    | .ok t, none => .inl (some t)
    | _, e => .inr (e = some true)

/-- The field checks of a VE_CHAIN (Table 7.8). -/
def veChainFieldsOk (op : Nat) : Bool :=
  opClean op [(1, 2, 0), (4, 22, 0), (8, 22, 0), (12, 22, 0), (16, 22, 0), (20, 31, 0), (24, 31, 0), (28, 4, 0), (29, 4, 0)] &&
  (offOk (opn op 4 4) 256 && (opn op 20 4 ≤ 65536 && (opn op 24 4 ≤ 65536 &&
  ([(0, 8), (1, 12), (2, 16)].all (fun x => if opt op 1 x.1 then offOk (opn op x.2 3) 64 else opn op x.2 3 == 0)))))

/-- Lanes of the VE (Table 0.3): 512 on the GX12-W, 256 on the GX12-S. -/
def vlanes : Nat := if Config.wide then 512 else 256

/-- Issue cycles of one stream tile with a number of lanes (R220). -/
def tileCycles (ch : Chain) (op lanes : Nat) : Nat :=
  let b := fun (f i : Nat) => if opt op 1 i then ((fmtOf f).getD .fp32).bytes else 0
  max (cdiv (1024 * ch.cost) lanes) (max (b ch.inFmt 0 + b ch.sideFmt 1) (b ch.outFmt 2))

/-- What a VE_CHAIN breaks once its chain and descriptors are known (R206, R216, R220, Table 7.4): a code, 0 for none. -/
def veChainFault (op : Nat) (ch : Chain) : Nat :=
  let tr := cdiv (opn op 20 4) 32
  let tc := cdiv (opn op 24 4) 32
  let wide := fun (m ax : Nat) => ch.stages.any (fun s => (s.usesReg && s.map = m) || (s.isRed && s.p0 % 4 = ax))
  if ch.names (fun x => 4 ≤ x && x ≤ 7) || (ch.names (· = 3) && !opt op 1 1) then 4
  else if (wide 2 0 && 32 < tr) || ((wide 1 1 && 32 < tc) || (ch.stages.any (·.isTopk) && 32 < opn op 20 4)) then 3
  else if 2048 < tr * tc * tileCycles ch op 256 then 5
  else 0

/-- One stream tile of a tensor pass. st: (poison written, a drop has been reported, poison used). -/
def Dev.veTilePass (d : Dev) (core : Nat) (q : QOp) (ch : Chain) (ti ts rcv : Option Desc) (tile : Nat × Nat) (st : Bool × Bool × Bool) :
    Dev × (Bool × Bool × Bool) :=
  let op := q.op
  let r0 := 32 * tile.1
  let c0 := 32 * tile.2
  let mm := min 32 (opn op 20 4 - r0)
  let nn := min 32 (opn op 24 4 - c0)
  let k := d.core core
  let (ins, f1) := k.streamTile ti r0 c0 mm nn
  let (sides, f2) := k.streamTile ts r0 c0 mm nn
  let e : PassEnv := { ch := ch, tr := tile.1, tc := tile.2, rowSlot := opb op 28, colSlot := opb op 29, ins := ins, sides := sides }
  let (v, out, reds, used) := e.elements k.ve mm nn
  let v := e.reduce v mm nn reds
  let d := (d.updVe core (fun _ => v)).oobReads core (f1 + f2)
  match rcv with
  | none => (d, (st.1, st.2.1, st.2.2 || used))
  | some t =>
    let cells := out.map (fun x =>
      let (w, kd) := narrow32 t.fmt x.2.2.1
      (r0 + x.1, c0 + x.2.1, w, if kd = 0 && x.2.2.2.2 then 1 else kd, x.2.2.2.1))
    let before := fun (r c : Nat) => decide (r / 32 < tile.1) || (r / 32 == tile.1 && decide (c / 32 < tile.2))
    let (d, sp, pz, dropped) := d.putCells core 2 t q.own cells (!st.2.1) (t.wrote (0, opn op 20 4) (0, opn op 24 4) before)
    (d.veTile core q.own r0 c0 sp, (st.1 || pz, st.2.1 || dropped, st.2.2 || used))

/-- The end of a VE op: its poison flags, its retirement. -/
def Dev.veDone (d : Dev) (core : Nat) (q : QOp) (wrote used : Bool) : Dev :=
  let b := baseVE core
  let d := if wrote then d.raise b 1 (b + 0x24) else d
  (d.markIf (used || wrote) q.own 0).opDone core q

/-- VE_CHAIN (R206, R217). -/
def Dev.veChain (c : Ctl) (d : Dev) (core : Nat) (q : QOp) : Dev :=
  let op := q.op
  let k := d.core core
  if !veChainFieldsOk op then d.veRefuse c core q 1 true
  else
    let b := k.csRead (opn op 4 4) 256
    let ch := parseChain (plain b)
    let code := chainFault (plain b)
    let x := k.veDesc (opt op 1 0) (opn op 8 3) ch.inFmt false
    let y := k.veDesc (opt op 1 1) (opn op 12 3) ch.sideFmt false
    let z := k.veDesc (opt op 1 2) (opn op 16 3) ch.outFmt true
    let e := veChainFault op ch
    let clean := fun (a : Option Desc ⊕ Bool) => match a with | .inr l => !l | .inl _ => true
    let only := code = 0 && (e = 0 && [x, y, z].all clean)
    if anyPoison b then d.veRefuse c core q 4 (!only)
    else if code ≠ 0 then d.veRefuse c core q code true
    else match x, y, z with
      | .inl ti, .inl ts, .inl rcv =>
        if e ≠ 0 then d.veRefuse c core q e true
        else
          let tiles := (List.range (cdiv (opn op 20 4) 32)).flatMap (fun r => (List.range (cdiv (opn op 24 4) 32)).map (fun c => (r, c)))
          let (d, st) := tiles.foldl (fun (acc : Dev × (Bool × Bool × Bool)) t => acc.1.veTilePass core q ch ti ts rcv t acc.2) (d, (false, false, false))
          let d := (d.count (baseVE core + 0x40) tiles.length).count (baseVE core + 0x44) (tiles.length * tileCycles ch op vlanes)
          d.veDone core q st.1 st.2.2
      | _, _, _ => d.veRefuse c core q 6 (!only)

/-- VE_LOAD (R204, R218): a register view filled from a tensor, bits unchanged. -/
def Dev.veLoad (d : Dev) (core : Nat) (q : QOp) (t : Desc) : Dev :=
  let op := q.op
  let reg := opb op 1
  let view := opb op 2
  let k := d.core core
  let cells := (List.range 32).map (fun i => (List.range 32).map (fun j => k.elem t (opn op 8 4 + i) (opn op 12 4 + j)))
  let v := (List.range 32).foldl (fun (v : Ve) i =>
    let row := nth [] cells i
    let v := (List.range 32).foldl (fun (v : Ve) j => let (w, p) := nth (0, false) row j; v.put reg i j view w p) v
    if view = 0 && !row.any (·.2) then { v with regPoison := NatSet.del v.regPoison (32 * reg + i) } else v) k.ve
  let fills := ((List.range 32).flatMap (fun i => (List.range 32).filter (fun j => !t.inBounds (opn op 8 4 + i) (opn op 12 4 + j)))).length
  ((d.updVe core (fun _ => v)).oobReads core fills).veDone core q false (cells.any (fun l => l.any (·.2)))

/-- The special kind of an encoding (R145). -/
def specialKind (f : Fmt) (w : Nat) : Nat :=
  match f.decode w with
  | .nan => 1
  | .inf n => if n then 3 else 2
  | .fin .. => 0

/-- VE_STORE (R218, R228): a register view written to a tensor, bits unchanged. -/
def Dev.veStore (d : Dev) (core : Nat) (q : QOp) (t : Desc) : Dev :=
  let op := q.op
  let v := (d.core core).ve
  let r0 := opn op 8 4
  let c0 := opn op 12 4
  let cells := (List.range 32).flatMap (fun i => (List.range 32).map (fun j =>
    let (w, p) := v.get (opb op 1) i j (opb op 2)
    (r0 + i, c0 + j, w, specialKind t.fmt w, p)))
  let (d, sp, pz, _) := d.putCells core 2 t q.own cells true
  (d.veTile core q.own r0 c0 sp).veDone core q pz (cells.any (·.2.2.2.2))

/-- Cycles that a VE_LOAD or VE_STORE takes (R218). -/
def viewCycles (view : Nat) : Nat := if view = 0 then 4 else if view ≤ 2 then 2 else 1

/-- VE_LOAD and VE_STORE: their checks (Table 7.9). -/
def Dev.veMove (c : Ctl) (d : Dev) (core : Nat) (q : QOp) : Dev :=
  let op := q.op
  let store := op % 256 = 0x32
  if !opClean op [(1, 4, 0), (2, 2, 0), (4, 22, 0), (8, 31, 0), (12, 31, 0)] || (opb op 2 = 7 || !offOk (opn op 4 3) 64) then d.veRefuse c core q 1 true
  else match (d.core core).desc (opn op 4 3) [0] [0] store with
    | .poison => d.veRefuse c core q 6 false
    | .bad => d.veRefuse c core q 6 true
    | .ok t =>
      if !viewTakes (opb op 2) t.fmtCode then d.veRefuse c core q 2 true
      else
        let d := d.count (baseVE core + 0x44) (viewCycles (opb op 2))
        if store then d.veStore core q t else d.veLoad core q t

/-- VE_FILL (R204, R218). -/
def Dev.veFill (c : Ctl) (d : Dev) (core : Nat) (q : QOp) : Dev :=
  let op := q.op
  let reg := opb op 1
  let view := opb op 2
  if !opClean op [(1, 4, 0), (2, 2, 0), (3, 3, 0), (4, 31, 0)] || view = 7 then d.veRefuse c core q 1 true
  else if !viewTakes view (opb op 3) then d.veRefuse c core q 2 true
  else
    let w := (narrow32 ((fmtOf (opb op 3)).getD .fp32) (opn op 4 4)).1
    let v := (List.range 1024).foldl (fun (v : Ve) i => v.put reg (i / 32) (i % 32) view w false) (d.core core).ve
    let v := if view = 0 then { v with regPoison := v.regPoison.filter (fun r => r / 32 ≠ reg) } else v
    ((d.updVe core (fun _ => v)).count (baseVE core + 0x44) 1).veDone core q false false

/-- VE_LIVE (R218, R229). -/
def Dev.veLive (c : Ctl) (d : Dev) (core : Nat) (q : QOp) : Dev :=
  if !opClean q.op [(4, 31, 0)] then d.veRefuse c core q 1 true
  else ((d.updVe core (fun v => { v with live := opn q.op 4 4 })).count (baseVE core + 0x44) 1).veDone core q false false

/-- The op at the head of the VE queue starts when it can (R217, R222, R226): the VE runs no op, the governor permits, no preemption has
withdrawn it, and delivery passes have had their turn: the ring holds no record, or they have run for 1,024 cycles. -/
def Dev.veStart (c : Ctl) (d : Dev) (core : Nat) : Dev :=
  let k := d.core core
  match k.ve.queue with
  | [] => d
  | q :: _ =>
    if k.ve.running || (!d.permits (c.facetOfCore core) || (d.withheld core q || (!k.ge.ring.isEmpty && k.ve.turn < 1024))) then d
    else d.updVe core (fun v => { v with running := true, turn := 0 })

/-- A delivery pass has run: with the ring empty the turn of R226 is over. -/
def Dev.vePassed (c : Ctl) (d : Dev) (core : Nat) : Dev :=
  (if (d.core core).ge.ring.isEmpty then d.updVe core (fun v => { v with turn := 0 }) else d).veStart c core

/-- An op enters the VE queue (R217). -/
def veIssue (core o : Nat) (s : State) : Host.Outcome State Fault Refusal := onDev s fun c d => (d.issue core o .ve).1.veStart c core

/-- VE_CHAIN (R217). -/
def execVeChain (core : Fin 128) (s : State) : Host.Outcome State Fault Refusal := veIssue core 0x30 s
/-- VE_LOAD (R218). -/
def execVeLoad (core : Fin 128) (s : State) : Host.Outcome State Fault Refusal := veIssue core 0x31 s
/-- VE_STORE (R218). -/
def execVeStore (core : Fin 128) (s : State) : Host.Outcome State Fault Refusal := veIssue core 0x32 s
/-- VE_FILL (R218). -/
def execVeFill (core : Fin 128) (s : State) : Host.Outcome State Fault Refusal := veIssue core 0x33 s
/-- VE_LIVE (R218). -/
def execVeLive (core : Fin 128) (s : State) : Host.Outcome State Fault Refusal := veIssue core 0x34 s

/-- VE_OP_COMPLETE (R217, R222): the op at the head of the queue, where it has started or can, runs to its end; the next starts. -/
def execVeOpComplete (core : Fin 128) (gaps : Gaps) (s : State) : Host.Outcome State Fault Refusal :=
  onDev s fun c d =>
    let d := d.veStart c core
    match (d.core core).ve.queue with
    | [] => d
    | q :: _ =>
      if !(d.core core).ve.running then d
      else
        let b := baseVE core
        let d := (d.popOp core .ve).updVe core (fun v => { v with running := false, turn := 0 })
        let d := ((d.count (b + 0x50) gaps.port).count (b + 0x54) gaps.governor).count (b + 0x58) gaps.idle
        let d := match q.op % 256 with
          | 0x30 => d.veChain c core q
          | 0x33 => d.veFill c core q
          | 0x34 => d.veLive c core q
          | _ => d.veMove c core q
        d.veStart c core

end Sys2Proof.Machine
end

