-- ==== Sys2Proof/Machine/Delivery.lean ====
section
/-! DEFINITION. Delivery passes (Vector Engine and Fused Chains; Embedding Tables, Baskets and Owner Pooling): the pool chain of an inbound
list, pool passes at an owner, merge passes at a requester. -/

namespace Sys2Proof.Machine

/-- The 256 B of an entry of a core's chain table, with poison. -/
def Dev.chainBytes (d : Dev) (core entry : Nat) : List Byte × Bool :=
  let b := (d.core core).csRead (d.chainOff core entry) 256
  (plain b, anyPoison b)

/-- A delivery chain found invalid is reported, once per list or basket (R225). -/
def Dev.noteChain (c : Ctl) (d : Dev) (core entry : Nat) (b : List Byte × Bool) : Dev :=
  match chainUse b.1 b.2 with
  | .bad logged => d.chainBad c core (d.chainOff core entry) logged
  | _ => d

/-- The pool chain of a list, read at the start of the list (R225). -/
def Dev.listChain (c : Ctl) (d : Dev) (core : Nat) (l : InList) : Dev × InList :=
  if l.h.unpooled || l.chain.isSome then (d, l)
  else
    let b := d.chainBytes core l.h.pool
    let l := { l with chain := some b }
    ((d.updList core l.num (fun _ => l)).noteChain c core l.h.pool b, l)

/-- OWNER_ROUND_START (R95): the chain is read at the start of a list; where it is missing every bag is answered CHAIN_MISSING (R102). -/
def execOwnerRoundStart (core : Fin 128) (s : State) : Host.Outcome State Fault Refusal :=
  onDev s fun c d =>
    match (d.ge core).nextList? with
    | none => d
    | some l =>
      let (d, l) := d.listChain c core l
      match l.chain with
      | some b =>
        if chainUse b.1 b.2 = .missing then
          let d := d.loseIn core l.num 4 (l.todo ++ l.fwdRows.flatMap (·.groups))
          (d.updList core l.num (fun l => { l with todo := [], fwdRows := [] })).listCheck c core l.num
        else (d.roundStart c core l).doneOutside core 2
      | none => (d.roundStart c core l).doneOutside core 2

/-! ### Pool passes -/

/-- Elements of n bytes each in a row; surplus bytes are ignored (R223). -/
def rowElems (n : Nat) (b : List Byte) : List Nat := (List.range (b.length / n)).map (fun i => le b (n * i) n)

/-- The result of a chain is poisoned, given the poison of IN and of ACC (R227). -/
def Chain.deliverPoison (ch : Chain) (inp acc : Bool) : Bool :=
  ch.stages.foldl (fun prev s => s.used.any (fun x => (x == 1 && prev) || ((x == 2 && inp) || (x == 7 && acc)))) false

/-- Core cycles of a record (R226): e elements of a chain of cost k, a row of w bytes. -/
def passCycles (e k w : Nat) : Nat := 1 + max (cdiv (e * k) vlanes) (cdiv (w + 4 * e) 1024)

/-- A pass of n cycles is counted: records, delivery cycles, the turn of delivery passes (R226). -/
def Dev.countPass (d : Dev) (core n : Nat) : Dev :=
  ((d.count (baseVE core + 0x48) 1).count (baseVE core + 0x4C) n).updVe core (fun v => { v with turn := v.turn + n })

/-- The size of a chain's input elements; FP32 where the format itself is at fault. -/
def inSize (b : List Byte) : Nat := if veFmt (parseChain b).inFmt then ((fmtOf (parseChain b).inFmt).getD .fp32).bytes else 4

/-- A tuple taken into its bag's accumulator (R223). An invalid chain runs no stage, and the bag is poisoned (R225). -/
def poolInto (b : List Byte × Bool) (a : Acc) (first : Bool) (r : Rec) : Acc :=
  let inn := rowElems (inSize b.1) r.data
  let old := fun i => if first then 0 else nth 0 a.elems i
  let (els, p) := match chainUse b.1 b.2 with
    | .ok ch =>
      let f := (fmtOf ch.inFmt).getD .fp32
      ((List.range inn.length).map (fun i => ch.deliver (ch.source (widen32 f (nth 0 inn i)) (old i) r.count r.wsum first i)),
       bit r.flags 0 || ch.deliverPoison false (bit a.flags 0))
    | _ => (inn.map (fun _ => 0), true)
  { a with
    count := a.count + r.count
    wsum := if first then r.wsum else to32 ((f32 a.wsum).add (f32 r.wsum))
    flags := (if p then 1 else 0) + (if bit a.flags 1 || bit r.flags 1 then 2 else 0)
    elems := els ++ a.elems.drop els.length }

/-- Bytes of the accumulators of a list. -/
def InList.accBytes (l : InList) : Nat := (l.accs.map (fun a => 4 * a.elems.length)).foldl (· + ·) 0

/-- A tuple is pooled into its bag's accumulator in GE_ACC (R99, R223). -/
def Dev.poolTuple (c : Ctl) (d : Dev) (core : Nat) (l : InList) (r : Rec) : Dev :=
  let b := l.chain.getD (zeros 256, false)
  let e := (rowElems (inSize b.1) r.data).length
  let d := d.countPass core (passCycles e (parseChain b.1).cost r.data.length)
  let same := fun (a : Acc) => a.sample == r.sample && a.bag == r.bag
  let held := l.accs.find? same
  let more := e - ((held.map (fun a => a.elems.length)).getD 0)
  let full := !l.accs.isEmpty && decide (d.geArea core 2 < l.accBytes + 4 * more)
  let d := if full then d.sendPartials c core l else d
  if held.isSome && !full then
    d.updList core l.num (fun l => { l with accs := l.accs.map (fun y => if same y then poolInto b y false r else y) })
  else d.updList core l.num (fun l => { l with accs := l.accs ++ [poolInto b { sample := r.sample, bag := r.bag } true r] })

/-- POOL_PASS (R223, R226, R99): the tuple at the head of the ring, while the VE runs no op. Where an accumulator that it opens or lengthens would exceed GE_ACC, the partials held are
sent first and the accumulators start anew. -/
def execPoolPass (core : Fin 128) (s : State) : Host.Outcome State Fault Refusal :=
  onDev s fun c d =>
    match (d.ge core).ring with
    | [] => d
    | x :: rest =>
      if !x.ofList || (d.core core).ve.running then d
      else
        let r := d.ringGetRec core x
        let d := d.updGe core (fun g => { g with ring := rest })
        match d.list? core x.num with
        | none => d
        | some l => ((d.poolTuple c core l r).listCheck c core l.num).vePassed c core

/-! ### Merge passes -/

/-- The elements of a bag position after a merge (R224): bits in out_fmt, special kind, poison. -/
def mergedElems (ch : Chain) (pos : List PByte) (r : Rec) : List (Nat × Nat × Bool) :=
  let f := (fmtOf ch.outFmt).getD .fp32
  let n := f.bytes
  (List.range (min (r.data.length / 4) (pos.length / n))).map (fun i =>
    let old := slice' pos (n * i) n
    let v := ch.run (ch.source (le r.data (4 * i) 4) (widen32 f (leNat (plain old))) r.count r.wsum (bit r.flags 2) i)
    let (w, k) := narrow32 f v.1
    let k := if k = 0 && v.2 then 1 else k
    let p := bit r.flags 0 || ch.deliverPoison false (anyPoison old)
    (w, if p then 0 else k, p))
where
  slice' (l : List PByte) (o n : Nat) : List PByte := (l.drop o).take n

/-- The partial at the head of the ring is merged into its bag position: the basket with what changed; none while the GE waits. -/
def Dev.mergePass (c : Ctl) (d : Dev) (core : Nat) (b : Basket) (ch : List Byte × Bool) (r : Rec) : Dev × Option Basket :=
  let q := b.op
  let key := bagKey r.sample r.bag
  let va := bagVa q.op r.sample r.bag
  match chainUse ch.1 ch.2 with
  | .missing => (d.geEvent core 4, some { b with chainMissing := NatSet.ins b.chainMissing key })
  | use =>
    match d.geRead c core q.as none 0 va (opPos q.op) with
    | (d, none) => (d, none)
    | (d, some pos) =>
      match use with
      | .ok k =>
        let els := mergedElems k pos r
        let n := ((fmtOf k.outFmt).getD .fp32).bytes
        let poison := els.any (·.2.2)
        match d.geWrite c core q.as (some q.own) va (els.flatMap (fun x => marked x.2.2 (toLe n x.1))) with
        | (d, false) => (d, none)
        | (d, true) =>
          let d := els.foldl (fun d x => d.mergeElem core q.own x.2.1) d
          let d := d.count (baseVE core + 0x5C) (r.data.length / 4 - els.length)
          let d := (d.countPass core (passCycles (r.data.length / 4) k.cost r.data.length)).markIf poison q.own 0
          (d, some { b with poisonBags := if poison then NatSet.ins b.poisonBags key else b.poisonBags })
      | _ =>
        match d.geWrite c core q.as (some q.own) va (marked true (plain pos)) with
        | (d, false) => (d, none)
        | (d, true) => (d.mark q.own 0, some { b with poisonBags := NatSet.ins b.poisonBags key })

/-- MERGE_PASS (R224, R225): the merge chain is read at the first record of the basket. A record without data leaves the ring and changes no bag (R102). -/
def execMergePass (core : Fin 128) (s : State) : Host.Outcome State Fault Refusal :=
  onDev s fun c d =>
    match (d.ge core).ring with
    | [] => d
    | x :: rest =>
      if x.ofList || (d.core core).ve.running then d
      else match (d.ge core).baskets.find? (fun b => b.num == x.num) with
        | none => (d.updGe core (fun g => { g with ring := rest })).vePassed c core
        | some b =>
          let r := d.ringGetRec core x
          if x.len = 0 then (d.updGe core (fun g => { g with ring := rest })).vePassed c core
          else
          let entry := opf b.op.op 28 25 20
          let (d, ch) := match b.chain with
            | some ch => (d, ch)
            | none =>
              let ch := d.chainBytes core entry
              ((d.updBasket core b.num (fun b => { b with chain := some ch })).noteChain c core entry ch, ch)
          match d.mergePass c core { b with chain := some ch } ch r with
          | (d, none) => d
          | (d, some b) => (((d.updGe core (fun g => { g with ring := rest })).updBasket core b.num (fun _ => b)).doneOutside core 2).vePassed c core

end Sys2Proof.Machine
end

