-- ==== Sys2Proof/Machine/Scout.lean ====
section
/-! DEFINITION. The scout (Address Translation, Faults and Migration, R309 to R311): the pages of the next tiles of each requester's queued work, and
the walks that it starts for them. It reads descriptors as they stand and changes no result. -/

namespace Sys2Proof.Machine

/-- Pages that the scout takes of a tile at most (R310). -/
def scoutPages : Nat := 16

/-- Pages of 64 KiB added in the order of their first use, at most sixteen. -/
def addPages (l new : List Nat) : List Nat :=
  new.foldl (fun l p => if l.contains p || scoutPages ≤ l.length then l else l ++ [p]) l

/-- The pages of [va, va + n), as far as the scout takes them. -/
def pagesOf (va n : Nat) : List Nat :=
  if n = 0 then [] else (List.range (min scoutPages ((va + n - 1) / 65536 + 1 - va / 65536))).map (fun i => va / 65536 + i)

/-- A tile of the scout: the address space and its pages in the order of first use (Table 11.4). -/
structure ScoutTile where
  as : Nat := 0
  pages : List Nat := []
  deriving DecidableEq, Repr

/-- The number of 64 KiB segments of a transfer that the scout looks at. -/
def segCount (n : Nat) : Nat := min 8 (cdiv n 65536)

/-- The tiles of a copy of n bytes: of each segment the source's and the destination's pages, where they are virtual. -/
def copyTiles (as n : Nat) (src dst : Option Nat) : List ScoutTile :=
  (List.range (segCount n)).map (fun i =>
    let len := min 65536 (n - 65536 * i)
    let part := fun (a : Option Nat) => match a with
      | some v => pagesOf (v + 65536 * i) len
      | none => []
    { as := as, pages := addPages (addPages [] (part src)) (part dst) })

/-- The tiles of a tensor transfer: segments of its elements, row by row. -/
def tensorTiles (as : Nat) (s t : Desc) : List ScoutTile :=
  let per := 65536 / t.fmt.bytes
  let total := t.rows * t.cols
  (List.range (segCount (total * t.fmt.bytes))).map (fun i =>
    let pos := (List.range (min per (total - per * i))).map (fun j => ((per * i + j) / t.cols, (per * i + j) % t.cols))
    let pages := fun (x : Desc) => if x.space = 1 then (pos.filter (fun p => x.inBounds p.1 p.2)).map (fun p => x.addr p.1 p.2 / 65536) else []
    { as := as, pages := addPages (addPages [] (pages s)) (pages t) })

/-- The tiles of a queued DMA op; `inl`: the length of the bytes that a launch or a record of a command writes. -/
def Core.dmaTiles (k : Core) (inl : Nat) (q : QOp) : List ScoutTile :=
  let op := q.op
  if op % 256 = inlineOp then copyTiles q.as inl none (some (opn op 16 8))
  else if op % 256 = 0x60 then
    copyTiles q.as (opn op 4 4) (if opt op 1 0 then some (opn op 8 8) else none) (if opt op 1 1 then some (opn op 16 8) else none)
  else if op % 256 = 0x61 then
    match k.desc (opn op 4 3) [0, 1] [0] false, k.desc (opn op 8 3) [0, 1] [0] true with
    | .ok s, .ok t => if s.fmt ≠ t.fmt || t.fmt.subByte then [] else tensorTiles q.as s t
    | _, _ => []
  else copyTiles q.as (opn op 4 4) (some (opn op 8 8)) none

/-- The tile of a queued basket: its entries, then its report and output area. -/
def basketTile (q : QOp) : ScoutTile :=
  let op := q.op
  let out := 64 + (if opUnpooled op then opEntries op else opSamples op * opBags op) * opPos op
  { as := q.as, pages := addPages (addPages [] (pagesOf (opEntryVa op) (16 * opEntries op))) (pagesOf (opOutVa op) out) }

/-- The pages of a PLAIN weight footprint, element tile by element tile (R262, R263). -/
def footprintPages (t : Desc) : List Nat :=
  (List.range t.tileRows).foldl (fun l r => (List.range t.tileCols).foldl (fun l c =>
    if scoutPages ≤ l.length then l else addPages l (pagesOf (t.base + tileAddr t.levels r c) t.fb)) l) []

/-- A stream header that the scout can read at once: its page is in the core's TLB and lies in HBM. -/
def Dev.scoutHeader (c : Ctl) (d : Dev) (core as va : Nat) : Dev × Option StreamHdr :=
  match (if d.ctxOn as then tlbFind (d.core core).tlb as va else none) with
  | none => (d, none)
  | some e =>
    let pa := e.pa + va % 2 ^ levelShift e.level
    let f := c.facetOfCore core
    if bit e.bits 2 || (2 ^ 46 ≤ pa || (!leafGrants e.bits false || !d.permits f)) then (d, none)
    else
      let (d, b, p, _) := Dev.sliceRead c d (whoCore core 4 f) pa 0 false .stream true
      (d, if p then none else some (parseStream b))

/-- The tile of a queued MV_MM with wsrc MEM: the footprint of plain weights; of a stream its header, the base stream's header and the op's block
index entries. -/
def Dev.weightTile (c : Ctl) (d : Dev) (core : Nat) (q : QOp) : Dev × List ScoutTile :=
  let op := q.op
  if op % 256 ≠ 0x20 || opf op 1 3 2 ≠ 1 then (d, [])
  else match (d.core core).desc (opn op 20 4) [1] [0, 1] false with
    | .ok t =>
      if t.coding = 0 then (d, [{ as := q.as, pages := footprintPages t }])
      else
        let own := addPages [] (pagesOf t.base 64)
        match d.scoutHeader c core q.as t.base with
        | (d, none) => (d, [{ as := q.as, pages := own }])
        | (d, some h) =>
          let base := if h.delta then addPages own (pagesOf h.base 64) else own
          let blocks := t.blocksOf 0 (32 * opn op 4 2) 0 (opn op 6 2)
          (d, [{ as := q.as, pages := addPages base (blocks.map (fun b => (h.index + 8 * b) / 65536)) }])
    | _ => (d, [])

/-- The tiles of a requester's queued work, at most eight (R309). -/
def Dev.scoutTiles (c : Ctl) (d : Dev) (core : Nat) : TrEngine → Dev × List ScoutTile
  | .sq => (d, [])
  | .dma =>
    let k := d.core core
    let inl := fun (q : QOp) => match d.cmd? q.own.ch q.own.seq with
      | some x => x.inlined.length
      | none => 0
    (d, (k.dma.queue.flatMap (fun q => k.dmaTiles (inl q) q)).take 8)
  | .ge => (d, (((d.core core).ge.queue.filter (fun q => q.op % 256 = 0x50 && basketOk q.op)).map basketTile).take 8)
  | .xp => ((d.core core).mv.queue.take 8).foldl (fun (acc : Dev × List ScoutTile) q =>
      let (d, l) := acc.1.weightTile c core q
      (d, acc.2 ++ l)) (d, [])

/-- The limits of R310 let a core's scout start a walk. -/
def Dev.scoutMay (d : Dev) (core : Nat) : Bool :=
  let mine := (d.xl.walks.filter (fun w => w.scouts.contains core)).length
  decide (mine < 8) && (decide (d.xl.walks.length < 48) && decide (((d.core core).tlb.filter (·.scout)).length + mine < 128))

/-- A page that the scout still has to walk for: no TLB hit, no open fault of its region, not walked for before. -/
def Dev.scoutWants (d : Dev) (core eng as page : Nat) : Bool :=
  d.ctxOn as && ((tlbFind (d.core core).tlb as (page * 65536)).isNone && (!(d.openFaults.any (fun x => x.2.covers as (page * 65536))) &&
  !(d.xl.scouted.contains (4 * core + eng, as, page))))

/-- The scout walks for a page, in a slot of its own or with the walk for that page in flight (R307). -/
def Dev.scoutStart (d : Dev) (core eng as page : Nat) : Dev :=
  let d := { (d.count (baseTR + 0x4C) 1).count (baseTC core + 0x30) 1 with
             xl := { d.xl with scouted := d.xl.scouted ++ [(4 * core + eng, as, page)] } }
  let same := fun (w : Walk) => w.as == as && w.va / 65536 == page
  if d.xl.walks.any same then
    { d with xl := { d.xl with walks := d.xl.walks.map (fun w => if same w then { w with scouts := w.scouts ++ [core] } else w) } }
  else
    let (l, t) := d.walkStart as (page * 65536)
    { d.count (baseTR + 0x48) l with
      xl := { d.xl with walks := d.xl.walks ++ [{ as := as, va := page * 65536, level := l, table := t, scouts := [core] }] } }

/-- The scout walks for the first of the pages that the limits let it and that it has not walked for. -/
def Dev.scoutNext (d : Dev) (core eng : Nat) (pages : List (Nat × Nat)) : Dev :=
  if !d.scoutMay core then d
  else match pages.find? (fun p => d.scoutWants core eng p.1 p.2) with
    | some p => d.scoutStart core eng p.1 p.2
    | none => d

/-- SCOUT_WALK (R309 to R311): the scout of a core walks for the next n pages that a requester's next tiles will use and that it has not walked
for, eight at most. -/
def execScoutWalk (core : Fin 128) (eng : TrEngine) (n : Nat) (s : State) : Host.Outcome State Fault Refusal :=
  onDev s fun c d =>
    let (d, tiles) := d.scoutTiles c core eng
    let pages := tiles.flatMap (fun t => t.pages.map (fun p => (t.as, p)))
    let who := 4 * core.val + eng.num
    let d := { d with xl := { d.xl with scouted := d.xl.scouted.filter (fun x => x.1 ≠ who || pages.contains x.2) } }
    (List.range (min n 8)).foldl (fun d _ => d.scoutNext core eng.num pages) d

end Sys2Proof.Machine
end

