-- ==== Sys2Proof/Machine/Dispatch.lean ====
section
/-! DEFINITION. Dispatch: each command to its meaning. -/

open Sys2Proof.Machine

namespace Sys2Proof.Machine

/-- The effect of a command on everything but the queue. -/
def exec (i : Instr) (s : State) : Host.Outcome State Fault Refusal :=
  match i with
  | .registerWrite who off width val => Sys2Proof.Machine.execRegisterWrite who off width val s
  | .latchedHalfRead fn off => Sys2Proof.Machine.execLatchedHalfRead fn off s
  | .rcFieldRead fn off => Sys2Proof.Machine.execRcFieldRead fn off s
  | .syncObjectWrite fn obj val => Sys2Proof.Machine.execSyncObjectWrite fn obj val s
  | .load fn val => Sys2Proof.Machine.execLoad fn val s
  | .tmImageReadDone ok image => Sys2Proof.Machine.execTmImageReadDone ok image s
  | .tmChecksEnd => Sys2Proof.Machine.execTmChecksEnd s
  | .tmFlashWriteDone ok => Sys2Proof.Machine.execTmFlashWriteDone ok s
  | .tmApplyDone => Sys2Proof.Machine.execTmApplyDone s
  | .bootTrailMapLoad => Sys2Proof.Machine.execBootTrailMapLoad s
  | .facetDrain fn bits => Sys2Proof.Machine.execFacetDrain fn bits s
  | .facetResume fn bits => Sys2Proof.Machine.execFacetResume fn bits s
  | .drained f => Sys2Proof.Machine.execDrained f s
  | .geBasket core => Sys2Proof.Machine.execGeBasket core s
  | .basketStart core => Sys2Proof.Machine.execBasketStart core s
  | .indexListArrival core => Sys2Proof.Machine.execIndexListArrival core s
  | .ownerRoundStart core => Sys2Proof.Machine.execOwnerRoundStart core s
  | .rowFetchComplete core n => Sys2Proof.Machine.execRowFetchComplete core n s
  | .forwardArrival core => Sys2Proof.Machine.execForwardArrival core s
  | .forwardAckArrival core => Sys2Proof.Machine.execForwardAckArrival core s
  | .ownerRoundEnd core => Sys2Proof.Machine.execOwnerRoundEnd core s
  | .partialArrival core => Sys2Proof.Machine.execPartialArrival core s
  | .flaggedRecordArrival core => Sys2Proof.Machine.execFlaggedRecordArrival core s
  | .listEndRecordArrival core => Sys2Proof.Machine.execListEndRecordArrival core s
  | .unpooledRowArrival core => Sys2Proof.Machine.execUnpooledRowArrival core s
  | .basketComplete core => Sys2Proof.Machine.execBasketComplete core s
  | .rowPut core => Sys2Proof.Machine.execRowPut core s
  | .rowMove core => Sys2Proof.Machine.execRowMove core s
  | .shardSet core => Sys2Proof.Machine.execShardSet core s
  | .tableStage core => Sys2Proof.Machine.execTableStage core s
  | .tableCutover core => Sys2Proof.Machine.execTableCutover core s
  | .tableRelease core => Sys2Proof.Machine.execTableRelease core s
  | .rowWriteAck core => Sys2Proof.Machine.execRowWriteAck core s
  | .putRoundsEnded core => Sys2Proof.Machine.execPutRoundsEnded core s
  | .versionRetire asp table => Sys2Proof.Machine.execVersionRetire asp table s
  | .flushAs fn => Sys2Proof.Machine.execFlushAs fn s
  | .flushAll fn => Sys2Proof.Machine.execFlushAll fn s
  | .rdTregWrite fn asp high val => Sys2Proof.Machine.execRdTregWrite fn asp high val s
  | .geAreaWrite fn core area val => Sys2Proof.Machine.execGeAreaWrite fn core area val s
  | .meLoad core => Sys2Proof.Machine.execMeLoad core s
  | .meSwap core => Sys2Proof.Machine.execMeSwap core s
  | .meMm core => Sys2Proof.Machine.execMeMm core s
  | .meInval core => Sys2Proof.Machine.execMeInval core s
  | .meScales core => Sys2Proof.Machine.execMeScales core s
  | .meLoadComplete core => Sys2Proof.Machine.execMeLoadComplete core s
  | .meGroupIssue core => Sys2Proof.Machine.execMeGroupIssue core s
  | .meRowWrite core => Sys2Proof.Machine.execMeRowWrite core s
  | .meLevelStep core portReady => Sys2Proof.Machine.execMeLevelStep core portReady s
  | .mvMm core => Sys2Proof.Machine.execMvMm core s
  | .mvScales core => Sys2Proof.Machine.execMvScales core s
  | .mvLeadIn core => Sys2Proof.Machine.execMvLeadIn core s
  | .mvChunkBuildDone core => Sys2Proof.Machine.execMvChunkBuildDone core s
  | .mvOpComplete core gaps => Sys2Proof.Machine.execMvOpComplete core gaps s
  | .veChain core => Sys2Proof.Machine.execVeChain core s
  | .veLoad core => Sys2Proof.Machine.execVeLoad core s
  | .veStore core => Sys2Proof.Machine.execVeStore core s
  | .veFill core => Sys2Proof.Machine.execVeFill core s
  | .veLive core => Sys2Proof.Machine.execVeLive core s
  | .veOpComplete core gaps => Sys2Proof.Machine.execVeOpComplete core gaps s
  | .poolPass core => Sys2Proof.Machine.execPoolPass core s
  | .mergePass core => Sys2Proof.Machine.execMergePass core s
  | .xpTload core => Sys2Proof.Machine.execXpTload core s
  | .xpTfree core => Sys2Proof.Machine.execXpTfree core s
  | .xpHeaderRead core ask => Sys2Proof.Machine.execXpHeaderRead core ask s
  | .xpBlockDecoded core client gaps => Sys2Proof.Machine.execXpBlockDecoded core client gaps s
  | .sliceRead facet pa hint how => Sys2Proof.Machine.execSliceRead facet pa hint how s
  | .sliceWrite facet pa mask data hint prot poison => Sys2Proof.Machine.execSliceWrite facet pa mask data hint prot poison s
  | .pointReadRequest facet pa cls hint => Sys2Proof.Machine.execPointReadRequest facet pa cls hint s
  | .pointRequestAged ch n => Sys2Proof.Machine.execPointRequestAged ch n s
  | .hbmReadComplete ch ecc age => Sys2Proof.Machine.execHbmReadComplete ch ecc age s
  | .msFlush fn slice bits => Sys2Proof.Machine.execMsFlush fn slice bits s
  | .msUnkeep fn slice bits => Sys2Proof.Machine.execMsUnkeep fn slice bits s
  | .msFlushDone slice f unkeep => Sys2Proof.Machine.execMsFlushDone slice f unkeep s
  | .scrubRead ch n ecc => Sys2Proof.Machine.execScrubRead ch n ecc s
  | .channelFailed ch => Sys2Proof.Machine.execChannelFailed ch s
  | .channelTrainingEnd ch ok => Sys2Proof.Machine.execChannelTrainingEnd ch ok s
  | .tlbMiss core who va write => Sys2Proof.Machine.execTlbMiss core who va write s
  | .walkLevelReadDone slot => Sys2Proof.Machine.execWalkLevelReadDone slot s
  | .scoutWalk core eng n => Sys2Proof.Machine.execScoutWalk core eng n s
  | .retry fn entry => Sys2Proof.Machine.execRetry fn entry s
  | .abort fn entry => Sys2Proof.Machine.execAbort fn entry s
  | .range fn val => Sys2Proof.Machine.execRange fn val s
  | .aspace fn val => Sys2Proof.Machine.execAspace fn val s
  | .facet fn val => Sys2Proof.Machine.execFacet fn val s
  | .invBlockEnd => Sys2Proof.Machine.execInvBlockEnd s
  | .invDone => Sys2Proof.Machine.execInvDone s
  | .trCoreFlush fn core => Sys2Proof.Machine.execTrCoreFlush fn core s
  | .clear fn f => Sys2Proof.Machine.execClear fn f s
  | .hostWindowAccess core eng asp va pa len data counted poison => Sys2Proof.Machine.execHostWindowAccess core eng asp va pa len data counted poison s
  | .remoteWindowAccess core eng asp pa len data poison => Sys2Proof.Machine.execRemoteWindowAccess core eng asp pa len data poison s
  | .importAccess => Sys2Proof.Machine.execImportAccess s
  | .contextWrite fn asp word val => Sys2Proof.Machine.execContextWrite fn asp word val s
  | .hostWindowEntryWrite fn w word val => Sys2Proof.Machine.execHostWindowEntryWrite fn w word val s
  | .importEntryWrite fn k word val => Sys2Proof.Machine.execImportEntryWrite fn k word val s
  | .feChCfgWrite fn ch word val => Sys2Proof.Machine.execFeChCfgWrite fn ch word val s
  | .doorbell fn ch val => Sys2Proof.Machine.execDoorbell fn ch val s
  | .slotRead ch host => Sys2Proof.Machine.execSlotRead ch host s
  | .slotReread ch host => Sys2Proof.Machine.execSlotReread ch host s
  | .commandStart ch => Sys2Proof.Machine.execCommandStart ch s
  | .launch ch => Sys2Proof.Machine.execLaunch ch s
  | .copy ch core => Sys2Proof.Machine.execCopy ch core s
  | .batch ch core => Sys2Proof.Machine.execBatch ch core s
  | .sync ch => Sys2Proof.Machine.execSync ch s
  | .invalidate ch => Sys2Proof.Machine.execInvalidate ch s
  | .graphStore ch => Sys2Proof.Machine.execGraphStore ch s
  | .graphPatch ch => Sys2Proof.Machine.execGraphPatch ch s
  | .graphRetire ch => Sys2Proof.Machine.execGraphRetire ch s
  | .nop ch => Sys2Proof.Machine.execNop ch s
  | .launchStart ch => Sys2Proof.Machine.execLaunchStart ch s
  | .launchArgWriteDone core => Sys2Proof.Machine.execLaunchArgWriteDone core s
  | .launchEnd ch => Sys2Proof.Machine.execLaunchEnd ch s
  | .completionRecordWrite ch => Sys2Proof.Machine.execCompletionRecordWrite ch s
  | .completionReadbackDone ch ok => Sys2Proof.Machine.execCompletionReadbackDone ch ok s
  | .feChAbort fn ch => Sys2Proof.Machine.execFeChAbort fn ch s
  | .releaseHold fn ch => Sys2Proof.Machine.execReleaseHold fn ch s
  | .feGregWrite fn asp high val => Sys2Proof.Machine.execFeGregWrite fn asp high val s
  | .deviceQueueConfigWrite fn q word val => Sys2Proof.Machine.execDeviceQueueConfigWrite fn q word val s
  | .opFetch core => Sys2Proof.Machine.execOpFetch core s
  | .endOp core => Sys2Proof.Machine.execEndOp core s
  | .setc core => Sys2Proof.Machine.execSetc core s
  | .addc core => Sys2Proof.Machine.execAddc core s
  | .ldc core => Sys2Proof.Machine.execLdc core s
  | .br core => Sys2Proof.Machine.execBr core s
  | .brc core => Sys2Proof.Machine.execBrc core s
  | .loop core => Sys2Proof.Machine.execLoop core s
  | .fence core => Sys2Proof.Machine.execFence core s
  | .fenceRelease core => Sys2Proof.Machine.execFenceRelease core s
  | .wait core => Sys2Proof.Machine.execWait core s
  | .signal core => Sys2Proof.Machine.execSignal core s
  | .signalDeferredAct core => Sys2Proof.Machine.execSignalDeferredAct core s
  | .own core => Sys2Proof.Machine.execOwn core s
  | .enqueue core => Sys2Proof.Machine.execEnqueue core s
  | .relayRing core => Sys2Proof.Machine.execRelayRing core s
  | .dmaCopy core => Sys2Proof.Machine.execDmaCopy core s
  | .dmaTensor core => Sys2Proof.Machine.execDmaTensor core s
  | .dmaRelay core => Sys2Proof.Machine.execDmaRelay core s
  | .dmaOpComplete core => Sys2Proof.Machine.execDmaOpComplete core s
  | .relayLand core => Sys2Proof.Machine.execRelayLand core s
  | .taskEnd core => Sys2Proof.Machine.execTaskEnd core s
  | .sqRelayWrite fn core val => Sys2Proof.Machine.execSqRelayWrite fn core val s
  | .sqSaveWrite fn core val => Sys2Proof.Machine.execSqSaveWrite fn core val s
  | .taskPlace core => Sys2Proof.Machine.execTaskPlace core s
  | .preemptRequest n => Sys2Proof.Machine.execPreemptRequest n s
  | .preemptSave core latency => Sys2Proof.Machine.execPreemptSave core latency s
  | .taskResume core => Sys2Proof.Machine.execTaskResume core s
  | .portLanesTrained p => Sys2Proof.Machine.execPortLanesTrained p s
  | .identityFlitArrival p peer => Sys2Proof.Machine.execIdentityFlitArrival p peer s
  | .laneFailure p => Sys2Proof.Machine.execLaneFailure p s
  | .replayFailure p => Sys2Proof.Machine.execReplayFailure p s
  | .portRetrainTimer p => Sys2Proof.Machine.execPortRetrainTimer p s
  | .retrain fn p => Sys2Proof.Machine.execRetrain fn p s
  | .packetArrival p pkt => Sys2Proof.Machine.execPacketArrival p pkt s
  | .remoteResponseArrival => Sys2Proof.Machine.execRemoteResponseArrival s
  | .twinPairing peer => Sys2Proof.Machine.execTwinPairing peer s
  | .heartbeatSend => Sys2Proof.Machine.execHeartbeatSend s
  | .heartbeatArrival applied => Sys2Proof.Machine.execHeartbeatArrival applied s
  | .partnerLost => Sys2Proof.Machine.execPartnerLost s
  | .mirrorRecordSend f => Sys2Proof.Machine.execMirrorRecordSend f s
  | .mirrorRecordArrival part => Sys2Proof.Machine.execMirrorRecordArrival part s
  | .mirrorAckArrival f seq status => Sys2Proof.Machine.execMirrorAckArrival f seq status s
  | .twMirrorCfgWrite fn f word val => Sys2Proof.Machine.execTwMirrorCfgWrite fn f word val s
  | .restart fn f => Sys2Proof.Machine.execRestart fn f s
  | .eklLinkUp => Sys2Proof.Machine.execEklLinkUp s
  | .eklLinkDown => Sys2Proof.Machine.execEklLinkDown s
  | .pcieLinkDown => Sys2Proof.Machine.execPcieLinkDown s
  | .functionLevelReset fn => Sys2Proof.Machine.execFunctionLevelReset fn s
  | .apertureAccess who off len data ep => Sys2Proof.Machine.execApertureAccess who off len data ep s
  | .request fn token => Sys2Proof.Machine.execRequest fn token s
  | .complete fn => Sys2Proof.Machine.execComplete fn s
  | .detach fn => Sys2Proof.Machine.execDetach fn s
  | .hlHostRidWrite fn val => Sys2Proof.Machine.execHlHostRidWrite fn val s
  | .flushReadIssue => Sys2Proof.Machine.execFlushReadIssue s
  | .flushReadDone ok => Sys2Proof.Machine.execFlushReadDone ok s
  | .hostWindowReadResponse n host => Sys2Proof.Machine.execHostWindowReadResponse n host s
  | .completionTimeout n => Sys2Proof.Machine.execCompletionTimeout n s
  | .msixMessage src masked => Sys2Proof.Machine.execMsixMessage src masked s
  | .inputInRange => Sys2Proof.Machine.execInputInRange s
  | .inputStop => Sys2Proof.Machine.execInputStop s
  | .vinOut => Sys2Proof.Machine.execVinOut s
  | .railPowerGood mv => Sys2Proof.Machine.execRailPowerGood mv s
  | .trip cause => Sys2Proof.Machine.execTrip cause s
  | .modRstNAssert => Sys2Proof.Machine.execModRstNAssert s
  | .resetRelease => Sys2Proof.Machine.execResetRelease s
  | .refclkLoss => Sys2Proof.Machine.execRefclkLoss s
  | .firmwareBankVerify => Sys2Proof.Machine.execFirmwareBankVerify s
  | .fwLoad fn ok image => Sys2Proof.Machine.execFwLoad fn ok image s
  | .bistEnd failed slack => Sys2Proof.Machine.execBistEnd failed slack s
  | .periodicMeasurement => Sys2Proof.Machine.execPeriodicMeasurement s
  | .measure fn => Sys2Proof.Machine.execMeasure fn s
  | .measurementEnd slack ro => Sys2Proof.Machine.execMeasurementEnd slack ro s
  | .clockRelockEnd p => Sys2Proof.Machine.execClockRelockEnd p s
  | .agHistIndexWrite fn val => Sys2Proof.Machine.execAgHistIndexWrite fn val s
  | .agHistDataRead fn => Sys2Proof.Machine.execAgHistDataRead fn s
  | .violationLogWrite => Sys2Proof.Machine.execViolationLogWrite s
  | .quarantine fn core => Sys2Proof.Machine.execQuarantine fn core s
  | .machineCheck core => Sys2Proof.Machine.execMachineCheck core s
  | .release fn core => Sys2Proof.Machine.execRelease fn core s
  | .releaseBistEnd core ok => Sys2Proof.Machine.execReleaseBistEnd core ok s
  | .tlChWrite fn ch high val => Sys2Proof.Machine.execTlChWrite fn ch high val s
  | .go fn f => Sys2Proof.Machine.execGo fn f s
  | .stop fn f => Sys2Proof.Machine.execStop fn f s
  | .keyCommand fn => Sys2Proof.Machine.execKeyCommand fn s
  | .keyRecordReadDone ok record => Sys2Proof.Machine.execKeyRecordReadDone ok record s
  | .keySlotWriteDone ok => Sys2Proof.Machine.execKeySlotWriteDone ok s
  | .attest fn => Sys2Proof.Machine.execAttest fn s
  | .attestNonceReadDone nonce => Sys2Proof.Machine.execAttestNonceReadDone nonce s
  | .governorSample sample => Sys2Proof.Machine.execGovernorSample sample s
  | .governorWindow => Sys2Proof.Machine.execGovernorWindow s
  | .thermalHoldStart tj tcase => Sys2Proof.Machine.execThermalHoldStart tj tcase s
  | .thermalHoldEnd tj tcase => Sys2Proof.Machine.execThermalHoldEnd tj tcase s
  | .ident => Sys2Proof.Machine.execIdent s
  | .status => Sys2Proof.Machine.execStatus s
  | .tripCause => Sys2Proof.Machine.execTripCause s
  | .vin mean => Sys2Proof.Machine.execVin mean s
  | .iin mean => Sys2Proof.Machine.execIin mean s
  | .pin mean => Sys2Proof.Machine.execPin mean s
  | .tj now => Sys2Proof.Machine.execTj now s
  | .tcase now => Sys2Proof.Machine.execTcase now s
  | .rails => Sys2Proof.Machine.execRails s
  | .energy => Sys2Proof.Machine.execEnergy s
  | .smbusWrite code => Sys2Proof.Machine.execSmbusWrite code s
  | .bypass => Sys2Proof.Machine.execBypass s
  | .samplePreload => Sys2Proof.Machine.execSamplePreload s
  | .extest => Sys2Proof.Machine.execExtest s
  | .extestPulse => Sys2Proof.Machine.execExtestPulse s
  | .extestTrain => Sys2Proof.Machine.execExtestTrain s
  | .trstNAssert => Sys2Proof.Machine.execTrstNAssert s
  | .homeOwnerPutArrival core => Sys2Proof.Machine.execHomeOwnerPutArrival core s
  | .remoteShardRowDataArrival core => Sys2Proof.Machine.execRemoteShardRowDataArrival core s
  | .controlWindowRead who off width => Sys2Proof.Machine.execControlWindowRead who off width s
  | .pcieLinkUp => Sys2Proof.Machine.execPcieLinkUp s
  | .portTrainingFailed p => Sys2Proof.Machine.execPortTrainingFailed p s
  | .powerOnHour => Sys2Proof.Machine.execPowerOnHour s

end Sys2Proof.Machine
end

