-- ==== Sys2Proof/Machine/Step.lean ====
section
/-! DEFINITION. One step of the block: the command at the front of the queue, or a tick of the reference clock. -/

namespace Sys2Proof.Machine

/-- A tick of the local time counter (R27), which counts while the logic is out of reset; it is what a step on an empty queue does (DESIGN
CHOICE, log entry 81). An error may strike an array of the memory system, a core's store or the flash in the meantime: a free value says whether and
where (R286, R287, R68, log entry 118); on the links credits return and the router goes on (R399, log entry 130). -/
def State.tick (s : State) : State :=
  let v := s.dev.free.2.toNat
  if s.ctl.power.running then
    { s with ctl := { s.ctl with flash := s.ctl.flash.upset v }
             dev := { (s.dev.free.1.upset v).linkTick s.ctl with ltc := s.dev.ltc + 1 } }
  else s

/-- The command at the front of the queue is taken and executed; on an empty queue the block idles for a tick. -/
def step (s : State) : Host.Outcome State Fault Refusal :=
  match s.pending with
  | [] => .next s.tick
  | c :: rest => exec c { s with pending := rest }

/-- s with the command that a word spells put at the front of its queue; s where the word spells none. -/
def State.withFetchWord (s : State) (nbits w : Nat) : State :=
  match Sys2Proof.decodeTableWord nbits w with
  | some c => { s with pending := c :: s.pending }
  | none => s

end Sys2Proof.Machine
end

