-- ==== Sys2Proof/Safety.lean ====
section
/-! DEFINITION. What the claims call a legal state, and a run that does not stop. -/

namespace Sys2Proof.Machine

/-- The logic runs only while nothing keeps it in reset (R436, R491, R502, R503, R506) and the input is within its range. -/
def Power.legal (p : Power) : Prop :=
  (p.running = true → p.mayRun = true ∧ p.inputOk = true) ∧
  (p.inputOk = false → p.rails.all (fun b => !b) = true) ∧
  p.rails.length = 6 ∧ p.trip < 5 ∧ (p.trip ≠ 0 → p.running = false)

/-- The order of boot (R438, R442): nothing of Ranger's later work is there before its firmware runs, nothing of the map's before a map is in
effect; the facet that a map names is the facet that is not ABSENT (Table 2.6). -/
def Ctl.bootLegal (c : Ctl) : Prop :=
  (c.stage ≠ .firmware → c.map = none ∧ c.load = none ∧ c.bistDone = false ∧ c.measure = none ∧ c.keyPhase = .idle ∧ c.attesting = false) ∧
  (c.blocksReady = c.map.isSome) ∧
  c.facetState.length = 16 ∧ (∀ f, f < 16 → (c.fstate f = .absent ↔ c.tm.facet? f = none))

/-- A legal state. -/
def State.Inv (s : State) : Prop := s.ctl.power.legal ∧ s.ctl.bootLegal

/-- Every step from the state answers a next state. -/
def State.Safe (s : State) : Prop := ∃ t, step s = .next t

/-- The commands of the sideband controller, the supply, the pins and the test port, which act whether the logic runs or not. -/
def sideband : Instr → Bool
  | .inputInRange => true
  | .inputStop => true
  | .vinOut => true
  | .railPowerGood _ => true
  | .trip _ => true
  | .modRstNAssert => true
  | .resetRelease => true
  | .refclkLoss => true
  | .ident => true
  | .status => true
  | .tripCause => true
  | .vin _ => true
  | .iin _ => true
  | .pin _ => true
  | .tj _ => true
  | .tcase _ => true
  | .rails => true
  | .energy => true
  | .smbusWrite _ => true
  | .bypass => true
  | .samplePreload => true
  | .extest => true
  | .extestPulse => true
  | .extestTrain => true
  | .trstNAssert => true
  | .powerOnHour => true
  | _ => false

/-- The commands that may change the control part: supply and test port, boot, the Trail Map, facet states, margins, keys, reports, and those that end
tasks and so reach a batch-step boundary, and those that carry one of them out by a write of its register. -/
def touchesControl (i : Instr) : Bool :=
  sideband i || match i with
  | .registerWrite .. => true
  | .latchedHalfRead .. => true
  | .rcFieldRead .. => true
  | .controlWindowRead .. => true
  | .agHistDataRead .. => true
  | .agHistIndexWrite .. => true
  | .load .. => true
  | .tmImageReadDone .. => true
  | .tmChecksEnd => true
  | .tmFlashWriteDone .. => true
  | .tmApplyDone => true
  | .bootTrailMapLoad => true
  | .facetDrain .. => true
  | .facetResume .. => true
  | .drained .. => true
  | .feChAbort .. => true
  | .taskEnd .. => true
  | .quarantine .. => true
  | .machineCheck .. => true
  | .firmwareBankVerify => true
  | .fwLoad .. => true
  | .bistEnd .. => true
  | .periodicMeasurement => true
  | .measure .. => true
  | .measurementEnd .. => true
  | .clockRelockEnd .. => true
  | .releaseBistEnd .. => true
  | .go .. => true
  | .keyCommand .. => true
  | .keyRecordReadDone .. => true
  | .keySlotWriteDone .. => true
  | .attest .. => true
  | .attestNonceReadDone .. => true
  | .governorSample .. => true
  | .thermalHoldStart .. => true
  | .thermalHoldEnd .. => true
  | _ => false

/-- Commands that act on registers, links, translations, margins, keys or the governor and store nothing in HBM, the memory-side cache or Core Store. -/
def leavesMemory : Instr → Bool
  | .syncObjectWrite .. => true
  | .retry .. => true
  | .abort .. => true
  | .range .. => true
  | .aspace .. => true
  | .facet .. => true
  | .invDone => true
  | .trCoreFlush .. => true
  | .clear .. => true
  | .contextWrite .. => true
  | .hostWindowEntryWrite .. => true
  | .importEntryWrite .. => true
  | .feChCfgWrite .. => true
  | .releaseHold .. => true
  | .deviceQueueConfigWrite .. => true
  | .eklLinkUp => true
  | .pcieLinkUp => true
  | .functionLevelReset .. => true
  | .request .. => true
  | .complete .. => true
  | .detach .. => true
  | .hlHostRidWrite .. => true
  | .flushReadIssue => true
  | .flushReadDone .. => true
  | .msixMessage .. => true
  | .agHistIndexWrite .. => true
  | .agHistDataRead .. => true
  | .periodicMeasurement => true
  | .measure .. => true
  | .clockRelockEnd .. => true
  | .violationLogWrite => true
  | .release .. => true
  | .stop .. => true
  | .go .. => true
  | .keyCommand .. => true
  | .keyRecordReadDone .. => true
  | .keySlotWriteDone .. => true
  | .attest .. => true
  | .attestNonceReadDone .. => true
  | .governorSample .. => true
  | .governorWindow => true
  | .thermalHoldStart .. => true
  | .thermalHoldEnd .. => true
  | .portLanesTrained .. => true
  | .identityFlitArrival .. => true
  | .laneFailure .. => true
  | .replayFailure .. => true
  | .portRetrainTimer .. => true
  | .retrain .. => true
  | .portTrainingFailed .. => true
  | .heartbeatSend => true
  | .partnerLost => true
  | .twMirrorCfgWrite .. => true
  | .restart .. => true
  | .mirrorAckArrival .. => true
  | .twinPairing .. => true
  | .channelFailed .. => true
  | .pointRequestAged .. => true
  | .firmwareBankVerify => true
  | .fwLoad .. => true
  | .bistEnd .. => true
  | .facetDrain .. => true
  | .facetResume .. => true
  | .flushAs .. => true
  | .flushAll .. => true
  | _ => false

end Sys2Proof.Machine
end

