-- ==== Sys2Proof/WellFormed.lean ====
section
/-! DEFINITION. Which commands and events a sender can form: what an operand brings has the length and the range that the spec gives it. A
meaning is total on every command; this says which ones the outside can send. -/

namespace Sys2Proof

open Sys2Proof.Machine

/-- An access of the control window: inside its 32 MiB (R33), of a width that a bus can carry. -/
def wfAccess (off width : Nat) : Bool := decide (off < 0x2000000) && [1, 2, 4, 8].contains width

/-- An offset of three coordinates of four bits (R389). -/
def wfCoord (x : Nat) : Bool := decide (x < 4096)

/-- The command is one that can be sent. -/
def Instr.wf : Instr → Bool
  | .registerWrite _ off width _ => wfAccess off width
  | .controlWindowRead _ off width => wfAccess off width
  | .latchedHalfRead _ off => !(latchTargets off).isEmpty
  | .rcFieldRead _ off => (fieldsAt off).any (fun f => decide (f.acc = .rc))
  | .sliceRead _ pa _ _ => decide (pa < 2 ^ 48)
  | .sliceWrite _ pa _ data _ _ _ => decide (pa < 2 ^ 48) && decide (data.length = 64)
  | .pointReadRequest _ pa _ _ => decide (pa < 2 ^ 48)
  | .tlbMiss _ _ va _ => decide (va < 2 ^ 52)
  | .hostWindowAccess _ _ _ va _ len data _ _ => decide (va < 2 ^ 52) && (decide (0 < len) && (data.all (fun b => decide (b.length = len))))
  | .remoteWindowAccess _ _ _ _ len data _ => decide (0 < len) && (data.all (fun b => decide (b.length = len)))
  | .apertureAccess _ _ len data _ => decide (0 < len) && (data.all (fun b => decide (b.length = len)))
  | .identityFlitArrival _ peer => wfCoord peer.coord && (decide (peer.dim.length = 3) && decide (peer.dateline.length = 3))
  | .packetArrival _ pkt => wfCoord pkt.dst && (wfCoord pkt.src && decide (1 ≤ pkt.flits))
  | .twinPairing peer => decide (peer.key.length = 64) && decide (peer.sig.length = 64)
  | .heartbeatArrival applied => decide (applied.length = 16)
  | .mirrorRecordArrival part => decide (part.facet < 16) && decide (part.off + part.bytes.length ≤ part.total)
  | .bistEnd _ slack => decide (slack.length = 132)
  | .measurementEnd slack ro => decide (slack.length = 132) && decide (ro.length = 512)
  | .keyRecordReadDone ok record => !ok || decide (record.length = 192)
  | .attestNonceReadDone nonce => decide (nonce.length = 32)
  | .governorSample x => decide (x.estimate.length = 16)
  | _ => true

end Sys2Proof
end

