-- ==== Sys2Proof/Certificates/Slice0/Obligations.lean ====
section
/-! DEFINITION. The statements about the GX12, for the provers. -/

open Sys2Proof Sys2Proof.Machine

namespace Sys2Proof.Claims

/-- The logic is out of reset (R503). -/
abbrev Runs (s : State) : Prop := s.ctl.power.running = true

/-- A host write of function fn at an offset passes every check (R33, R36, R37, R54, R64, R65, R440): see WriteAdmission. -/
abbrev Grants (s : State) (fn : Fin 16) (off width : Nat) : Prop := (checkWrite s.ctl s.dev fn off width).2 = true

/-- The command answers a next state that differs from s in the part Dev alone, which is d. -/
def Leaves (i : Instr) (s : State) (d : Dev) : Prop := exec i s = .next { s with dev := d }

/-- The command answers a next state that differs from s in the parts Ctl and Dev, which are those of x. -/
def LeavesBoth (i : Instr) (s : State) (x : Ctl × Dev) : Prop := exec i s = .next { s with ctl := x.1, dev := x.2 }

/-- The host function, offset and width of a command that is a host write of the control window. -/
def writeOf : Instr → Option (Fin 16 × Nat × Nat)
  | .registerWrite who off width _ => some (who.fn, off, width)
  | .syncObjectWrite fn obj _ => some (fn, syncOff obj, 8)
  | .load fn _ => some (fn, baseRG + 0x100, 4)
  | .facetDrain fn _ => some (fn, baseRG + 0x128, 4)
  | .facetResume fn _ => some (fn, baseRG + 0x12C, 4)
  | .flushAs fn => some (fn, baseRD, 4)
  | .flushAll fn => some (fn, baseRD, 4)
  | .rdTregWrite fn asp high _ => some (fn, baseTreg asp + (if high then 4 else 0), 4)
  | .geAreaWrite fn core area _ => some (fn, baseGE core + 4 * area, 4)
  | .msFlush fn slice _ => some (fn, baseMs slice + 4, 4)
  | .msUnkeep fn slice _ => some (fn, baseMs slice + 8, 4)
  | .retry fn _ => some (fn, baseTR + 0x400, 4)
  | .abort fn _ => some (fn, baseTR + 0x400, 4)
  | .range fn _ => some (fn, baseTR + 0x110, 4)
  | .aspace fn _ => some (fn, baseTR + 0x110, 4)
  | .facet fn _ => some (fn, baseTR + 0x110, 4)
  | .trCoreFlush fn core => some (fn, baseTC core + 8, 4)
  | .clear fn f => some (fn, baseTR + 0x20C + 0x20 * f, 4)
  | .contextWrite fn asp word _ => some (fn, baseCtx asp + 4 * word, 4)
  | .hostWindowEntryWrite fn w word _ => some (fn, baseTR + 0x20000 + 0x10 * w + 4 * word, 4)
  | .importEntryWrite fn k word _ => some (fn, baseImport k + 4 * word, 4)
  | .feChCfgWrite fn ch word _ => some (fn, baseCh ch + 4 * word, 4)
  | .doorbell fn ch _ => some (fn, baseCh ch + 0x14, 4)
  | .feChAbort fn ch => some (fn, baseCh ch + 0x1C, 4)
  | .releaseHold fn ch => some (fn, baseCh ch + 0x1C, 4)
  | .feGregWrite fn asp high _ => some (fn, baseGreg asp + (if high then 4 else 0), 4)
  | .deviceQueueConfigWrite fn q word _ => some (fn, baseQueue q + 4 * word, 4)
  | .sqRelayWrite fn core _ => some (fn, baseSQ core + 0x30, 4)
  | .sqSaveWrite fn core _ => some (fn, baseSQ core + 0x80, 4)
  | .retrain fn p => some (fn, basePort p + 8, 4)
  | .twMirrorCfgWrite fn f word _ => some (fn, baseMirror f + 4 * word, 4)
  | .restart fn f => some (fn, baseMirror f + 0x10, 4)
  | .request fn _ => some (fn, baseHL + 8, 4)
  | .complete fn => some (fn, baseHL + 8, 4)
  | .detach fn => some (fn, baseHL + 8, 4)
  | .hlHostRidWrite fn _ => some (fn, baseHL + 0x10, 4)
  | .fwLoad fn _ _ => some (fn, baseBU + 0xC0, 4)
  | .measure fn => some (fn, baseAG + 4, 4)
  | .agHistIndexWrite fn _ => some (fn, baseAG + 0x40, 4)
  | .quarantine fn _ => some (fn, baseRG + 0x200, 4)
  | .release fn _ => some (fn, baseRG + 0x200, 4)
  | .tlChWrite fn ch high _ => some (fn, baseTlCh ch + (if high then 4 else 0), 4)
  | .go fn f => some (fn, baseReplay f, 4)
  | .stop fn f => some (fn, baseReplay f, 4)
  | .keyCommand fn => some (fn, baseRG + 0x1010, 4)
  | .attest fn => some (fn, baseRG + 0x1040, 4)
  | _ => none

/-- The requester ID that a request of the control window or an aperture carries, where the command names one (R427, log entry 86). -/
def ridOf : Instr → Option (BitVec 16)
  | .registerWrite who .. => some who.rid
  | .controlWindowRead who .. => some who.rid
  | .apertureAccess who .. => some who.rid
  | _ => none

/-- The EHA4 refuses the command's requester (R427). -/
def Foreign (i : Instr) (s : State) : Prop := ∃ rid, ridOf i = some rid ∧ s.dev.ridRefuses rid = true

/-- The offset lies in SY. -/
abbrev inSync (off : Nat) : Prop := baseSY ≤ off ∧ off < 0x500000

/-- What the sequencer leaves when it passes op of task t to an engine's queue (R350): the op at the end of the queue with the core's next
number, outstanding, and the task's program counter one op on. -/
def issued (d : Dev) (core : Nat) (e : Eng) (t : Task) (op : Nat) : Dev :=
  (d.enqueueOp core e op t.pc t.as t.own).updTask core (fun t => { t with pc := (t.pc + 32) % 2 ^ 52 })

/-- An op of task t in an engine's queue, as the sequencer passes it. -/
def queuedOp (d : Dev) (core : Nat) (t : Task) (op : Nat) : QOp :=
  { id := (d.seq core).nextId, op := op, va := t.pc, own := t.own, as := t.as }

/-- The op with opcode o stands at the program counter of core's task t, which may issue, and engine e's queue has room. -/
abbrev Ready (s : State) (core : Nat) (o : Nat) (e : Eng) (t : Task) (op : Nat) : Prop :=
  s.dev.curOp core o = some (t, op) ∧ (s.dev.core core).queued e < e.cap

/-- The command of a channel that is started and has opcode o is k. -/
abbrev Started (s : State) (ch o : Nat) (k : Cmd) : Prop := (s.dev.chan ch).startedCmd o = some k

end Sys2Proof.Claims

open Sys2Proof.Claims

/-! ### The block as a whole -/

/-- A step takes the command at the front of the queue and runs it on the state with the queue's rest. -/
def Obligations.StepRunsFrontCommand : Prop :=
  ∀ (s : State) (i : Instr) (rest : List Instr), s.pending = i :: rest → step s = exec i { s with pending := rest }

/-- On an empty queue a step is one tick of the local time counter while the logic runs, and nothing in reset (R27; that a step on an empty
queue is a tick is the model's choice, log entry 81). A tick leaves the control part, but for the flash banks that a free value makes unreadable (log entry
118), and the queue. -/
def Obligations.EmptyQueueTicks : Prop :=
  ∀ s : State, s.pending = [] →
    (Runs s → ∃ t, step s = .next t ∧ t.dev.ltc = s.dev.ltc + 1 ∧ t.pending = [] ∧
      ∃ u v, t.ctl = { s.ctl with flash := { s.ctl.flash with unread := u, fwUnread := v } }) ∧
    (¬ Runs s → step s = .next s)

/-- What reset leaves: a legal state with an empty queue, the local time counter at 0 (R27), no Trail Map in effect, every sync object 0, unowned and
not poisoned (R362), the host port DETACHED (R428), every Matrix Engine at level 0 (R170) and no VE register live. -/
def Obligations.ResetIsLegal : Prop :=
  State.reset.Inv ∧ State.reset.pending = [] ∧ State.reset.dev.ltc = 0 ∧ State.reset.ctl.map = none ∧
  (∀ o, (State.reset.dev.syncObj o).value = 0 ∧ (State.reset.dev.syncObj o).owner = none ∧ (State.reset.dev.syncObj o).poison = false) ∧
  State.reset.dev.hl.state = 0 ∧ (∀ core, (State.reset.dev.core core).me.level = 0) ∧ (∀ core, (State.reset.dev.core core).ve.live = 0)

/-- Every step keeps the legality of the state: the logic runs only while nothing holds it in reset, a trip excludes it, the order of boot holds,
and exactly the facets that the Trail Map in effect names are not ABSENT. -/
def Obligations.StepKeepsInvariant : Prop := ∀ s t : State, s.Inv → step s = .next t → t.Inv

/-- While the logic is in reset, every command but those of the sideband controller, the supply, the pins and the test port changes nothing. -/
def Obligations.ResetHoldsEveryCommand : Prop := ∀ (i : Instr) (s : State), ¬ Runs s → sideband i = false → exec i s = .next s

/-- Every command answers a next state, and leaves the queue as it was. -/
def Obligations.EveryCommandCompletes : Prop := ∀ (i : Instr) (s : State), ∃ t, exec i s = .next t ∧ t.pending = s.pending

/-- Frame of the control part: supply, flash, boot, Trail Map, facet states, margins, keys. Only the commands named in touchesControl can change it. -/
def Obligations.WorkLeavesControl : Prop :=
  ∀ (i : Instr) (s t : State), touchesControl i = false → exec i s = .next t → t.ctl = s.ctl

/-! ### The control window -/

/-- When a host write reaches its register: its width is admitted at the offset (R36: 4 B, aligned, outside SY; 8 B, aligned, in SY), the offset is
not reserved (R37), the block's ready bit is 1 (R440) and the Trail Map or R65 grants it (R54, R64). A write turned away is logged as a violation of
the kind of its fault, or counts in BU_EARLY_ACCESS where the block is not ready, and leaves everything else. -/
def Obligations.WriteAdmission : Prop :=
  ∀ (c : Ctl) (d : Dev) (fn off width : Nat),
    ((checkWrite c d fn off width).2 = true ↔
      (widthOk off width = true ∧ (width = 4 → ¬ inSync off)) ∧ blockCode off ≠ 0x0E ∧ blockReady c d off = true ∧
      writeRight c fn off = none ∧ isRegister off = true) ∧
    ((checkWrite c d fn off width).2 = true → (checkWrite c d fn off width).1 = d) ∧
    (widthOk off width = false ∨ (width = 4 ∧ inSync off) →
      checkWrite c d fn off width = (d.violate (hostViolation 6 (blockCode off) 0 fn off), false)) ∧
    (widthOk off width = true → ¬ inSync off → blockCode off ≠ 0x0E → blockReady c d off = false →
      checkWrite c d fn off width = (d.count (baseBU + 0xD8) 1, false)) ∧
    (∀ kind, widthOk off width = true → ¬ inSync off → blockCode off ≠ 0x0E → blockReady c d off = true → writeRight c fn off = some kind →
      checkWrite c d fn off width = (d.violate (hostViolation kind (blockCode off) 0 fn off), false))

/-- R65: without a Trail Map in effect, host function 0 may write BU, RG and HL, and no other host function may write anything. -/
def Obligations.WritesWithoutTrailMap : Prop :=
  ∀ (c : Ctl) (fn off : Nat), c.map = none →
    (writeRight c fn off = none ↔ fn = 0 ∧ (blockCode off = 0 ∨ blockCode off = 2 ∨ blockCode off = 5)) ∧
    (∀ d width, fn ≠ 0 → (checkWrite c d fn off width).2 = false)

/-- A host write that does not pass the checks has none of its command's effect: what the check leaves is all, for every command that is a host write. A request of a requester that
the EHA4 refuses reaches no check: it answers Unsupported Request and counts in HL (R427). -/
def Obligations.WritesTurnedAway : Prop :=
  ∀ (i : Instr) (s : State), Runs s →
    (∀ (fn : Fin 16) (off width : Nat), writeOf i = some (fn, off, width) → ¬ Foreign i s →
      (checkWrite s.ctl s.dev fn off width).2 = false → exec i s = .next { s with dev := (checkWrite s.ctl s.dev fn off width).1 }) ∧
    (Foreign i s → Leaves i s { s.dev.raise baseHL 4 (baseHL + 0x30) with reply := { error := true } })

/-- A register is a field of the state: setting one makes it read so, leaves the others, and keeps the register file's canonical form;
the register file at reset has it. -/
def Obligations.RegistersHoldWhatIsSet : Prop :=
  Sparse.wf none State.reset.dev.regs = true ∧
  ∀ (d : Dev) (off v x : Nat),
    (d.setReg off v).reg off = v ∧ (x ≠ off → (d.setReg off v).reg x = d.reg x) ∧
    (Sparse.wf none d.regs = true → Sparse.wf none (d.setReg off v).regs = true)

/-- R41 for every flag that the model raises: the set puts the flag's bit to 1 and adds 1 to its event counter, modulo 2^32, whether or not the flag
was set already; every other register stays. -/
def Obligations.FlagsCountTheirEvents : Prop :=
  ∀ (d : Dev) (off i cnt : Nat), off ≠ cnt → i < 32 →
    bit ((d.raise off i cnt).reg off) i = true ∧
    (d.raise off i cnt).reg cnt = (d.reg cnt + 1) % 2 ^ 32 ∧
    (∀ x, x ≠ off → x ≠ cnt → (d.raise off i cnt).reg x = d.reg x) ∧
    (∀ j, j < 32 → j ≠ i → bit ((d.raise off i cnt).reg off) j = bit (d.reg off) j)

/-- How a written value meets the access types of a register's fields (Table 1.7): a register with neither RW nor W1C fields is unchanged; one RW field
takes its bits; one W1C field loses the bits written 1. -/
def Obligations.WritesFollowAccessTypes : Prop :=
  ∀ (d : Dev) (off v : Nat),
    ((∀ f ∈ fieldsAt off, f.acc ≠ .rw ∧ f.acc ≠ .w1c) → writeFields d off v = d) ∧
    (∀ f, fieldsAt off = [f] → f.acc = .rw → writeFields d off v = d.setFld off f.hi f.lo (bits v f.hi f.lo)) ∧
    (∀ f, fieldsAt off = [f] → f.acc = .w1c → writeFields d off v =
      d.setFld off f.hi f.lo (bits (d.reg off) f.hi f.lo - (bits (d.reg off) f.hi f.lo &&& bits v f.hi f.lo)))

/-- REGISTER_WRITE of a requester that the EHA4 accepts, and SYNC_OBJECT_WRITE, admitted: a register of BU or PW takes the value by its access types; a scale register of the ME takes it and
loses its poison; an 8 B write of SY sets the object and clears its poison (R36, R362, R364). -/
def Obligations.RegisterWrites : Prop :=
  ∀ (s : State) (fn : Fin 16) (rid : BitVec 16) (v : BitVec 64), Runs s → s.dev.ridRefuses rid = false →
    let who : HostId := { fn := fn, rid := rid }
    (∀ off, off < baseRG → off ≠ baseBU + 0xC0 → Grants s fn off 4 →
      Leaves (.registerWrite who off 4 v) s (writeFields s.dev off (v.toNat % 2 ^ 32))) ∧
    (∀ (core : Fin 128) (i : Fin 4096), Grants s fn (baseCore core + 0x10000 + 4 * i) 4 →
      Leaves (.registerWrite who (baseCore core + 0x10000 + 4 * i) 4 v) s
        ((writeFields s.dev (baseCore core + 0x10000 + 4 * i) (v.toNat % 2 ^ 32)).updCore core
          (fun k => { k with me := { k.me with scalePoison := NatSet.del k.me.scalePoison i } }))) ∧
    (∀ o : Fin 131072, Grants s fn (syncOff o) 8 →
      Leaves (.registerWrite who (syncOff o) 8 v) s (hostSyncSet s.dev o v.toNat) ∧
      Leaves (.syncObjectWrite fn o v) s (hostSyncSet s.dev o v.toNat))

/-- Reads of the control window by a requester that the EHA4 accepts, for every host function whatever the Trail Map grants (R33, R36, R37, R440): another width or alignment is a violation
and answers all ones with an error; a block that is not ready answers 0 and counts in BU_EARLY_ACCESS; SY answers the object's value, or a half of it; a
reserved offset answers 0; the low half of a latched pair answers its value and latches the other half, which a read of that half then answers (R28); a
read clears the RC fields (R44); AG_HIST_DATA answers the next word of the indexed record (R445). -/
def Obligations.WindowReads : Prop :=
  ∀ (s : State) (fn : Fin 16) (rid : BitVec 16) (off width : Nat), Runs s → s.dev.ridRefuses rid = false →
    let who : HostId := { fn := fn, rid := rid }
    (widthOk off width = false →
      Leaves (.controlWindowRead who off width) s ((s.dev.violate (hostViolation 6 (blockCode off) 0 fn off)).answerError width)) ∧
    (widthOk off width = true → blockReady s.ctl s.dev off = false →
      Leaves (.controlWindowRead who off width) s ((s.dev.count (baseBU + 0xD8) 1).answer 0)) ∧
    (∀ o : Fin 131072, Leaves (.controlWindowRead who (syncOff o) 8) s (s.dev.answer (s.dev.syncObj o).value) ∧
      Leaves (.controlWindowRead who (syncOff o) 4) s (s.dev.answer ((s.dev.syncObj o).value % 2 ^ 32)) ∧
      Leaves (.controlWindowRead who (syncOff o + 4) 4) s (s.dev.answer ((s.dev.syncObj o).value / 2 ^ 32))) ∧
    (off % 4 = 0 → ¬ inSync off → blockReady s.ctl s.dev off = true → (fieldsAt off).isEmpty = true →
      Leaves (.controlWindowRead who off 4) s (s.dev.answer 0)) ∧
    (Leaves (.latchedHalfRead fn 0x10) s
      ({ s.dev with latch := Sparse.set 0 s.dev.latch 0x14 (regNow s.ctl s.dev 0x14) }.answer (regNow s.ctl s.dev 0x10)) ∧
      regNow s.ctl s.dev 0x10 % 2 ^ 32 = s.dev.ltc % 2 ^ 32 ∧ regNow s.ctl s.dev 0x14 % 2 ^ 32 = s.dev.ltc / 2 ^ 32 % 2 ^ 32) ∧
    (Leaves (.controlWindowRead who 0x14 4) s (s.dev.answer (Sparse.get 0 s.dev.latch 0x14))) ∧
    (off % 4 = 0 → ¬ inSync off → blockReady s.ctl s.dev off = true → (fieldsAt off).any (fun f => decide (f.acc = .rc)) = true →
      isLatched off = false → viewFree s.dev off = false → latchTargets off = [] → off ≠ baseAG + 0x44 → off ≠ baseRG + 0x1040 →
      Leaves (.rcFieldRead fn off) s ((clearRc s.dev off).answer (regNow s.ctl s.dev off))) ∧
    (∀ r, blockReady s.ctl s.dev (baseAG + 0x44) = true → (s.ctl.flash.history.drop s.ctl.histIndex).head? = some r → s.ctl.histWord < 432 →
      LeavesBoth (.agHistDataRead fn) s
        ({ s.ctl with histWord := s.ctl.histWord + 1 }, s.dev.answer (le r.bytes (4 * s.ctl.histWord) 4)))

/-! ### Trail Map and facets -/

/-- The phases of a Trail Map load that is accepted (R69, R71, R76, R47, R79): LOAD starts one where none is in progress; the image is read and becomes
Ranger's own copy, the checks pass, a persistent load is written to the flash bank that does not hold the map in effect and raises both floor copies,
and the map takes effect. At boot the map is taken from flash (R68). A load from host memory reads the header first, then the image, of the length that an admissible
header gives, from the address in RG_TM_SRC. -/
def Obligations.TrailMapLoadPhases : Prop :=
  ∀ s : State, Runs s →
    (∀ (fn : Fin 16) (val : Word), Grants s fn (baseRG + 0x100) 4 → s.ctl.load = none →
      LeavesBoth (.load fn val) s
        ({ s.ctl with load := some {
            fromHost := bit (setBit val.toNat 0 true) 1, persist := bit (setBit val.toNat 0 true) 2, keys := s.ctl.flash.keys } },
         let d := writeRw s.dev (baseRG + 0x100) (setBit val.toNat 0 true)
         if bit val.toNat 1 then d.hostGet d.imageSource 32 else d)) ∧
    (∀ l image, s.ctl.load = some l → l.phase = .reading → l.fromHost = true → s.ctl.keyBusy = false →
      LeavesBoth (.tmImageReadDone true image) s
        (resumeWaiting { s.ctl with load := some { l with phase := .checking, image := wholeImage image, keys := s.ctl.flash.keys } },
          if (headerCheck image).isNone then s.dev.hostGet s.dev.imageSource (tmLength image) else s.dev)) ∧
    (∀ l, s.ctl.load = some l → l.phase = .checking → l.fromHost = true → imageCheck s.ctl true l.keys l.image = none →
      LeavesBoth .tmChecksEnd s ({ s.ctl with load := some { l with phase := if l.persist then .flashWrite else .applying } }, s.dev)) ∧
    (∀ l b, s.ctl.load = some l → l.phase = .flashWrite → s.ctl.mapBank = some b →
      LeavesBoth (.tmFlashWriteDone true) s
        ({ s.ctl with
            load := some { l with phase := .applying, bank := if b = 0 then 1 else 0 }
            flash := { s.ctl.flash with
              bank := modNth (fun _ => l.image) (if b = 0 then 1 else 0) s.ctl.flash.bank
              floor := [some (max s.ctl.flash.floorOf (le l.image 0x10 8)), some (max s.ctl.flash.floorOf (le l.image 0x10 8))] } }, s.dev)) ∧
    (∀ l, s.ctl.load = some l → l.phase = .applying →
      LeavesBoth .tmApplyDone s
        (loadEnded (applyMap s.ctl s.dev (parseTrailMap l.image) (if l.fromHost && !l.persist then none else some l.bank)).1
          (applyMap s.ctl s.dev (parseTrailMap l.image) (if l.fromHost && !l.persist then none else some l.bank)).2)) ∧
    (∀ i, s.ctl.stage = .firmware → s.ctl.map = none → s.ctl.load = none → s.ctl.flash.floor.any (·.isSome) = true →
      flashChoice s.ctl s.ctl.flash.keys s.ctl.readable = ([], some i) →
      let r := applyMap s.ctl s.dev (parseTrailMap (wholeImage (bankBytes (nth [] s.ctl.flash.bank i)))) (some i)
      LeavesBoth .bootTrailMapLoad s (r.1, r.2.irq 4146))

/-- A load that fails a check is refused (R71): the load has ended, its code and fault offset are recorded, and the Trail Map in effect, the flash
banks, the floor and the facets' key pairs stay. -/
def Obligations.RefusedLoadKeepsTheMap : Prop :=
  ∀ (s : State) (l : TmLoad) (e : Nat × Nat), Runs s → s.ctl.load = some l → l.phase = .checking → l.fromHost = true →
    imageCheck s.ctl true l.keys l.image = some e →
    ∃ t, exec .tmChecksEnd s = .next t ∧ t.ctl.load = none ∧ t.ctl.refuseCode = e.1 ∧ t.ctl.faultOffset = e.2 ∧ t.ctl.map = s.ctl.map ∧
      t.ctl.mapBank = s.ctl.mapBank ∧ t.ctl.flash.bank = s.ctl.flash.bank ∧ t.ctl.flash.floor = s.ctl.flash.floor ∧ t.ctl.keyEpoch = s.ctl.keyEpoch

/-- The states of facets (R73, R78): a drain write puts exactly the RUNNING facets among its bits to DRAINING; a resume write, with no load in progress,
puts exactly the DRAINING and DRAINED ones among its bits back to RUNNING; a DRAINING facet with nothing left becomes DRAINED. -/
def Obligations.FacetStates : Prop :=
  ∀ (s : State) (fn : Fin 16) (b : BitVec 16), Runs s → s.ctl.facetState.length = 16 →
    (Grants s fn (baseRG + 0x128) 4 →
      ∃ t, exec (.facetDrain fn b) s = .next t ∧ t.dev = s.dev ∧
        ∀ f, f < 16 → t.ctl.fstate f = if bit b.toNat f ∧ s.ctl.fstate f = .running then .draining else s.ctl.fstate f) ∧
    (Grants s fn (baseRG + 0x12C) 4 → s.ctl.load = none →
      ∃ t, exec (.facetResume fn b) s = .next t ∧ t.dev = s.dev ∧
        ∀ f, f < 16 → t.ctl.fstate f =
          if bit b.toNat f ∧ (s.ctl.fstate f = .draining ∨ s.ctl.fstate f = .drained) then .running else s.ctl.fstate f) ∧
    (∀ f : Fin 16, s.ctl.fstate f = .draining → facetBusy s.ctl s.dev f = false →
      LeavesBoth (.drained f) s ({ s.ctl with facetState := modNth (fun _ => .drained) f s.ctl.facetState }, s.dev))

/-! ### Ops of task programs -/

/-- The sequencer passes a GE_BASKET or an op of the Vector Engine or the DMA engine to the engine's queue where it has room (R350); an op of the Vector Engine or the DMA engine waits while the
queue is full. An op of the Vector Engine at the head of its queue starts as soon as it can (R217). -/
def Obligations.OpsEnterTheirQueues : Prop :=
  ∀ (s : State) (core : Fin 128) (t : Task) (op : Nat), Runs s →
    (Ready s core 0x50 .ge t op → Leaves (.geBasket core) s (issued s.dev core .ge t op)) ∧
    (Ready s core 0x30 .ve t op → Leaves (.veChain core) s ((issued s.dev core .ve t op).veStart s.ctl core)) ∧
    (Ready s core 0x31 .ve t op → Leaves (.veLoad core) s ((issued s.dev core .ve t op).veStart s.ctl core)) ∧
    (Ready s core 0x32 .ve t op → Leaves (.veStore core) s ((issued s.dev core .ve t op).veStart s.ctl core)) ∧
    (Ready s core 0x33 .ve t op → Leaves (.veFill core) s ((issued s.dev core .ve t op).veStart s.ctl core)) ∧
    (Ready s core 0x34 .ve t op → Leaves (.veLive core) s ((issued s.dev core .ve t op).veStart s.ctl core)) ∧
    (Ready s core 0x60 .dma t op → Leaves (.dmaCopy core) s (issued s.dev core .dma t op)) ∧
    (Ready s core 0x61 .dma t op → Leaves (.dmaTensor core) s (issued s.dev core .dma t op)) ∧
    (Ready s core 0x62 .dma t op → Leaves (.dmaRelay core) s (issued s.dev core .dma t op)) ∧
    (8 ≤ (s.dev.core core).ve.queue.length → ∀ i ∈ [Instr.veChain core, .veLoad core, .veStore core, .veFill core, .veLive core],
      Leaves i s (s.dev.veStart s.ctl core)) ∧
    (8 ≤ (s.dev.core core).dma.queue.length → ∀ i ∈ [Instr.dmaCopy core, .dmaTensor core, .dmaRelay core], Leaves i s s.dev)

/-- The control ops that count and branch (R352), with no reserved bit set: SETC and ADDC give the counter its value modulo 2^32, BR, BRC and LOOP choose
between the next op and the branch target, END ends the task with OK once its ops have completed; LDC, outside replay, reads a word of Core Store as it stands (R351) and
records it (R466). Each retires as one op. -/
def Obligations.CountersAndBranches : Prop :=
  ∀ (s : State) (core : Fin 128) (t : Task) (op : Nat), Runs s →
    (s.dev.curOp core 1 = some (t, op) → opClean op [] = true →
      Leaves (.endOp core) s ((s.dev.ctlDone core t (t.pc + 32)).endWith core 0)) ∧
    (s.dev.curOp core 2 = some (t, op) → opClean op [(1, 2, 0), (4, 31, 0)] = true →
      Leaves (.setc core) s ((s.dev.setCounter core (opf op 1 2 0) (opn op 4 4)).ctlDone core t (t.pc + 32))) ∧
    (s.dev.curOp core 3 = some (t, op) → opClean op [(1, 2, 0), (4, 31, 0)] = true →
      Leaves (.addc core) s ((s.dev.setCounter core (opf op 1 2 0) (t.counter (opf op 1 2 0) + opn op 4 4)).ctlDone core t (t.pc + 32))) ∧
    (s.dev.curOp core 4 = some (t, op) → opClean op [(1, 6, 0), (4, 22, 0)] = true →
      let a := opf op 4 22 0 + (if opt op 1 3 then 4 * t.counter (opf op 1 6 4) else 0)
      a % 4 = 0 → a + 4 ≤ storeBytes → s.dev.forced s.ctl t.own.ch 5 = false → anyPoison ((s.dev.core core).csRead a 4) = false →
      let v := leNat (plain ((s.dev.core core).csRead a 4))
      Leaves (.ldc core) s
        (((s.dev.tripFor s.ctl t.own 5 0 core 0 (toLe 8 t.pc ++ toLe 1 4 ++ toLe 1 (opf op 1 2 0) ++ zeros 2 ++ toLe 4 v)).setCounter core
          (opf op 1 2 0) v).ctlDone core t (t.pc + 32))) ∧
    (s.dev.curOp core 5 = some (t, op) → opClean op [(1, 4, 0), (2, 15, 0)] = true →
      Leaves (.br core) s (s.dev.ctlDone core t
        (if opt op 1 4 = true ∨ bit t.p (opf op 1 2 0) = opt op 1 3 then branchTarget t.pc op else t.pc + 32))) ∧
    (s.dev.curOp core 6 = some (t, op) → opClean op [(1, 2, 0), (1, 6, 4), (2, 15, 0), (4, 31, 0)] = true → opf op 1 6 4 ≤ 3 →
      Leaves (.brc core) s (s.dev.ctlDone core t
        (if brcHolds (opf op 1 6 4) (t.counter (opf op 1 2 0)) (opn op 4 4) then branchTarget t.pc op else t.pc + 32))) ∧
    (s.dev.curOp core 7 = some (t, op) → opClean op [(1, 2, 0), (2, 15, 0)] = true →
      let v := (t.counter (opf op 1 2 0) + (2 ^ 32 - 1)) % 2 ^ 32
      Leaves (.loop core) s ((s.dev.setCounter core (opf op 1 2 0) v).ctlDone core t (if v = 0 then t.pc + 32 else branchTarget t.pc op)))

/-- A SETC, FENCE or RELAY_RING with a reserved bit set is refused with BAD_FIELD (R352): the op and its address stand in the sequencer's error registers, the refusal is
a violation with the op's virtual address, and the task issues nothing further. -/
def Obligations.ReservedOpBitsAreRefused : Prop :=
  ∀ (s : State) (core : Fin 128) (t : Task) (op : Nat), Runs s →
    (s.dev.curOp core 2 = some (t, op) → opClean op [(1, 2, 0), (4, 31, 0)] = false →
      Leaves (.setc core) s (s.dev.sqRefuse core t op 2 (opViolation s.ctl core 0 3 2 t.pc t.as))) ∧
    (s.dev.curOp core 8 = some (t, op) → opClean op [(1, 5, 0)] = false →
      Leaves (.fence core) s (s.dev.sqRefuse core t op 2 (opViolation s.ctl core 0 3 2 t.pc t.as))) ∧
    (s.dev.curOp core 0xD = some (t, op) → opClean op [(1, 0, 0), (4, 31, 0)] = false →
      Leaves (.relayRing core) s (s.dev.sqRefuse core t op 2 (opViolation s.ctl core 0 3 2 t.pc t.as)))

/-- The ops that order work (R351, R359, R362, R363), with no reserved bit set and an object of the core's facet: FENCE waits for the earlier ops of the masked engines, and is
released when the last has completed; WAIT goes on, waits or ends with SYNC_POISON by the object; SIGNAL with mask 0 acts at once, otherwise it is
deferred and acts when the earlier ops of its engines have completed; OWN, outside replay, claims or releases the tag and gives its predicate; RELAY_RING frees or rewinds. -/
def Obligations.OrderingOps : Prop :=
  ∀ (s : State) (core : Fin 128) (t : Task) (op : Nat), Runs s →
    let next := s.dev.ctlDone core t (t.pc + 32)
    let o := opf op 4 16 0
    (s.dev.curOp core 8 = some (t, op) → opClean op [(1, 5, 0)] = true →
      let n := (s.dev.seq core).nextId
      Leaves (.fence core) s (if s.dev.drainedFor core t.own (opf op 1 5 0) n then next
        else next.updSeq core (fun q => { q with wait := .fence (opf op 1 5 0) n }))) ∧
    (∀ m n, (s.dev.seq core).task = some t → (s.dev.seq core).wait = .fence m n → s.dev.drainedFor core t.own m n = true →
      Leaves (.fenceRelease core) s (s.dev.updSeq core (fun q => { q with wait := .none }))) ∧
    (s.dev.curOp core 9 = some (t, op) → opClean op [(1, 4, 0), (4, 16, 0), (8, 63, 0)] = true → s.ctl.syncFacet o = s.ctl.coreFacet core →
      Leaves (.wait core) s (next.waitOn core o
        ((opn op 8 8 + (if opt op 1 1 then t.counter (opf op 1 4 2) else 0)) % 2 ^ 64) (opt op 1 0))) ∧
    (s.dev.curOp core 0xA = some (t, op) → opClean op [(1, 0, 0), (2, 5, 0), (4, 16, 0), (8, 63, 0)] = true →
      s.ctl.syncFacet o = s.ctl.coreFacet core →
      Leaves (.signal core) s (if opf op 2 5 0 = 0 then next.actSignal (opt op 1 0) o (opn op 8 8)
        else next.updSeq core (fun q => { q with deferred := q.deferred ++
          [{ own := t.own, set := opt op 1 0, mask := opf op 2 5 0, sync := o, operand := opn op 8 8, before := q.nextId }] }))) ∧
    (∀ x rest, (s.dev.seq core).deferred = x :: rest → s.dev.drainedFor core x.own x.mask x.before = true →
      Leaves (.signalDeferredAct core) s ((s.dev.updSeq core (fun q => { q with deferred := q.deferred.eraseIdx 0 })).actSignal x.set x.sync x.operand)) ∧
    (s.dev.curOp core 0xB = some (t, op) → opClean op [(1, 0, 0), (1, 6, 4), (4, 16, 0)] = true → s.ctl.syncFacet o = s.ctl.coreFacet core →
      s.dev.forced s.ctl t.own.ch 5 = false →
      let x := s.dev.syncObj o
      let v := if ownSucceeds x (opt op 1 0) core then 1 else 0
      Leaves (.own core) s
        (((({ s.dev with sync := Sparse.set {} s.dev.sync o (ownTag x (opt op 1 0) core) }).tripFor s.ctl t.own 5 0 core 0
            (toLe 8 t.pc ++ toLe 1 0xB ++ toLe 1 (opf op 1 6 4) ++ zeros 2 ++ toLe 4 v)).setPred core (opf op 1 6 4) (v == 1)).ctlDone core t (t.pc + 32))) ∧
    (s.dev.curOp core 0xD = some (t, op) → opClean op [(1, 0, 0), (4, 31, 0)] = true →
      (opt op 1 0 = true → Leaves (.relayRing core) s
        ((s.dev.updCore core (fun k => { k with readPos := k.freed })).ctlDone core t (t.pc + 32))) ∧
      (opt op 1 0 = false → (s.dev.core core).freed + opn op 4 4 ≤ (s.dev.core core).readPos → s.dev.relayFull core = false → Leaves (.relayRing core) s
        ((s.dev.updCore core (fun k => { k with freed := k.freed + opn op 4 4 })).ctlDone core t (t.pc + 32))))

/-- Operations on sync objects (R362, R364): ADD adds modulo 2^64, SET sets; either leaves owner, poison and every other object; a host SET of 8 B clears
the poison. OWN (R363): a claim succeeds on an object without owner or already the core's, a release on the core's own; a failure leaves the object, a success
the value and the poison (that a release of an object that the core's Expander mirrors leaves it owned is the model's reading, log entry 15). -/
def Obligations.SyncOperations : Prop :=
  (∀ (x : SyncObj) (claim : Bool) (core : Nat),
     (ownSucceeds x claim core = true ↔ x.owner = some core ∨ (claim = true ∧ x.owner = none)) ∧
     (ownSucceeds x claim core = false → ownTag x claim core = x) ∧
     (ownSucceeds x true core = true → ownTag x true core = { x with owner := some core }) ∧
     (ownSucceeds x false core = true → x.mirror = false → ownTag x false core = { x with owner := none }) ∧
     (ownTag x claim core).value = x.value ∧ (ownTag x claim core).poison = x.poison) ∧
  (∀ (d : Dev) (o v x : Nat),
     ((d.syncSet o v).syncObj o).value = v % 2 ^ 64 ∧ ((d.syncAdd o v).syncObj o).value = ((d.syncObj o).value + v) % 2 ^ 64 ∧
     ((d.syncSet o v).syncObj o).owner = (d.syncObj o).owner ∧ ((d.syncSet o v).syncObj o).poison = (d.syncObj o).poison ∧
     (x ≠ o → (d.syncSet o v).syncObj x = d.syncObj x) ∧
     ((d.syncAdd o v).syncObj o).owner = (d.syncObj o).owner ∧ ((d.syncAdd o v).syncObj o).poison = (d.syncObj o).poison ∧
     (x ≠ o → (d.syncAdd o v).syncObj x = d.syncObj x) ∧
     ((hostSyncSet d o v).syncObj o).value = v % 2 ^ 64 ∧ ((hostSyncSet d o v).syncObj o).poison = false ∧
     (x ≠ o → (hostSyncSet d o v).syncObj x = d.syncObj x))

/-- Op fetch, self-enqueue and the end of a task (R346, R350, R358, R360, R366): a burst that has been read, is not poisoned and begins with a known opcode
fills the buffer; an ENQUEUE that succeeds outside replay makes the new task ready and sets its predicate to 1; a task that is ending, and that nothing of its own holds, ends;
where no other core's task ends with it, the boundary is this core's (R375, log entry 129). -/
def Obligations.FetchEnqueueAndEnd : Prop :=
  ∀ (s : State) (core : Fin 128) (t : Task), Runs s →
    (∀ d1 ps d2 b, s.dev.issuing core = some t → (s.dev.seq core).buf.any (fun e => e.1 == t.pc) = false →
      let n := min 64 ((65536 - t.pc % 65536) / 32)
      s.dev.resolve s.ctl core 0 t.as t.pc (32 * n) false = (d1, some ps) →
      d1.fetchPieces s.ctl (whoCore core 0 (s.ctl.facetOfCore core)) core 0 t.as none 0 ps = (d2, some b) →
      (ps.head?.map (fun p => p.tr.isNone)).getD false = false → anyPoison (b.take 32) = false →
      opKnown (leNat (plain (b.take 32)) % 256) = true →
      Leaves (.opFetch core) s ((d2.doneOutside core 0).updSeq core (fun q => { q with buf := burstOps t.pc n b }))) ∧
    (∀ op, s.dev.curOp core 0xC = some (t, op) → opClean op [(1, 2, 0), (2, 7, 0), (3, 7, 0), (8, 51, 0)] = true →
      let q := opb op 2
      let named := opb op 3
      let va := opf op 8 51 0
      va % 32 = 0 → s.ctl.queueFacet q = s.ctl.coreFacet core → (named = 0xFF ∨ s.ctl.coreFacet named = s.ctl.coreFacet core) →
      s.dev.forced s.ctl t.own.ch 6 = false → s.dev.enqueueFails t q = none →
      let num := (s.dev.launchOf t.own).nextTask
      Leaves (.enqueue core) s
        (((((s.dev.enqueueTask s.ctl core t q num va named).tripFor s.ctl t.own 6 0 core 0
          (toLe 8 t.pc ++ toLe 1 q ++ toLe 1 named ++ toLe 1 1 ++ zeros 1 ++ toLe 4 num ++ toLe 8 va ++ zeros 8)).setPred core (opf op 1 2 0) true).ctlDone
          core t (t.pc + 32)))) ∧
    ((s.dev.seq core).task = some t → t.ending = true → s.dev.mayEnd core t = true →
      let d := (s.dev.mergeClose core t.own).endTask core t t.status
      LeavesBoth (.taskEnd core) s (boundaries s.ctl s.dev d) ∧
      ((s.dev.cores.map (·.1)).filter (fun n => s.dev.endedOn d n) = [core.val] →
        LeavesBoth (.taskEnd core) s (s.ctl.persistBin (boundary s.ctl d core) core, d.binEvent s.ctl (boundary s.ctl d core) core)))

/-- The dispatcher (R376 to R382): a free core takes what the serving rule chooses, a ready task or a saved one; a ready task that finds no free core it may run on
asks for the victim of the rule, which issues nothing further; the victim is saved once its engines have settled and no requester of its core waits on a fault
entry (R317). -/
def Obligations.Dispatcher : Prop :=
  ∀ (s : State) (core : Fin 128), Runs s →
    (∀ i r, coreFree s.ctl s.dev core = true → nextWork s.ctl s.dev core = .place i r →
      Leaves (.taskPlace core) s (s.dev.placeTask s.ctl core i r)) ∧
    (∀ v, coreFree s.ctl s.dev core = true → nextWork s.ctl s.dev core = .resume v →
      Leaves (.taskPlace core) s (s.dev.resumeOn s.ctl core v) ∧ Leaves (.taskResume core) s (s.dev.resumeOn s.ctl core v)) ∧
    (coreFree s.ctl s.dev core = false → Leaves (.taskPlace core) s s.dev ∧ Leaves (.taskResume core) s s.dev) ∧
    (∀ n r m, (s.dev.ready.drop n).head? = some r → r.asked = false →
      (s.ctl.facetCores r.facet).any (fun m => r.mayRun s.ctl m && coreFree s.ctl s.dev m) = false →
      victimOf s.dev ((s.ctl.facetCores r.facet).filter (fun m => victimOk s.ctl s.dev r m)) = some m →
      Leaves (.preemptRequest n) s { s.dev.updSeq m (fun q => { q with stopping := true }) with
        ready := modNth (fun r => { r with asked := true, core := m }) n s.dev.ready }) ∧
    (∀ t latency, (s.dev.seq core).task = some t → (s.dev.seq core).stopping = true → (s.dev.core core).settled = true →
      s.dev.coreFaults core = false →
      let b := baseSQ core
      let d := ((s.dev.saveTask core t).count (baseVE core + 0x60) (4 * popCount 32 (s.dev.core core).ve.live)).raise (b + 0x84) 0 (b + 0x88)
      let l := min latency (2 ^ 32 - 1)
      Leaves (.preemptSave core latency) s
        (((d.setReg (b + 0x8C) l).setReg (b + 0x90) (max ((d.setReg (b + 0x8C) l).reg (b + 0x90)) l)).count (baseFE + 0x109004 + 0x40 * s.ctl.facetOfCore core) 1))

/-- The choice of a victim (R377): among cores it is one of them, and no other comes before it by the three keys: no other runs a task of a lower level, none of the same
level was placed later, and none of those has a higher core number. -/
def Obligations.VictimIsTheLowestLevel : Prop :=
  ∀ (d : Dev) (l : List Nat) (m : Nat), victimOf d l = some m →
    m ∈ l ∧ ∀ n ∈ l,
      let a := ((d.seq m).task).getD {}
      let b := ((d.seq n).task).getD {}
      a.level < b.level ∨ (a.level = b.level ∧ (b.placed < a.placed ∨ (b.placed = a.placed ∧ n ≤ m)))

/-- A host write of SQ_RELAY or SQ_SAVE (R359, R379): it takes effect while the ring is empty with nothing landing, and while no task is saved and the
area stays inside Core Store; otherwise it is dropped and logged. -/
def Obligations.SequencerRegisterWrites : Prop :=
  ∀ (s : State) (fn : Fin 16) (core : Fin 128) (val : Word), Runs s →
    (Grants s fn (baseSQ core + 0x30) 4 →
      ((s.dev.core core).arrived = (s.dev.core core).freed → (s.dev.core core).landing = [] →
        Leaves (.sqRelayWrite fn core val) s (writeFields s.dev (baseSQ core + 0x30) val.toNat)) ∧
      ((s.dev.core core).arrived ≠ (s.dev.core core).freed ∨ (s.dev.core core).landing ≠ [] →
        Leaves (.sqRelayWrite fn core val) s (dropWrite s.dev 4 fn (baseSQ core + 0x30)))) ∧
    (Grants s fn (baseSQ core + 0x80) 4 →
      ((s.dev.core core).saved = [] → (bit val.toNat 31 = true → bits val.toNat 10 0 + 99 ≤ 1536) →
        Leaves (.sqSaveWrite fn core val) s (writeFields s.dev (baseSQ core + 0x80) val.toNat)) ∧
      ((s.dev.core core).saved ≠ [] → Leaves (.sqSaveWrite fn core val) s (dropWrite s.dev 4 fn (baseSQ core + 0x80))) ∧
      ((s.dev.core core).saved = [] → bit val.toNat 31 = true → 1536 < bits val.toNat 10 0 + 99 →
        Leaves (.sqSaveWrite fn core val) s (dropWrite s.dev 1 fn (baseSQ core + 0x80))))

/-! ### Gather Engine and tables -/

/-- What a basket does at its requester and at an owner (R92 to R102, R384): a GE_BASKET at the head of the GE's queue starts, and the basket whose turn it is
reads entries up to its next packet; an index list joins the lists that
an owner holds; an owner starts a round of a list whose chain is not missing; a row of an unpooled list whose entry was read poisoned is delivered as poisoned zeros; a round whose
rows and forwards are done writes its statistics and ends. -/
def Obligations.BasketProgress : Prop :=
  ∀ (s : State) (core : Fin 128), Runs s →
    (∀ q rest, (s.dev.ge core).queue = q :: rest → q.op % 256 = 0x50 → s.dev.withheld core q = false →
      let d := s.dev.basketStart s.ctl core q
      (d.readsFor core = none → Leaves (.basketStart core) s d) ∧
      (∀ b r, d.readsFor core = some (b, r) → Leaves (.basketStart core) s (d.intake s.ctl core b.num r (opEntries b.op.op - r.n)))) ∧
    (∀ b r, (s.dev.ge core).queue = [] → s.dev.readsFor core = some (b, r) →
      Leaves (.basketStart core) s (s.dev.intake s.ctl core b.num r (opEntries b.op.op - r.n))) ∧
    (∀ x rest h l last, takeMsg (fun m => match m with | .list .. => true | _ => false) (s.dev.ge core).inbox = some (x, rest) →
      x.m = .list h l last → Leaves (.indexListArrival core) s (s.dev.listArrive s.ctl core x rest h l last)) ∧
    (∀ l d1 l1 b, (s.dev.ge core).nextList? = some l → s.dev.listChain s.ctl core l = (d1, l1) → l1.chain = some b →
      chainUse b.1 b.2 ≠ .missing → Leaves (.ownerRoundStart core) s ((d1.roundStart s.ctl core l1).doneOutside core 2)) ∧
    (∀ n l w, (s.dev.ge core).rowsOut.head?.map (fun x => x.2.got.isSome) = some false →
      ((s.dev.ge core).rowsOut.drop n).head? = some (l, w) → w.got = none → w.poison = true → l.h.unpooled = true →
      Leaves (.rowFetchComplete core n) s
        ((s.dev.deliverRow s.ctl core l (marked true (zeros w.width)) w.groups).updList core l.num
          (fun l => { l with rows := l.rows.filterMap (fun r => if r = w then none else some r) }))) ∧
    (∀ l d1, (s.dev.ge core).lists.find? (fun l => l.round.isSome && (l.rows.isEmpty && l.fwds.isEmpty)) = some l →
      s.dev.writeStats s.ctl core l.num l.h.as l.stats = (d1, true) →
      Leaves (.ownerRoundEnd core) s (((d1.doneOutside core 2).updList core l.num (fun l => { l with round := none })).listCheck s.ctl core l.num))

/-- Messages between Gather Engines (R95, R98 to R103): a forward that the core may serve becomes a list, its acknowledgement ends it at the core that sent it; a partial
joins the requester's ring with the flag of the first of its bag, a flagged record and a list-end are taken into the basket, an unpooled row is written at its
positions; a basket with nothing left writes its report and its op completes. -/
def Obligations.BasketMessages : Prop :=
  ∀ (s : State) (core : Fin 128), Runs s →
    (∀ x rest h rows, takeMsg (fun m => match m with | .forward .. => true | _ => false) (s.dev.ge core).inbox = some (x, rest) →
      x.m = .forward h rows →
      let d := (s.dev.updGe core (fun g => { g with inbox := rest })).unusedAs s.ctl h.as x.port h.bk
      d.ownerCheck s.ctl core h.as x.port = none →
      Leaves (.forwardArrival core) s (d.addList s.ctl core { port := x.port, h := h, fwdRows := rows, ended := true })) ∧
    (∀ x rest rcv n counts l rows, takeMsg (fun m => match m with | .forwardAck .. => true | _ => false) (s.dev.ge core).inbox = some (x, rest) →
      x.m = .forwardAck rcv n 0 counts →
      let d := s.dev.updGe core (fun g => { g with inbox := rest })
      d.list? core rcv.num = some l → l.fwds.find? (fun f => f.1 == n) = some (n, rows) →
      Leaves (.forwardAckArrival core) s (d.updList core l.num (fun l => { l with
        fwds := l.fwds.filter (fun f => f.1 ≠ n)
        counts := [nth 0 l.counts 0 + nth 0 counts 0, nth 0 l.counts 1, nth 0 l.counts 2, nth 0 l.counts 3 + nth 0 counts 3] }))) ∧
    (∀ x rest bk r b d1, takeMsg (fun m => (match m with | .partialRec bk _ => some bk | _ => none : Option BasketRef).isSome) (s.dev.ge core).inbox =
        some (x, rest) → x.m = .partialRec bk r → (s.dev.ge core).baskets.find? (fun b => b.num == bk.num) = some b →
      s.dev.ringRoom core r.data.length = true → (s.dev.ge core).rowsOut.any (fun x => x.2.got.isSome) = false →
      (s.dev.updGe core (fun g => { g with inbox := rest })).zeroFill s.ctl core b = (d1, true) →
      let key := bagKey r.sample r.bag
      let first := !NatSet.has b.first key
      Leaves (.partialArrival core) s ((d1.updBasket core b.num (fun b => { b with
          first := NatSet.ins b.first key
          satBags := if bit r.flags 1 then NatSet.ins b.satBags key else b.satBags })).ringPut core false b.num
            { r with flags := if first then r.flags ||| 4 else r.flags })) ∧
    (∀ x rest bk r b, takeMsg (fun m => (match m with | .flagged bk _ => some bk | .listError bk .. => some bk | _ => none : Option BasketRef).isSome)
        (s.dev.ge core).inbox = some (x, rest) → x.m = .flagged bk r → (s.dev.ge core).baskets.find? (fun b => b.num == bk.num) = some b →
      s.dev.ringRoom core r.data.length = true → (s.dev.ge core).rowsOut.any (fun x => x.2.got.isSome) = false →
      Leaves (.flaggedRecordArrival core) s
        (((s.dev.updGe core (fun g => { g with inbox := rest })).updBasket core b.num (fun b => b.flag r)).ringPut core false b.num r)) ∧
    (∀ x rest bk o n counts b, takeMsg (fun m => (match m with | .listEnd bk _ _ _ => some bk | _ => none : Option BasketRef).isSome) (s.dev.ge core).inbox =
        some (x, rest) → x.m = .listEnd bk o n counts → (s.dev.ge core).baskets.find? (fun b => b.num == bk.num) = some b →
      Leaves (.listEndRecordArrival core) s ((s.dev.updGe core (fun g => { g with inbox := rest })).updBasket core b.num (fun b => { b with
        open_ := b.open_.filter (fun y => !(y.1 == o && y.2.1 == n))
        counts := modNth (· + nth 0 counts 3) 4 (modNth (· + nth 0 counts 0) 6 (modNth (· + nth 0 counts 1) 7 (modNth (· + nth 0 counts 2) 8 b.counts))) }))) ∧
    (∀ x rest bk bags pos data poison b d1, takeMsg (fun m => (match m with | .row bk .. => some bk | _ => none : Option BasketRef).isSome)
        (s.dev.ge core).inbox = some (x, rest) → x.m = .row bk bags pos data poison → (s.dev.ge core).baskets.find? (fun b => b.num == bk.num) = some b →
      let row := (data.zipIdx.map (fun y => (y.1, nth false poison (y.2 / 64)))).take (opPos b.op.op)
      let bad := poison.contains true
      (s.dev.updGe core (fun g => { g with inbox := rest })).writePositions s.ctl core b.op row pos = (d1, true) →
      Leaves (.unpooledRowArrival core) s ((d1.markIf bad b.op.own 0).updBasket core b.num (fun b => { b with
        poisonBags := if bad then bags.foldl NatSet.ins b.poisonBags else b.poisonBags
        truncated := if opPos b.op.op < data.length then b.truncated + 1 else b.truncated }))) ∧
    (∀ b d1 d2, (s.dev.ge core).baskets = [b] → b.reading = none → b.open_ = [] → (s.dev.ge core).ring = [] → (s.dev.ge core).inbox = [] →
      s.dev.zeroFill s.ctl core b = (d1, true) →
      d1.geWrite s.ctl core b.op.as (some b.op.own) (opOutVa b.op.op) (marked false b.report) = (d2, true) →
      Leaves (.basketComplete core) s
        (((((d2.updGe core (fun g => { g with baskets := g.baskets.filter (fun x => x.num ≠ b.num) })).count (baseGE core + 0x40) 1).doneOutside core 2).geSignal
          s.ctl core (opBasketSync b.op.op)).opDone core b.op))

/-- The pool chain at an owner and the merge chain at the requester (R97, R99, R100, R222 to R228), while the Vector Engine runs no op: a tuple at the head of the ring
that belongs to a list and whose bag has an accumulator with room in GE_ACC is pooled into it, as it stands in the ring; a record with data that belongs to
a basket runs through the merge chain. -/
def Obligations.PoolAndMerge : Prop :=
  ∀ (s : State) (core : Fin 128) (x : RingRec) (rest : List RingRec), Runs s → (s.dev.ge core).ring = x :: rest →
    (s.dev.core core).ve.running = false →
    let r := s.dev.ringGetRec core x
    (x.ofList = true →
      let d := s.dev.updGe core (fun g => { g with ring := rest })
      (∀ l a b, d.list? core x.num = some l → l.chain = some b → l.accs = [a] → a.sample = r.sample → a.bag = r.bag →
        let e := (rowElems (inSize b.1) r.data).length
        let d1 := d.countPass core (passCycles e (parseChain b.1).cost r.data.length)
        l.accBytes + 4 * (e - a.elems.length) ≤ d1.geArea core 2 →
        Leaves (.poolPass core) s
          (((d1.updList core l.num (fun l => { l with accs := l.accs.map (fun y =>
              if (y.sample == r.sample && y.bag == r.bag) = true then poolInto b y false r else y) })).listCheck s.ctl core l.num).vePassed s.ctl core))) ∧
    (x.ofList = false → x.len ≠ 0 → ∀ b ch d1 b1, (s.dev.ge core).baskets.find? (fun b => b.num == x.num) = some b → b.chain = some ch →
      s.dev.mergePass s.ctl core { b with chain := some ch } ch r = (d1, some b1) →
      Leaves (.mergePass core) s
        ((((d1.updGe core (fun g => { g with ring := rest })).updBasket core b.num (fun _ => b1)).doneOutside core 2).vePassed s.ctl core))

/-- The maintenance ops (R94, R115): ROW_PUT, ROW_MOVE, SHARD_SET, TABLE_STAGE, TABLE_CUTOVER and TABLE_RELEASE. The op at the program counter enters the
queue where there is room; the op at the head, of the same kind, outside replay, with fewer than 16 in flight, runs by its table rules; then its answer, where it
is due, is written and signalled. -/
def Obligations.MaintenanceOps : Prop :=
  ∀ (s : State) (core : Fin 128) (o : Nat) (i : Instr) (q : QOp) (rest : List QOp) (d1 : Dev) (r : MaintRes), Runs s →
    (o, i) ∈ [(0x51, Instr.rowPut core), (0x52, .rowMove core), (0x53, .shardSet core), (0x54, .tableStage core), (0x55, .tableCutover core),
      (0x56, .tableRelease core)] →
    let d := (s.dev.issue core o .ge).1
    (d.ge core).queue = q :: rest → q.op % 256 = o → d.withheld core q = false → ((d.ge core).maint.filter (fun m => m.mirror.isNone)).length < 16 →
    d.forced s.ctl q.own.ch 8 = false →
    d.maintDo s.ctl core { op := q, facet := s.ctl.facetOfCore core } none = (d1, r) → r ≠ .wait →
    Leaves i s (((d1.popOp core .ge).maintTook s.ctl core { op := q, facet := s.ctl.facetOfCore core } r).maintFlush s.ctl core)

/-- The statuses with which TABLE_CUTOVER does not take effect (R104): NO_TABLE without a STAGED slot, BAD_EPOCH where its epoch is another, VERSION_BUSY while the
other slot is RETIRING; it takes effect with OK otherwise, once the registry can be written. -/
def Obligations.CutoverStatus : Prop :=
  ∀ (c : Ctl) (d : Dev) (core as op : Nat) (e : List Byte) (k : Bool),
    (slotIn e 1 = none → (d.tableCutover c core as op e k).2 = .done 0 2) ∧
    (∀ x, slotIn e 1 = some x → (slotVer e x).epoch ≠ mtEpoch op → (d.tableCutover c core as op e k).2 = .done 0 3) ∧
    (∀ x, slotIn e 1 = some x → (slotVer e x).epoch = mtEpoch op → slotState e (1 - x) = 3 → (d.tableCutover c core as op e k).2 = .done 0 4) ∧
    (∀ x, slotIn e 1 = some x → (slotVer e x).epoch = mtEpoch op → slotState e (1 - x) ≠ 3 →
      (d.tableCutover c core as op e k).2 = .done 0 0 ∨ (d.tableCutover c core as op e k).2 = .wait)

/-- Puts at the home owner and the end of a version (R104, R105, R108, R110): the row's write acknowledged, the entry is swapped; a put whose rounds have ended is
answered; a put that arrives at an owner joins its queue; row data for a remote shard is written and acknowledged; a RETIRING version that nothing refers to retires. -/
def Obligations.PutsAtTheHomeOwner : Prop :=
  ∀ (s : State) (core : Fin 128), Runs s →
    (∀ j, (s.dev.ge core).inbox = [] → (s.dev.ge core).puts = [j] → j.phase = 1 → j.acked = some true →
      Leaves (.rowWriteAck core) s (((s.dev.putSwap s.ctl core j).doneOutside core 2).putKick s.ctl core)) ∧
    (∀ j, (s.dev.ge core).lists = [] → (s.dev.ge core).puts = [j] → j.phase = 2 →
      ((s.dev.putEnd s.ctl core j j.old 0 false).ge core).inbox = [] →
      Leaves (.putRoundsEnded core) s (((s.dev.putEnd s.ctl core j j.old 0 false).putKick s.ctl core).maintFlush s.ctl core)) ∧
    (∀ x rest j, takeMsg (fun m => match m with | .put _ => true | _ => false) (s.dev.ge core).inbox = some (x, rest) → x.m = .put j →
      let d := (s.dev.updGe core (fun g => { g with inbox := rest })).unusedAs s.ctl j.as x.port j.origin
      d.ownerCheck s.ctl core j.as x.port = none →
      Leaves (.homeOwnerPutArrival core) s
        ((d.updGe core (fun g => { g with puts := g.puts ++ [{ j with id := g.nextFwd }], nextFwd := g.nextFwd + 1 })).putKick s.ctl core)) ∧
    (∀ x rest src as table epoch shard slot b d1,
      takeMsg (fun m => match m with | .rowData .. => true | _ => false) (s.dev.ge core).inbox = some (x, rest) →
      x.m = .rowData src as table epoch shard slot b → s.dev.ownerCheck s.ctl core as x.port = none →
      s.dev.rowDataWrite s.ctl core as table epoch shard slot b = (d1, some true) →
      Leaves (.remoteShardRowDataArrival core) s
        ((d1.updGe core (fun g => { g with inbox := rest })).geRespond s.ctl (s.ctl.facetOfCore core) src 0 (.rowAck src 0))) ∧
    (∀ (asp : Fin 1024) (table : Fin 4096) d1 e bad r, (s.dev.writeRefs s.ctl).treg asp ≠ 0 →
      (s.dev.writeRefs s.ctl).geEntry s.ctl ((s.dev.writeRefs s.ctl).keeper s.ctl asp) asp table = (d1, some (e, bad)) →
      d1.retiringOf s.ctl asp table e = some r → d1.mayRetire r = true → Leaves (.versionRetire asp table) s (d1.retire s.ctl r e bad))

/-- Host writes that concern tables, graphs and the Gather Engine's areas (R88, R117, R118, R343): a flush of the Row Directory Cache drops the entries of one address space, or all; a
registry that is in use keeps its register, and the write is dropped and logged; an area that would leave Core Store is refused. -/
def Obligations.DirectoryAndRegistryWrites : Prop :=
  ∀ (s : State) (fn : Fin 16) (asp : Fin 1024) (core : Fin 128) (area : Fin 4) (high : Bool) (val : Word), Runs s →
    (Grants s fn baseRD 4 →
      ((s.ctl.asFacet (s.dev.fld (baseRD + 4) 9 0)).isSome = true →
        Leaves (.flushAs fn) s { s.dev with rd := s.dev.rd.filter (fun e => !(e.as == s.dev.fld (baseRD + 4) 9 0)) }) ∧
      ((s.ctl.asFacet (s.dev.fld (baseRD + 4) 9 0)).isSome = false → Leaves (.flushAs fn) s (dropWrite s.dev 5 fn baseRD)) ∧
      Leaves (.flushAll fn) s { s.dev with rd := [] }) ∧
    (Grants s fn (baseTreg asp + (if high then 4 else 0)) 4 → s.dev.registryUsed s.ctl asp = false → s.dev.launches = [] →
      ∃ d, d = (writeFields s.dev (baseTreg asp + (if high then 4 else 0)) val.toNat).rdDrop (fun e => e.as == asp) ∧
        (d.launches = [] → Leaves (.rdTregWrite fn asp high val) s d)) ∧
    (Grants s fn (baseTreg asp + (if high then 4 else 0)) 4 → s.dev.registryUsed s.ctl asp = true →
      Leaves (.rdTregWrite fn asp high val) s (dropWrite s.dev 4 fn (baseTreg asp + (if high then 4 else 0)))) ∧
    (Grants s fn (baseGE core + 4 * area) 4 → (s.dev.ge core).baskets = [] → (s.dev.ge core).lists = [] →
      let top := if area.val = 0 then bits val.toNat 14 0 * 256 + 64 * 256 else (bits val.toNat 10 0 + bits val.toNat 26 16) * 4096
      (top ≤ storeBytes → Leaves (.geAreaWrite fn core area val) s (writeFields s.dev (baseGE core + 4 * area) val.toNat)) ∧
      (storeBytes < top → Leaves (.geAreaWrite fn core area val) s (dropWrite s.dev 1 fn (baseGE core + 4 * area)))) ∧
    (∀ d1, Grants s fn (baseGreg asp + (if high then 4 else 0)) 4 → s.dev.registryHeld s.ctl asp = (d1, false) →
      (writeFields d1 (baseGreg asp + (if high then 4 else 0)) val.toNat).greg asp = 0 →
      Leaves (.feGregWrite fn asp high val) s (writeFields d1 (baseGreg asp + (if high then 4 else 0)) val.toNat))

/-! ### Matrix and vector engines, Expander -/

/-- An op of the Matrix Engine enters its queue where it has room, and what can take effect at once does (R163): ME_LOAD starts, ME_SCALES, ME_SWAP and ME_INVAL act when
they are next and their conditions hold, ME_MM waits for its group. -/
def Obligations.MatrixOpsEnter : Prop :=
  ∀ (s : State) (core : Fin 128) (t : Task) (op : Nat), Runs s →
    (Ready s core 0x10 .me t op → Leaves (.meLoad core) s ((issued s.dev core .me t op).meDrain s.ctl core 64)) ∧
    (Ready s core 0x11 .me t op → Leaves (.meSwap core) s ((issued s.dev core .me t op).meDrain s.ctl core 64)) ∧
    (Ready s core 0x12 .me t op → Leaves (.meMm core) s ((issued s.dev core .me t op).meDrain s.ctl core 64)) ∧
    (Ready s core 0x13 .me t op → Leaves (.meInval core) s ((issued s.dev core .me t op).meDrain s.ctl core 64)) ∧
    (Ready s core 0x14 .me t op → Leaves (.meScales core) s ((issued s.dev core .me t op).meDrain s.ctl core 64))

/-- What a ME_SWAP and a ME_INVAL do when their turn has come (R152, R165): the swap puts the shadow set in use and leaves a free shadow set, at level 8 and with no load
in progress; the invalidation leaves both sets free. -/
def Obligations.WeightSets : Prop :=
  ∀ (c : Ctl) (d : Dev) (core : Nat) (q : QOp) (rest : List QOp),
    (d.me core).queue = q :: rest → d.withheld core q = false → (d.me core).reload = none → (d.me core).started = [] → (d.me core).groups = [] →
    openRun [] (q :: rest) = none → ((q :: rest).takeWhile (fun x => !isSwap x && !isInval x)).find? isLoad = none → opClean q.op [] = true →
    (isSwap q = true → (d.me core).level = 8 → d.meStep c core =
      some ((((d.meTake core [q.id]).updMe core (fun m => { m with active := m.shadow, shadow := {}, gap := 0 })).count (baseME core + 0x70) 1).opDone core q)) ∧
    (isSwap q = true → (d.me core).level ≠ 8 → d.meStep c core = none) ∧
    (isSwap q = false → isInval q = true → d.meStep c core =
      some (((d.meTake core [q.id]).updMe core (fun m => { m with active := {}, shadow := {} })).opDone core q))

/-- The Matrix Engine at work: the oldest load of a plain tensor ends with its sub-array valid in the shadow set (R169). At level 8, while the governor permits, a complete
group of good members starts to issue once no other issues: it leaves the queue, its members are numbered as tiles in sub-array order, and its first rows issue (R154, R159, R161,
R177); a group of one member without rows ends at its issue (R154). The next row of a group of one member that has issued is written (R160). With no work waiting, a cycle at
level 0 counts as idle, and one past 64 gap cycles at level 8 steps the level down to 7 and counts (R170 to R175). -/
def Obligations.MatrixEngineEvents : Prop :=
  ∀ (s : State) (core : Fin 128), Runs s →
    (∀ r rest, (s.dev.core core).me.started = r :: rest → r.desc.coding = 0 →
      Leaves (.meLoadComplete core) s
        ((((s.dev.landLoad core r none).updMe core (fun m => { m with started := rest })).opDone core r.op).meDrain s.ctl core 64)) ∧
    (headGroup ((s.dev.meDrain s.ctl core 64).me core).queue = none → Leaves (.meGroupIssue core) s (s.dev.meDrain s.ctl core 64)) ∧
    (∀ (qs : List QOp) (ao : QOp → Desc × Desc), let m := s.dev.me core
      m.queue = qs → headGroup qs = some qs → openRun [] qs = none → groupFault m qs = none → m.reload = none → m.started = [] → m.groups = [] →
      m.level = 8 → s.dev.permits (s.ctl.facetOfCore core) = true → (∀ q ∈ qs, s.dev.withheld core q = false) →
      (∀ q ∈ qs, (s.dev.core core).mmDescs q.op = .inl (ao q) ∧ opn q.op 4 2 ≠ 0) →
      let xs := qs.map (fun q => (s.dev.core core).passSkipped {
        op := q, sub := (m.subOf q.op).getD {}, sparse := m.active.sparse, adesc := (ao q).1, odesc := (ao q).2
        scales := (List.range ((m.subOf q.op).getD {}).n).map (fun i => s.dev.scaleReg (baseMeScale core) m.scalePoison (opf q.op 6 11 0 + i)) })
      let work := xs.foldl (fun l x => insertMember x l) []
      let d := (s.dev.meTake core (qs.map (·.id))).updMe core (fun m => { m with
        groups := [numberTiles m.tile work], tile := m.tile + work.length, period := groupPeriod (s.dev.me core) qs })
      Leaves (.meGroupIssue core) s
        (((d.count (baseME core + 0x48) (work.foldl (fun a x => a + x.out) 0)).issueRow core).meDrain s.ctl core 64)) ∧
    (∀ q, let d := s.dev.meDrain s.ctl core 64
      headGroup (d.me core).queue = some [q] → opn q.op 4 2 = 0 → (∃ a o, (d.core core).mmDescs q.op = .inl (a, o)) →
      (d.me core).issuing = false → d.withheld core q = false →
      Leaves (.meGroupIssue core) s
        (((((d.meTake core [q.id]).updMe core (fun m => { m with period := groupPeriod (d.me core) [q] })).count (baseME core + 0x48) 0).opDone core q).meDrain
          s.ctl core 64)) ∧
    (∀ x rest, (s.dev.me core).groups = [x] :: rest → x.row < x.out → x.row + 1 < opn x.op.op 4 2 →
      let y := s.dev.mmWrite core x
      Leaves (.meRowWrite core) s ((y.1.updMe core (fun m => { m with groups := [y.2] :: rest })).meDrain s.ctl core 64)) ∧
    (∀ p, (s.dev.me core).queue = [] → (s.dev.me core).groups = [] → (s.dev.me core).level = 0 → (s.dev.me core).held < 16 →
      Leaves (.meLevelStep core p) s
        (((s.dev.updMe core (fun m => { m with level := 0, held := m.held + 1, gap := m.gap + 1 })).count (baseME core + 0x68) 1).count
          (baseXP core + 0x54) 0)) ∧
    (∀ p, (s.dev.me core).queue = [] → (s.dev.me core).groups = [] → (s.dev.me core).level = 8 → 64 ≤ (s.dev.me core).gap →
      Leaves (.meLevelStep core p) s
        (((((s.dev.updMe core (fun m => { m with level := 7, held := 1, gap := m.gap + 1 })).count (baseME core + 0x68) 1).count (baseXP core + 0x54) 0).count
          (baseME core + 0x50) 1).count (baseME core + 0x54) 1))

/-- The ramp of the level (R170 to R173): it moves by at most one a cycle, only after 16 cycles at a level below 8 and 64 gap cycles at 8, upward only when work is ready, and it stays
between 0 and 8. -/
def Obligations.LevelRamp : Prop :=
  ∀ (m : Me) (ready : Bool), m.level ≤ 8 →
    (m.nextLevel ready).1 ≤ 8 ∧ (m.nextLevel ready).1 ≤ m.level + 1 ∧ m.level ≤ (m.nextLevel ready).1 + 1 ∧
    (m.level < (m.nextLevel ready).1 → ready = true ∧ 16 ≤ m.held) ∧
    (m.level = 8 → (m.nextLevel ready).1 < 8 → ready = false ∧ 64 ≤ m.gap) ∧
    (m.level < 8 → m.held < 16 → (m.nextLevel ready).1 = m.level)

/-- The Matrix-Vector Path (R182 to R195): an op enters its queue where it has room, and what can act at the head does; an MV_MM of a plain weight tensor whose fields and descriptors are good starts with
its chunks to build; a chunk is built of 64 positions or what is left, and its lookups follow; an MV_MM whose chunks are not all looked up does not complete, and one that drains ends. -/
def Obligations.MatrixVectorOps : Prop :=
  ∀ (s : State) (core : Fin 128) (t : Task) (op : Nat), Runs s →
    (Ready s core 0x20 .mv t op → Leaves (.mvMm core) s ((issued s.dev core .mv t op).mvDrain s.ctl core 9)) ∧
    (Ready s core 0x21 .mv t op → Leaves (.mvScales core) s ((issued s.dev core .mv t op).mvDrain s.ctl core 9)) ∧
    (∀ q rest a o w, (s.dev.core core).mv.queue = q :: rest → (s.dev.core core).mv.run = none → q.op % 256 = 0x20 →
      s.dev.permits (s.ctl.facetOfCore core) = true → s.dev.withheld core q = false → mvFault q.op = 0 →
      (s.dev.core core).mvDescs q.op = .inl (a, o, w) → mvRows q.op ≠ 0 → w.coding = 0 → opt q.op 1 1 = false →
      ∃ sc, Leaves (.mvLeadIn core) s ((s.dev.updMv core (fun m => { m with queue := rest })).updMv core (fun m => { m with
        run := some { op := q, adesc := a, odesc := o, wdesc := w, levels := [], levelPoison := false, scales := sc
                      acc := List.replicate (mvRows q.op) (List.replicate (opn q.op 6 2) (.fin false 0 0, false)) } }))) ∧
    (∀ r, (s.dev.core core).mv.run = some r → r.built < mvChunks r.op.op → r.banks = [] → r.looked = r.built →
      let j := r.built
      let n := min 64 (32 * opn r.op.op 4 2 - 64 * j)
      let rows := (List.range (mvRows r.op.op)).map (fun b => (List.range n).map (fun i => (s.dev.core core).elem r.adesc b (64 * j + i)))
      Leaves (.mvChunkBuildDone core) s
        (((s.dev.count (baseMV core + 0x48) (if n = 64 then mvBuild r.op.op else cdiv (mvRows r.op.op * 2 ^ codeWidth (opf r.op.op 3 3 0)) 16)).updMv core
          (fun m => { m with run := some { r with built := j + 1, banks := [rows] } })).mvLook s.ctl core 3)) ∧
    (∀ r g, (s.dev.core core).mv.run = some r → r.banks = [] → r.looked < mvChunks r.op.op → (s.dev.core core).mv.drain = none →
      Leaves (.mvOpComplete core g) s s.dev) ∧
    (∀ r g, (s.dev.core core).mv.run = none → (s.dev.core core).mv.drain = some r →
      ∃ t, exec (.mvOpComplete core g) s = .next t ∧ t.ctl = s.ctl ∧ t.pending = s.pending ∧ (t.dev.core core).mv.drain = none ∧ t.dev.sync = s.dev.sync)

/-- A Vector Engine op at the head of its queue completes once it has started, which it does while the governor permits (R217 to R219, R222): it leaves the queue, its gap cycles
are counted, the op of its kind is carried out, and the next op may start. -/
def Obligations.VectorOpsComplete : Prop :=
  ∀ (s : State) (core : Fin 128) (q : QOp) (rest : List QOp) (g : Gaps), Runs s → (s.dev.core core).ve.queue = q :: rest →
    ((s.dev.core core).ve.running = false → s.dev.permits (s.ctl.facetOfCore core) = false → Leaves (.veOpComplete core g) s s.dev) ∧
    ((s.dev.core core).ve.running = true →
      let b := baseVE core
      let d := ((((s.dev.popOp core .ve).updVe core (fun v => { v with running := false, turn := 0 })).count (b + 0x50) g.port).count
        (b + 0x54) g.governor).count (b + 0x58) g.idle
      (q.op % 256 = 0x30 → Leaves (.veOpComplete core g) s ((d.veChain s.ctl core q).veStart s.ctl core)) ∧
      (q.op % 256 = 0x31 ∨ q.op % 256 = 0x32 → Leaves (.veOpComplete core g) s ((d.veMove s.ctl core q).veStart s.ctl core)) ∧
      (q.op % 256 = 0x33 → Leaves (.veOpComplete core g) s ((d.veFill s.ctl core q).veStart s.ctl core)) ∧
      (q.op % 256 = 0x34 → Leaves (.veOpComplete core g) s ((d.veLive s.ctl core q).veStart s.ctl core)))

/-- The Expander (R232, R240 to R256). XP_TFREE, at a program counter that may issue with the queue empty, with clean fields on a slot that nothing refers to, frees the slot;
XP_TLOAD, with clean fields and a good image in Core Store, loads it into such a slot with its version, and counts. The next block of an open stream of plain blocks in Core
Store, with fewer than 4 read ahead, is read through its index entry and header where those are good: it goes into the session with a reference to its slot. The block that the
Expander decodes, not poisoned and with a good payload, is delivered: its bytes, its reference and its cycles; then the Expander turns to the next. -/
def Obligations.ExpanderOps : Prop :=
  ∀ (s : State) (core : Fin 128), Runs s →
     (∀ t op, Ready s core 0x41 .xp t op → (s.dev.core core).xp.queue = [] → opClean op [(1, 3, 0)] = true → ((s.dev.core core).slot (opf op 1 3 0)).refs = 0 →
       let d := (issued s.dev core .xp t op).popOp core .xp
       Leaves (.xpTfree core) s (((d.unmirror core (opf op 1 3 0)).updSlot core (opf op 1 3 0) (fun _ => {})).opDone core (queuedOp s.dev core t op))) ∧
     (∀ t op, Ready s core 0x40 .xp t op → (s.dev.core core).xp.queue = [] → opClean op [(1, 4, 0), (4, 22, 0), (8, 16, 0)] = true →
       offOk (opn op 4 4) 256 = true → opt op 1 4 = false → opn op 8 4 = 0 → ((s.dev.core core).slot (opf op 1 3 0)).refs = 0 →
       let b := (s.dev.core core).csRead (opn op 4 4) 256
       anyPoison b = false → tableOk (plain b) = true →
       let d := (issued s.dev core .xp t op).popOp core .xp
       Leaves (.xpTload core) s
         (((((d.unmirror core (opf op 1 3 0)).updSlot core (opf op 1 3 0) (fun _ =>
             { image := plain b, version := le (plain b) 4 2, valid := true, mirror := false, refSync := 0 })).mirrorSlot
           core (opf op 1 3 0)).count (baseXP core + 0x5C) 1).opDone core (queuedOp s.dev core t op))) ∧
     (∀ (ask : XpAsk) se h b more, (s.dev.core core).sess ask.client = some se → se.hdr = some h → se.baseHdr = none → se.todo = b :: more →
       se.ahead.length < 4 → se.desc.space = 0 →
       let k := s.dev.core core
       let e := k.csRead (h.index + 8 * b) 8
       h.index + 8 * b + 8 ≤ storeBytes → anyPoison e = false → le (plain e) 0 2 = 0 →
       let a := h.origin + 64 * (leNat (plain e) / 65536)
       let x := k.csRead a 32
       let n := le (plain x) 0xC 2 + le (plain x) 0x10 2
       a + 32 + n ≤ storeBytes → anyPoison x = false → blockBad h se.desc.fmt b (plain x) = false → k.mismatch (plain x) = false →
       Leaves (.xpHeaderRead core ask) s
         ((((s.dev.mvGaps core ask.gaps).xpAhead core ask.client se b (mkPiece x (h.span se.desc.fmt b) (k.csRead (a + 32) n) a) none).doneOutside
           core 3).xpReady core)) ∧
     (∀ client gaps se blk more bytes exps, (s.dev.core core).xp.cur = some (decide (client = .me)) → (s.dev.core core).sess client = some se →
       se.ahead = blk :: more → blk.poison = false → (s.dev.core core).rebuild blk = .inl (bytes, exps) →
       let d := s.dev.mvGaps core gaps
       let a := baseXP core
       let pieces := [blk.coding] ++ (match blk.base with | some q => [q.1] | none => [])
       let inb := blk.payload.length + (match blk.base with | some q => q.2.2.1.length | none => 0)
       let d1 := ((((d.count (a + 0x40) (pieces.filter (· == 1)).length).count (a + 0x44) (pieces.filter (· == 2)).length).count
         (a + 0x4C) (cdiv blk.span 64)).count (a + 0x50) (cdiv inb 64)).count (a + 0x58) (d.xpCycles blk)
       let d2 := ({ d1 with freeCtr := d1.freeCtr + 1 } : Dev).setSess core client (some { se with
         ahead := more, out := se.out ++ [{ num := blk.num, bytes := bytes, exps := exps, poison := false }] })
       Leaves (.xpBlockDecoded core client gaps) s
         (((blk.refs.foldl (fun (d : Dev) r => d.delRef core r) d2).xpTurn core (some (decide (client = .me)))).mvLook s.ctl core 3))

/-! ### Memory system and translation -/

/-- Commands of the memory system (R273 to R291): a slice serves a read or a write of a granule, whatever error correction says of its words, and refuses one outside the facet's valid
HBM; a point-path request that no line holds waits in its channel's queue, ages, and is answered with every request that the same read serves when it returns, as the granule stood
after the last write accepted before it (R278); flush, unkeep, scrub; a channel fails and trains. -/
def Obligations.MemorySystemCommands : Prop :=
  ∀ (s : State) (fn facet slice : Fin 16) (pa : Nat) (ch : Fin 384) (hint : Hint) (val : BitVec 16), Runs s →
    (∀ (how : ReadHow) d1 b p e, s.dev.permits facet = true →
      (let a := pa / 64 * 64
       let x := s.ctl.place facet a
       let d := if s.ctl.inHbm facet a 64 then (match s.dev.findLine x.1 x.2 with
         | some k => s.dev.mscError k (x.2 % 256 / 64) how.ecc
         | none => s.dev) else s.dev
       Dev.sliceRead s.ctl d (anyWho s.ctl facet) a hint.num how.prot .stream true = (d1, b, p, e)) →
      Leaves (.sliceRead facet pa hint how) s { d1 with reply := { data := if p then 1 else 0, error := e, bytes := b } }) ∧
    (∀ (how : ReadHow), s.dev.permits facet = true → (anyWho s.ctl facet).facet = facet → s.ctl.inHbm facet (pa / 64 * 64) 64 = false →
      Leaves (.sliceRead facet pa hint how) s
        { s.dev.violate (rangeViolation (anyWho s.ctl facet) (pa / 64 * 64)) with reply := { data := 1, error := true, bytes := zeros 64 } }) ∧
    (∀ data d1 e poison prot, Dev.sliceWrite s.ctl s.dev (anyWho s.ctl facet) pa ((padTo 64 data).map some) poison hint.num prot true = (d1, e) →
      Leaves (.sliceWrite facet pa (BitVec.allOnes 64) data hint prot poison) s { d1 with reply := { error := e } }) ∧
    (∀ cls : PointClass, s.dev.permits facet = true → s.ctl.inHbm facet (pa / 64 * 64) 64 = true →
      s.dev.findLine (s.ctl.place facet (pa / 64 * 64)).1 (s.ctl.place facet (pa / 64 * 64)).2 = none →
      (s.dev.mchan (s.ctl.place facet (pa / 64 * 64)).1).queue.length < 64 → (s.dev.mchan (s.ctl.place facet (pa / 64 * 64)).1).waiting = [] →
      Leaves (.pointReadRequest facet pa cls hint) s
        (let q := s.dev.mchan (s.ctl.place facet (pa / 64 * 64)).1
         s.dev.setMchan (s.ctl.place facet (pa / 64 * 64)).1
          { q with queue := q.queue ++ [{ pa := pa / 64 * 64, cls := cls.num, hint := hint.num, facet := facet }], waiting := [] })) ∧
    (∀ n, Leaves (.pointRequestAged ch n) s (s.dev.setMchan ch { s.dev.mchan ch with
      queue := modNth (fun r => { r with aged := true }) n (s.dev.mchan ch).queue })) ∧
    (∀ r ecc age, nextPoint (s.dev.mchan ch).queue = some r → r.merged = false →
      let q := s.dev.mchan ch
      let same := q.queue.filter r.sameRead
      let clients := (same.filter (fun x => x.cls ≠ 3)).length
      let d := s.dev.setMchan ch { q with queue := q.queue.filter (fun x => !r.sameRead x) }.accept
      let d := d.setReg (baseMc ch + 0x64) (min (2 ^ 32 - 1) (max age (d.reg (baseMc ch + 0x64))))
      let d := d.count (baseMc ch + 0x44) (same.length - 1)
      let loc := (s.ctl.place r.facet r.pa).2
      (r.snap = none → (d.mchan ch).state = .ready →
        let d := d.hbmError ch loc ecc
        let d := if same.any (fun x => x.cls == 3) then d.scrubGranule s.ctl ch loc else d
        (clients = 0 → Leaves (.hbmReadComplete ch ecc age) s (d.countRead ch .point)) ∧
        (∀ d1 b p e, clients ≠ 0 → Dev.sliceRead s.ctl d (anyWho s.ctl r.facet) r.pa r.hint false .point true = (d1, b, p, e) →
          Leaves (.hbmReadComplete ch ecc age) s { d1 with reply := { data := if p then 1 else 0, error := e, bytes := b, merged := clients - 1 } })) ∧
      (∀ b, r.snap = some (b, false) → (d.mchan ch).state = .ready → ecc = .clean → clients ≠ 0 → ((d.countRead ch .point).mchan ch).state = .ready →
        Leaves (.hbmReadComplete ch ecc age) s { d.countRead ch .point with reply := { data := 0, error := false, bytes := b, merged := clients - 1 } })) ∧
    (Grants s fn (baseMs slice + 4) 4 →
      Leaves (.msFlush fn slice val) s (s.dev.setReg (baseMs slice + 4) (s.dev.reg (baseMs slice + 4) ||| maskOf (presentBits s.ctl val.toNat)))) ∧
    (Grants s fn (baseMs slice + 8) 4 →
      Leaves (.msUnkeep fn slice val) s (s.dev.setReg (baseMs slice + 8) (s.dev.reg (baseMs slice + 8) ||| maskOf (presentBits s.ctl val.toNat)))) ∧
    (∀ unkeep, let off := baseMs slice + (if unkeep then 8 else 4)
      bit (s.dev.reg off) facet = true →
      let base := ((slice.val * 16 + facet.val) * 2 + (if unkeep then 1 else 0)) * 4096
      let mine := s.dev.mem.lines.filter (fun e => e.1 / 65536 = slice.val && (e.2.state ≠ .invalid && e.2.facet = facet.val))
      let sets := ((mine.map (fun e => e.1 % 65536 / 16)).eraseDups).filter (fun x => !NatSet.has s.dev.mem.visited (base + x))
      let d := sets.foldl (fun d x => Dev.visitSet s.ctl d slice facet unkeep x) s.dev
      Leaves (.msFlushDone slice facet unkeep) s
        ({ d with mem := { d.mem with visited := d.mem.visited.filter (fun x => x / 4096 ≠ base / 4096) } }.setReg off (setBit (d.reg off) facet false))) ∧
    (∀ n ecc, (s.dev.mchan ch).state = .ready → s.dev.flag (baseMc ch + 0x14) 16 = true →
      Leaves (.scrubRead ch n ecc) s
        (let q := (s.dev.mchan ch).scrubPos
         let d := (s.dev.setMchan ch { s.dev.mchan ch with scrubPos := if q = 4718591 then 0 else q + 1 }).count (baseMc ch + 0x60) 1
         let f := ((chanOwner (nth 0x80 s.ctl.tm.chan ch)).head?).getD 0
         (d.hbmError ch (q * 256 + 64 * n.val) ecc).pointQueue ch
           ((List.range 4).map (fun i => { pa := s.ctl.unplace ch (q * 256 + 64 * i), cls := 3, facet := f })))) ∧
    ((s.dev.mchan ch).state = .ready → Leaves (.channelFailed ch) s
      (((s.dev.setMchan ch { s.dev.mchan ch with state := .failed }).raise (baseMc ch) 2 (baseMc ch + 0x28)).readyLost)) ∧
    ((s.dev.mchan ch).state = .down → s.ctl.map.isSome = true → (chanOwner (nth 0x80 s.ctl.tm.chan ch)).isEmpty = false →
      Leaves (.channelTrainingEnd ch true) s (s.dev.setMchan ch { s.dev.mchan ch with state := .ready }) ∧
      Leaves (.channelTrainingEnd ch false) s s.dev)

/-- What a leaf grants (R303): a read needs read 1, a write needs write 1, an access that does both needs both; an aligned leaf with neither is valid and grants nothing. -/
def Obligations.LeafPermissions : Prop :=
  ∀ (as level va e : Nat) (scout : Bool),
    (leafGrants (leafEntry as level va e scout).bits false = true ↔ bit e 2 = true) ∧
    (leafGrants (leafEntry as level va e scout).bits true = true ↔ bit e 3 = true) ∧
    (leafGrants (leafEntry as level va e scout).bits false = true ∧ leafGrants (leafEntry as level va e scout).bits true = true ↔
      bit e 2 = true ∧ bit e 3 = true) ∧
    (bit e 2 = false → bit e 3 = false →
      (∀ c f, badEntry c f level e = badEntry c f level (setBit (setBit e 2 true) 3 true) ∨ bit e 1 = false) ∧
      (∀ c f, bit e 0 = true → bit e 1 = true → badEntry c f level e = false → entryStep c f level e false = .leaf e) ∧
      ∀ write, leafGrants (leafEntry as level va e scout).bits write = false)

/-- Commands of translation (R306 to R331): a miss starts a walk, a level's read ends in the next table, a leaf or a fault, the scout starts a walk of its own for the
first page of the next tiles that it wants; RETRY frees the entry, ABORT also ends the accesses of the region that wait; an invalidation is accepted, leaves BLOCK, is done; a TLB is flushed, hot-page counters are cleared. -/
def Obligations.TranslationCommands : Prop :=
  ∀ (s : State) (fn : Fin 16) (core : Fin 128) (who : Requester) (va : Nat) (write : Bool) (entry : Fin 256) (slot : Fin 64) (val : Word), Runs s →
    (let n := 4 * core.val + who.eng.num
     s.dev.stopped n = false → tlbFind (s.dev.core core).tlb who.as va = none → s.dev.xl.faults = [] → s.dev.xl.walks = [] → s.dev.ctxOn who.as = true →
     let d := s.dev.count (baseTC core + 0x24) 1
     Leaves (.tlbMiss core who va write) s
       { (d.count (baseTR + 0x40) 1).count (baseTR + 0x48) (s.dev.walkStart who.as va).1 with
         xl := { s.dev.xl with walks := [{ as := who.as, va := va, level := (s.dev.walkStart who.as va).1, table := (s.dev.walkStart who.as va).2,
                                           waiters := [(n, va, write)] }] } }) ∧
    (∀ w d1, (s.dev.xl.walks.drop slot).head? = some w → w.restart = false → s.dev.ctxOn w.as = true →
      s.dev.permits ((s.ctl.asFacet w.as).getD 0) = true →
      (∀ t, s.dev.walkLevel s.ctl (whoCore 0 0 ((s.ctl.asFacet w.as).getD 0)) w.level w.table w.va = (d1, .next t) →
        Leaves (.walkLevelReadDone slot) s
          (let d := d1.cachePointer w.as w.level w.va t
           { d with xl := { d.xl with walks := modNth (fun _ => { w with level := w.level + 1, table := t }) slot d.xl.walks } })) ∧
      (∀ e, s.dev.walkLevel s.ctl (whoCore 0 0 ((s.ctl.asFacet w.as).getD 0)) w.level w.table w.va = (d1, .leaf e) →
        Leaves (.walkLevelReadDone slot) s ({ d1 with xl := { d1.xl with walks := d1.xl.walks.eraseIdx slot } }.walkLeaf s.ctl w w.level e)) ∧
      (∀ k e, s.dev.walkLevel s.ctl (whoCore 0 0 ((s.ctl.asFacet w.as).getD 0)) w.level w.table w.va = (d1, .fault k e) →
        Leaves (.walkLevelReadDone slot) s ({ d1 with xl := { d1.xl with walks := d1.xl.walks.eraseIdx slot } }.walkFault s.ctl w w.level k e))) ∧
    (∀ eng n d1 tiles, s.dev.scoutTiles s.ctl core eng = (d1, tiles) →
      let pages := tiles.flatMap (fun t => t.pages.map (fun p => (t.as, p)))
      let d := { d1 with xl := { d1.xl with scouted := d1.xl.scouted.filter (fun x => x.1 ≠ 4 * core.val + eng.num || pages.contains x.2) } }
      (d.scoutMay core = false → Leaves (.scoutWalk core eng n) s d) ∧
      (∀ p, n = 1 → d.scoutMay core = true → pages.find? (fun p => d.scoutWants core eng.num p.1 p.2) = some p → d.xl.walks = [] →
        let x := d.walkStart p.1 (p.2 * 65536)
        Leaves (.scoutWalk core eng n) s
          { ((d.count (baseTR + 0x4C) 1).count (baseTC core + 0x30) 1).count (baseTR + 0x48) x.1 with
            xl := { d.xl with
              scouted := d.xl.scouted ++ [(4 * core.val + eng.num, p.1, p.2)]
              walks := [{ as := p.1, va := p.2 * 65536, level := x.1, table := x.2, scouts := [core.val] }] } })) ∧
    (Grants s fn (baseTR + 0x400) 4 →
      Leaves (.retry fn entry) s (s.dev.freeFault s.ctl entry) ∧
      ∀ e, Sparse.get none s.dev.xl.faults entry.val = some e →
        Leaves (.abort fn entry) s ({ s.dev with xl := { s.dev.xl with
          aborted := s.dev.xl.aborted ++ e.waiters.map (fun (x : Nat × Nat × Bool) => (x.1, e.as, e.region, e.size)) } }.freeFault s.ctl entry)) ∧
    (∀ (d : Dev) (n : Nat), d.xl.tableWait = [] → Sparse.get none (d.freeFault s.ctl n).xl.faults n = none) ∧
    (Grants s fn (baseTR + 0x110) 4 →
      ∀ (k : Nat) (i : Instr), (k, i) ∈ [(0, Instr.range fn val), (1, .aspace fn val), (2, .facet fn val)] →
        let v := setBits val.toNat 29 28 k
        let d := writeRw s.dev (baseTR + 0x110) v
        let inv : Inval := {
          kind := bits v 29 28, as := d.fld (baseTR + 0x100) 9 0, facet := d.fld (baseTR + 0x100) 19 16
          va := d.fld (baseTR + 0x104) 31 16 * 65536 + d.fld (baseTR + 0x108) 19 0 * 2 ^ 32, pages := d.reg (baseTR + 0x10C), syncEn := bit v 24
          sync := bits v 16 0 }
        (d.invRefusal s.ctl inv = none → Leaves i s (d.acceptInv inv)) ∧
        (∀ kind, d.invRefusal s.ctl inv = some kind → Leaves i s (dropWrite (d.raise baseTR 3 (baseTR + 0x1C)) kind fn (baseTR + 0x110)))) ∧
    (∀ v rest, s.dev.xl.invs = v :: rest →
      (v.block = true →
        let d := s.dev.dropCovered s.ctl v
        Leaves .invBlockEnd s { d with xl := { d.xl with invs := { v with
          block := false, waits := (s.dev.hl.ext.filter (fun e => v.coversAs s.ctl e.as && (e.write || e.answer.isNone))).map (·.id) } :: rest } }) ∧
      (v.block = false → s.dev.hl.ext.any (fun e => v.waits.contains e.id && (e.write || e.answer.isNone)) = false →
        let d := { s.dev with xl := { s.dev.xl with invs := rest } }.raise baseTR 1 (baseTR + 0x14)
        let d := if v.syncEn then d.syncAdd v.sync 1 else d
        (v.cmd = none → Leaves .invDone s d) ∧ (∀ o, v.cmd = some o → Leaves .invDone s (d.finish o.ch o.seq)))) ∧
    (Grants s fn (baseTC core + 8) 4 → Leaves (.trCoreFlush fn core) s (s.dev.updCore core (fun k => { k with tlb := [] }))) ∧
    (∀ f : Fin 16, Grants s fn (baseTR + 0x20C + 0x20 * f) 4 →
      Leaves (.clear fn f) s { s.dev with xl := { s.dev.xl with hot := s.dev.xl.hot.filter (fun e => s.ctl.asFacet e.as ≠ some f.val) } })

/-- Windows and their tables (R298, R324, R327, R328): an access to a window range goes out of the module; an inbound access is decided by its import entry, and one whose
entry is disabled is denied; a table entry takes a write while its enable is 0, and a locked word's write is dropped and logged while it is 1. -/
def Obligations.WindowsAndTheirTables : Prop :=
  ∀ (s : State) (fn : Fin 16) (core : Fin 128) (eng : TrEngine) (asp w : Fin 1024) (k : Fin 4096) (va pa len : Nat) (val : Word), Runs s →
    (∀ data counted poison, (s.ctl.asFacet asp).isSome = true → 2 ^ 46 ≤ pa → pa + len ≤ 2 ^ 47 →
      Leaves (.hostWindowAccess core eng asp va pa len data counted poison) s
        (outsideAccess s.ctl s.dev core eng asp va pa len (if counted then 8 else 0) data poison)) ∧
    (∀ data poison, (s.ctl.asFacet asp).isSome = true → 2 ^ 47 ≤ pa → pa + len ≤ 2 ^ 48 →
      Leaves (.remoteWindowAccess core eng asp pa len data poison) s (outsideAccess s.ctl s.dev core eng asp pa pa len 0 data poison)) ∧
    (∀ port src b, s.dev.inbox = [(port, src, b)] → b.isRequest = true →
      Leaves .importAccess s ({ s.dev with inbox := [] }.importAccess s.ctl port src b)) ∧
    (∀ (d : Dev) (port src id n o len m : Nat), d.flag (baseImport n) 31 = false →
      d.importAccess s.ctl port src (.read id n o len m) =
        (d.denyImport port src n o 2 2).respond s.ctl port src 0 (.error id 2)) ∧
    (∀ (i : Instr) (base n : Nat) (free : Bool),
      (∃ word : Fin 5, i = .contextWrite fn asp word val ∧ base = baseCtx asp ∧ n = word ∧ free = true) ∨
      (∃ word : Fin 4, i = .hostWindowEntryWrite fn w word val ∧ base = baseTR + 0x20000 + 0x10 * w ∧ n = word ∧ free = false) ∨
      (∃ word : Fin 4, i = .importEntryWrite fn k word val ∧ base = baseImport k ∧ n = word ∧ free = false) →
      Grants s fn (base + 4 * n) 4 →
      (s.dev.flag base 31 = false ∨ (n = 0 ∧ (free = true ∨ bit val.toNat 31 = false)) → Leaves i s (writeFields s.dev (base + 4 * n) val.toNat)) ∧
      (s.dev.flag base 31 = true → ¬ (n = 0 ∧ (free = true ∨ bit val.toNat 31 = false)) → Leaves i s (dropWrite s.dev 4 fn (base + 4 * n))))

/-! ### Commands, completions, transfers -/

/-- A channel from its configuration to its completion records (R333, R339 to R341, R354, R358, R365, R369, R424): enabling it where its rings are placed; a doorbell with a slot
index of the ring, and one without; slots read and read again; the next command starts; its record is built and written, and read back; the hold ends; an abort with no task on a core; a device
queue's configuration. -/
def Obligations.ChannelCommands : Prop :=
  ∀ (s : State) (fn : Fin 16) (ch : Fin 4096) (val : Word) (host : HostData), Runs s →
    (Grants s fn (baseCh ch + 4 * (0 : Fin 5).val) 4 → s.dev.chOn ch = false → bit val.toNat 31 = true →
      let d := writeFields s.dev (baseCh ch + 4 * (0 : Fin 5).val) val.toNat
      (d.enableRefused s.ctl ch = none → Leaves (.feChCfgWrite fn ch 0 val) s (d.enableCh ch)) ∧
      (∀ kind, d.enableRefused s.ctl ch = some kind → Leaves (.feChCfgWrite fn ch 0 val) s (dropWrite s.dev kind fn (baseCh ch + 4 * (0 : Fin 5).val)))) ∧
    (∀ word : Fin 5, Grants s fn (baseCh ch + 4 * word) 4 → word ≠ 0 → s.dev.chOn ch = true → (s.dev.chan ch).held = false →
      Leaves (.feChCfgWrite fn ch word val) s (dropWrite s.dev 4 fn (baseCh ch + 4 * word))) ∧
    (Grants s fn (baseCh ch + 0x14) 4 →
      (s.dev.chOn ch = false → Leaves (.doorbell fn ch val) s (dropWrite s.dev 5 fn (baseCh ch + 0x14))) ∧
      (s.dev.chOn ch = true → (∀ f, (s.dev.replayOf f).state ≠ 1) →
        let p := bits val.toNat 15 0
        let g := bits val.toNat 31 16
        (doorbellIndex (s.dev.chan ch).cons (s.dev.ringSlots ch) p g = none →
          Leaves (.doorbell fn ch val) s (dropWrite (s.dev.raise (baseCh ch + 0x18) 4 (baseCh ch + 0x4C)) 5 fn (baseCh ch + 0x14))) ∧
        (∀ x, doorbellIndex (s.dev.chan ch).cons (s.dev.ringSlots ch) p g = some x →
          let d := s.dev.ring' ch x
          Leaves (.doorbell fn ch val) s (d.trip s.ctl ch 2 0 {} (toLe 2 g ++ toLe 2 p ++ zeros 4 ++ toLe 8 (d.chan ch).prod)).1))) ∧
    (Grants s fn (baseCh ch + 0x1C) 4 →
      Leaves (.releaseHold fn ch) s (s.dev.updChan ch (fun h => { h with held := false })) ∧
      (let d := (s.dev.abortNoted ch).abortReady ch
       (∀ n, ((d.core n).saved = [] ∧ (d.seq n).task = none) ∧ ((s.dev.core n).saved = [] ∧ (s.dev.seq n).task = none)) → LeavesBoth (.feChAbort fn ch) s (s.ctl, d.abortCheck ch))) ∧
    (∀ (q : Fin 256) (word : Fin 3), Grants s fn (baseQueue q + 4 * word) 4 →
      (s.dev.queueOn q = false → Leaves (.deviceQueueConfigWrite fn q word val) s (writeFields s.dev (baseQueue q + 4 * word) val.toNat)) ∧
      (s.dev.queueOn q = true → word ≠ 0 → Leaves (.deviceQueueConfigWrite fn q word val) s (dropWrite s.dev 4 fn (baseQueue q + 4 * word)))) ∧
    (∀ f, s.ctl.chFacet ch = some f → (s.dev.replayOf f).state ≠ 1 → s.dev.mayRead ch = true →
      ((s.dev.chan ch).retrying = false → Leaves (.slotRead ch host) s (s.dev.slotTry s.ctl ch host false)) ∧
      ((s.dev.chan ch).retrying = true → Leaves (.slotReread ch host) s (s.dev.slotTry s.ctl ch host true))) ∧
    (∀ k, (s.dev.chan ch).nextCmd = some k → (s.dev.chan ch).launchWaits = false → s.dev.startsOpen s.ctl ch = true →
      (s.dev.chan ch).serialHolds k = false → s.dev.replayLets s.ctl ch = true →
      let d := s.dev.tripFor s.ctl { ch := ch, seq := k.seq } 1 0 0xFF 0xFF k.raw
      (∀ v, k.bad = some v → Leaves (.commandStart ch) s (((d.violate v).count (baseCh ch + 0x54) 1).finishWith ch k.seq 1)) ∧
      (k.bad = none → byteAt k.raw 2 ≠ 1 →
        Leaves (.commandStart ch) s ((d.updCmd ch k.seq (fun k => { k with phase := .started })).count (baseCh ch + 0x54) 1))) ∧
    (∀ seq rest k, (s.dev.chan ch).record = none → (s.dev.chan ch).fin = seq :: rest → s.dev.cmd? ch seq = some k → bit (byteAt k.raw 3) 2 = false →
      bit (byteAt k.raw 3) 0 = true → k.lostRec = false →
      let h := s.dev.chan ch
      let b := k.record (genOf h.cmplProd (s.dev.cmplSlots ch)) false
      let d := { s.dev with hl := { s.dev.hl with failed := s.dev.hl.failed.filter (fun x => x != (ch.val, seq)) } }
      let d := d.updChan ch (fun h => { h with fin := rest, cmds := h.cmds.filter (fun x => x.seq ≠ seq) })
      let d := (d.trip s.ctl ch 0xB 0 { launch := seq % 2 ^ 32 } b).1
      Leaves (.completionRecordWrite ch) s (d.writeRecord s.ctl ch { bytes := b, irq := bit (byteAt k.raw 3) 3 })) ∧
    (∀ r, (s.dev.chan ch).record = some r → (s.dev.chan ch).readback = true →
      (s.dev.attached = true →
        Leaves (.completionReadbackDone ch true) s ((s.dev.updChan ch (fun h => { h with cmplProd := h.cmplProd + 1 })).recordOut ch r)) ∧
      Leaves (.completionReadbackDone ch false) s (s.dev.recordFailed s.ctl ch r (s.dev.recordPa ch)))

/-- The commands of Table 12.3, once started (R342 to R347, R319, R362): what each does on its operands, and where it completes. -/
def Obligations.HostCommands : Prop :=
  ∀ (s : State) (ch : Fin 4096) (core : Fin 128) (k : Cmd), Runs s →
    (Started s ch 9 k → Leaves (.nop ch) s (s.dev.finish ch k.seq)) ∧
    (Started s ch 4 k →
      let o := le k.raw 0x14 4 % 2 ^ 17
      let v := le k.raw 0x18 8
      (byteAt k.raw 0x10 = 0 → Leaves (.sync ch) s ((s.dev.syncAdd o v).finish ch k.seq)) ∧
      (byteAt k.raw 0x10 = 1 → Leaves (.sync ch) s ((s.dev.syncSet o v).finish ch k.seq)) ∧
      (2 ≤ byteAt k.raw 0x10 →
        ((s.dev.syncObj o).poison = true → Leaves (.sync ch) s (s.dev.finishWith ch k.seq 8)) ∧
        ((s.dev.syncObj o).poison = false →
          (waitMet (byteAt k.raw 0x10 == 3) v (s.dev.syncObj o).value = true → Leaves (.sync ch) s (s.dev.finish ch k.seq)) ∧
          (waitMet (byteAt k.raw 0x10 == 3) v (s.dev.syncObj o).value = false → Leaves (.sync ch) s (s.dev.running ch k.seq))))) ∧
    (Started s ch 2 k → ∀ n, s.dev.copyCore s.ctl ch k core = some n →
      Leaves (.copy ch core) s (((s.dev.enqueueOp n .dma (copyOp k) k.pa (s.dev.chAs ch) { ch := ch, seq := k.seq }).updCmd ch k.seq
        (fun k => { k with core := n })).running ch k.seq)) ∧
    (∀ n d1 ps d2 b, (s.dev.chan ch).cmds.find? (fun k => (k.phase == .started || k.phase == .running) && byteAt k.raw 2 == 3) = some k →
      k.core = 0xFF → s.dev.copyCore s.ctl ch k core = some n → k.next = 0 → k.status = 0 → 0 < le k.raw 0x12 2 → (s.dev.core n).dma.queue.length = 0 →
      let take := min (min 64 8) (le k.raw 0x12 2)
      let va := le k.raw 0x18 8
      s.dev.resolve s.ctl n 0 (s.dev.chAs ch) va (32 * take) false = (d1, some ps) →
      d1.fetchPieces s.ctl (whoCore n 0 (s.ctl.facetOfCore n)) n 0 (s.dev.chAs ch) none 0 ps = (d2, some b) →
      let ops := batchOps va ((List.range take).map (fun i => (b.drop (32 * i)).take 32))
      ops.length = take → d1.chAs ch = s.dev.chAs ch → ((d2.doneOutside n 0).updCmd ch k.seq (fun k => { k with core := n, phase := .running })).chAs ch = s.dev.chAs ch →
      Leaves (.batch ch core) s
        ((ops.foldl (fun d x => d.enqueueOp n .dma x.2 x.1 (s.dev.chAs ch) { ch := ch, seq := k.seq })
          ((d2.doneOutside n 0).updCmd ch k.seq (fun k => { k with core := n, phase := .running }))).updCmd ch k.seq
          (fun k => { k with next := k.next + ops.length }))) ∧
    (Started s ch 5 k → s.dev.xl.invs.length < 16 →
      Leaves (.invalidate ch) s ((s.dev.acceptInv {
        kind := byteAt k.raw 0x10, as := le k.raw 0x12 2, va := le k.raw 0x18 8, pages := le k.raw 0x20 4, facet := (s.ctl.chFacet ch).getD 0
        syncEn := bit (le k.raw 0x24 4) 31, sync := le k.raw 0x24 4 % 2 ^ 17, cmd := some { ch := ch, seq := k.seq } }).running ch k.seq)) ∧
    (∀ d1 a e, s.dev.greg (s.dev.chAs ch) ≠ 0 →
      s.dev.graphEntry s.ctl (whoChan ch ((s.ctl.chFacet ch).getD 0)) (s.dev.chAs ch) (byteAt k.raw 0x10) = (d1, a, e, false) →
      let w := whoChan ch ((s.ctl.chFacet ch).getD 0)
      (Started s ch 8 k → Leaves (.graphRetire ch) s ((d1.putGraph s.ctl w a { e with current := 0 }.sweep).finish ch k.seq)) ∧
      (Started s ch 6 k → ∀ d2 b e', d1.readImage s.ctl w (le k.raw 0x18 8) = (d2, .ok b) → imageOk s.ctl w.facet b = true →
        e.store (le k.raw 0x18 8) = some e' → Leaves (.graphStore ch) s ((d2.putGraph s.ctl w a e').finish ch k.seq)) ∧
      (Started s ch 7 k → ∀ i d2 b b', e.find (le k.raw 0x14 4) = some i → d1.readImage s.ctl w (nth {} e.revs i).image = (d2, .ok b) →
        applyPatch 1024 k.inlined b = some b' → imageOk s.ctl w.facet b' = true →
        (bit (byteAt k.raw 0x11) 0 = true → (nth {} e.revs i).live = 0 →
          Leaves (.graphPatch ch) s ((Dev.paPut s.ctl d2 w (nth {} e.revs i).image b').finish ch k.seq)) ∧
        (∀ e', bit (byteAt k.raw 0x11) 0 = false → s.ctl.inHbm w.facet (le k.raw 0x18 8) (le b' 8 4) = true → e.store (le k.raw 0x18 8) = some e' →
          Leaves (.graphPatch ch) s
            (((Dev.paPut s.ctl d2 w (le k.raw 0x18 8) (b'.take (le b' 8 4))).putGraph s.ctl w a e').finish ch k.seq)))) ∧
    (Started s ch 1 k → ∀ d1 a e i b c, s.dev.launchCheck s.ctl ch k = (d1, .go a e i b c) →
      Leaves (.launch ch) s (d1.updCmd ch k.seq (fun k' => { k' with launch := some {
        graph := byteAt k.raw 0x10, revision := (nth {} e.revs i).rev, imagePa := (nth {} e.revs i).image, level := d1.chLevel ch, as := d1.chAs ch } })) ∧
      (c = none → k.launch.isSome = true → s.dev.startsOpen s.ctl ch = true → (s.dev.chan ch).serialHolds k = false →
        let f := (s.ctl.chFacet ch).getD 0
        let r := nth {} e.revs i
        let d := Dev.paPut s.ctl d1 (whoChan ch f) (a + 0x14 + 16 * i) (toLe 4 (r.live + 1))
        let resv := (List.range (min 16 (imgResv b))).map (fun i => imgResvAt b i)
        let d := resv.foldl (fun d x => d.setQueue x.1 { d.queue x.1 with reserved := (d.queue x.1).reserved + x.2 }) d
        let roots := imageRoots b ch k.seq (d.chAs ch) (d.chLevel ch) f ((List.range 4).map (fun j => le k.raw (0x20 + 4 * j) 4))
        let l : Launch := {
          graph := byteAt k.raw 0x10, revision := r.rev, imagePa := r.image, level := d.chLevel ch, as := d.chAs ch
          resv := resv.map (fun x => (x.1, x.2, 0)), live := roots.length, nextTask := roots.length, roots := [], begun := true }
        let d := (d.count (baseCh ch + 0x54) 1).updCmd ch k.seq (fun k => { k with phase := .running, launch := some l })
        Leaves (.launchStart ch) s { d with ready := d.ready ++ roots })) ∧
    (∀ q rest, (s.dev.core core).dma.queue = q :: rest → s.dev.cmd? q.own.ch q.own.seq = some k → q.op % 256 = inlineOp → byteAt k.raw 2 = 1 →
      ∀ run, let m := s.dev.dmaMove s.ctl core q
      m.dmaComplete core q = true → (m.core core).dmaRun q = some run →
      (run.aborted = false → Leaves (.launchArgWriteDone core) s ((m.dmaDone core q).argsDone q.own.ch q.own.seq)) ∧
      (run.aborted = true → Leaves (.launchArgWriteDone core) s ((m.dmaDone core q).argsFailed s.ctl q.own.ch q.own.seq 0xA))) ∧
    ((s.dev.chan ch).cmds.find? (fun k => k.phase == .running && (k.launch.map (fun l => l.begun && (l.live = 0 && l.roots.isEmpty))).getD false) = some k →
      (∀ f, ((s.dev.endLaunch s.ctl ch k.seq).replayOf f).state ≠ 1) → Leaves (.launchEnd ch) s (s.dev.endLaunch s.ctl ch k.seq))

/-- The DMA engine's head op (R355, R357, R359, R378): it moves as far as it can and completes once all its bytes are issued, its writes answered and its transfer landed; a DMA_COPY
between two places of Core Store, of up to 4 KiB, with clean fields and no object to signal, copies and completes. Relay bytes land as far as the landing ring has room, at most 4
KiB, and go on to the next core of the transfer. -/
def Obligations.TransfersComplete : Prop :=
  ∀ (s : State) (core : Fin 128), Runs s →
    (∀ q rest, (s.dev.core core).dma.queue = q :: rest → q.op % 256 ≠ inlineOp →
      let m := s.dev.dmaMove s.ctl core q
      (m.dmaComplete core q = true → Leaves (.dmaOpComplete core) s (m.dmaDone core q)) ∧
      (m.dmaComplete core q = false → Leaves (.dmaOpComplete core) s m) ∧
      (∀ r, (s.dev.core core).dmaRun q = some r → r.issued = true → m = s.dev) ∧
      ((s.dev.core core).dmaRun q = none → s.dev.withheld core q = false → q.op % 256 = 0x60 →
        opClean q.op [(1, 3, 0), (4, 31, 0), (8, 63, 0), (16, 63, 0), (24, 16, 0), (27, 7, 7)] = true → opf q.op 1 3 2 ≠ 3 → opt q.op 27 7 = false →
        opt q.op 1 0 = false → opt q.op 1 1 = false → s.dev.hl.ext = [] →
        let n := opn q.op 4 4
        let src := opn q.op 8 8
        let dst := opn q.op 16 8
        0 < n → n ≤ 4096 → src + n ≤ storeBytes → dst + n ≤ storeBytes → anyPoison ((s.dev.core core).csRead src n) = false →
        ∃ t, exec (.dmaOpComplete core) s = .next t ∧ t.ctl = s.ctl ∧ t.pending = s.pending ∧ (t.dev.core core).dma.queue = rest ∧
          (∀ x, Memory.read (t.dev.core core).store x = Memory.read ((s.dev.core core).csWrite dst ((s.dev.core core).csRead src n)).store x) ∧
          t.dev.mem = s.dev.mem ∧ t.dev.sync = s.dev.sync)) ∧
    (∀ x rest, (s.dev.core core).landing = x :: rest → x.src ≠ core.val →
      let k := s.dev.core core
      let area := s.dev.ringArea core
      let n := min 64 (min (x.data.length / 64) (area.2 / 64 - (k.arrived - k.freed)))
      0 < n →
      let b := x.data.take (64 * n)
      let d := s.dev.setCore core { k.ringWrite area.1 area.2 (64 * k.arrived) b with
        arrived := k.arrived + n, landing := if x.left - n = 0 then rest else { x with data := x.data.drop (64 * n), left := x.left - n } :: rest }
      let d := d.relayTo x.src x.id x.left x.next b
      Leaves (.relayLand core) s (if x.left - n = 0 then d.relayLanded x.src x.id core else d))

/-- What a store leaves of the rest of memory: a write of Core Store changes the bytes written and no other; a channel's write changes the bytes of its granule and no other; relay
bytes that land change the landing ring's units that they fill, and no byte of another core's store; at the core that sends them its op then goes on (R378). -/
def Obligations.StoresAreLocal : Prop :=
  (∀ (k : Core) (a x : Nat) (b : List PByte),
    Memory.read (k.csWrite a b).store x = if a ≤ x ∧ x < a + b.length then ((b.map (·.1)).drop (x - a)).head?.getD 0 else Memory.read k.store x) ∧
  (∀ (d : Dev) (ch loc x : Nat) (tag : Option CryptTag) (b : List Byte) (p : Bool),
    ¬ (hbmKey ch (loc / 64 * 64) ≤ x ∧ x < hbmKey ch (loc / 64 * 64) + 64) → Memory.read (d.hbmWrite ch loc tag b p).mem.hbm x = Memory.read d.mem.hbm x) ∧
  (∀ (s t : State) (core : Fin 128) (x : Landing) (rest : List Landing) (m a : Nat), (s.dev.core core).landing = x :: rest → exec (.relayLand core) s = .next t →
    (m ≠ core.val ∨ ∀ i < min 64 (min (x.data.length / 64) ((s.dev.ringArea core).2 / 64 - ((s.dev.core core).arrived - (s.dev.core core).freed))),
      let lo := (s.dev.ringArea core).1 + (64 * (s.dev.core core).arrived + 64 * i) % (s.dev.ringArea core).2
      ¬ (lo ≤ a ∧ a < lo + 64)) →
    ∃ d : Dev, Memory.read (d.core m).store a = Memory.read (s.dev.core m).store a ∧
      (t.dev = d ∨ (x.src = core.val ∧ ∃ q, (d.core core).dma.queue.head? = some q ∧ q.id = x.id ∧ t.dev = d.dmaMove s.ctl core q)))

/-- Control commands store nothing, and a look of the scout, which reads stream headers through the memory-side cache, leaves Core Store: registers, faults, links, the twin's link state, margins, keys, the governor leave every byte of HBM, every line of the memory-side cache and every byte of
Core Store as they were. -/
def Obligations.ControlLeavesMemory : Prop :=
  (∀ (i : Instr) (s t : State), leavesMemory i = true → exec i s = .next t →
    (∀ x, Memory.read t.dev.mem.hbm x = Memory.read s.dev.mem.hbm x) ∧ (∀ x, t.dev.line x = s.dev.line x) ∧
    (∀ n a, Memory.read (t.dev.core n).store a = Memory.read (s.dev.core n).store a)) ∧
  (∀ (s t : State) (core : Fin 128) (eng : TrEngine) (k : Nat), exec (.scoutWalk core eng k) s = .next t →
    ∀ n a, Memory.read (t.dev.core n).store a = Memory.read (s.dev.core n).store a)

/-! ### Fabric, twin, host link -/

/-- Ports and packets (R389 to R403): training, the identity flit, which takes a port whose lanes are trained UP, the ways to MISMATCH and DOWN; a packet that arrives while no other
waits is delivered, forwarded on the next port of its route where it has credits for every flit, waits for them otherwise, or is outside the torus; its buffer returns its credits as it
leaves (R399); the first answer to a remote access is final. -/
def Obligations.FabricEvents : Prop :=
  ∀ (s : State) (fn : Fin 16) (p : Fin 7) (t : Fin 6), Runs s →
    ((s.dev.port p).state = .training →
      ((s.dev.port p).trained = false →
        let d := s.dev.updPort p (fun k => { k with trained := true })
        Leaves (.portLanesTrained p) s (if p.val = 6 then d.offerPairing s.ctl
          else (d.count (basePort p + 0x40) 1).emit (.identity p s.ctl.coord s.ctl.tm.torus.dim s.ctl.tm.torus.dateline))) ∧
      Leaves (.portTrainingFailed p) s (s.dev.portGoesDown s.ctl p) ∧ Leaves (.laneFailure p) s (s.dev.portGoesDown s.ctl p)) ∧
    (∀ peer, (s.dev.port t).state = .training →
      let d := (s.dev.count (basePort t + 0x44) 1).setFld (basePort t + 4) 11 0 peer.coord
      ((s.dev.port t).trained = false → Leaves (.identityFlitArrival t peer) s s.dev) ∧
      ((s.dev.port t).trained = true →
        (s.ctl.identityFault t peer = 0 → Leaves (.identityFlitArrival t peer) s (d.portGoesUp t)) ∧
        (s.ctl.identityFault t peer ≠ 0 → Leaves (.identityFlitArrival t peer) s (d.portMismatch t (s.ctl.identityFault t peer))))) ∧
    ((s.dev.port p).state = .up → Leaves (.replayFailure p) s ((s.dev.count (basePort p + 0x48) 16).portGoesDown s.ctl p)) ∧
    ((s.dev.port p).state = .down ∨ (s.dev.port p).state = .mismatch →
      Leaves (.portRetrainTimer p) s (s.dev.portTrains s.ctl p) ∧ (Grants s fn (basePort p + 8) 4 → Leaves (.retrain fn p) s (s.dev.portTrains s.ctl p))) ∧
    (∀ pkt : Packet, p.val ≠ 6 → s.dev.portUp p = true →
      let d := s.dev.count (basePort p + 0x44) pkt.flits
      let back := d.emit (.credit p pkt.cls pkt.vc pkt.flits)
      let w : Waiting := { inp := p, since := s.dev.ltc, pkt := pkt }
      (s.ctl.inTorus pkt.dst = false → Leaves (.packetArrival p pkt) s (back.raise (baseMF + 0x1000) 0 (baseMF + 0x1004))) ∧
      (s.ctl.inTorus pkt.dst = true → s.dev.waiting = [] →
        (∀ b, s.ctl.nextPort pkt.dst = none → pkt.body = .remote b →
          Leaves (.packetArrival p pkt) s
            { back.count (baseMF + 0x1044) 1 with inbox := s.dev.inbox ++ [(p.val, pkt.src, b)] }) ∧
        (∀ q : Fin 7, s.ctl.nextPort pkt.dst = some q.val → s.dev.portUp q = true →
          let out := s.ctl.leaving s.dev.ltc w q
          (pkt.flits ≤ d.credits q pkt.cls out.vc →
            Leaves (.packetArrival p pkt) s ((back.count (baseMF + 0x1040) 1).sendOn q out)) ∧
          (d.credits q pkt.cls out.vc < pkt.flits → Leaves (.packetArrival p pkt) s { d with waiting := [w] })))) ∧
    (∀ port src id e, s.dev.inbox = [(port, src, RemoteBody.writeAck id)] → s.dev.extOpen id false = some e → e.write = true → s.dev.extQuarantined e = false →
      Leaves .remoteResponseArrival s ({ s.dev with inbox := [] }.dropExt id)) ∧
    (∀ port src id, s.dev.inbox = [(port, src, RemoteBody.writeAck id)] → s.dev.extOpen id false = none →
      Leaves .remoteResponseArrival s ({ s.dev with inbox := [] }.count (baseMF + 0x104C) 1))

/-- The twin and mirroring (R405 to R412): with T's lanes trained the exchange uses this module's challenge once, answers the partner's, and succeeds or names its first failing check;
heartbeats; the partner is lost; records are read from the ring and sent in order in packets of at most 4 KiB, arrive, and are acknowledged; the mirror's registers. -/
def Obligations.TwinAndMirror : Prop :=
  ∀ (s : State) (fn f : Fin 16) (val : Word), Runs s →
    (∀ t peer, s.ctl.tm.twin = some t → t.enable = true → (s.dev.port 6).state = .training →
      ((s.dev.port 6).trained = false → Leaves (.twinPairing peer) s s.dev) ∧
      ((s.dev.port 6).trained = true →
        let e := pairingFault t s.dev.twin.challenge peer
        let d := ((s.dev.count (basePort 6 + 0x44) 3).updTwin (fun w => { w with challenge := [] })).emit (.pairingSig (Config.sign peer.challenge))
        (e = 0 → s.dev.twin.state ≠ 2 →
          Leaves (.twinPairing peer) s
            (((d.portGoesUp 6).updTwin (fun w => { w with
                state := 2, heard := false, mirrors := w.mirrors.map (fun m => { m with restarted := false }) })).raise baseTW 0 (baseTW + 0x20))) ∧
        (e ≠ 0 →
          Leaves (.twinPairing peer) s
            ((((d.portMismatch 6 e).updTwin (fun w => { w with state := 4, cause := e })).raise baseTW 2 (baseTW + 0x28)).irq 4144)))) ∧
    (s.dev.twin.state = 2 → Leaves .partnerLost s ((((if s.dev.portUp 6 then s.dev.raise (baseBU + 0xD0) 0 (baseBU + 0xD4) else s.dev).updTwin (fun w => { w with state := 3 })).raise baseTW 1 (baseTW + 0x24)).irq 4144)) ∧
    (s.dev.paired = true →
      Leaves .heartbeatSend s
        (((s.dev.count (baseTW + 0x40) 1).updTwin (fun w => { w with hbCount := w.hbCount + 1 })).twinSend s.ctl .control 136
          (.heartbeat (s.dev.twin.hbCount + 1) (s.dev.twin.mirrors.map (·.applied)))) ∧
      (∀ applied, s.dev.twin.heard = true →
        Leaves (.heartbeatArrival applied) s ((List.range 16).foldl (fun d f => d.applyNext s.ctl f)
          (((s.dev.twinTakes .control 136).count (baseTW + 0x44) 1).updTwin (fun w => { w with heard := true, lastHb := some s.dev.ltc })))) ∧
      (∀ r d1 b z, (s.dev.mirror f).restartDue = false → s.dev.twin.heard = true →
        (s.dev.mirror f).recs.find? (fun r => (s.dev.mirror f).sent < r.seq) = some r →
        let m := s.dev.mirror f
        let n := min 4096 (r.room - m.sentBytes)
        s.dev.mirrorRead s.ctl f (r.pos + m.sentBytes) n = (d1, b, z) →
        Leaves (.mirrorRecordSend f) s
          ((d1.updMirror f (fun m' => { m' with
              sent := if r.room ≤ m.sentBytes + n then r.seq else m'.sent
              sentBytes := if r.room ≤ m.sentBytes + n then 0 else m'.sentBytes + n })).twinSend s.ctl .bulk n
            (.record f r.seq m.sentBytes r.room b z))) ∧
      (∀ part : MirrorPart, part.facet < 16 →
        Leaves (.mirrorRecordArrival part) s
          (((s.dev.twinTakes .bulk part.bytes.length).takeRecord s.ctl part).applyNext s.ctl part.facet)) ∧
      (∀ (seq : Nat) (status : BitVec 16), (s.dev.mirror f).acks seq = true → (s.dev.twinTakes .control 11).flag (baseMirror f) 30 = false →
        let d := (s.dev.twinTakes .control 11).updMirror f (fun m => { m with acked := seq, recs := m.recs.filter (fun r => seq < r.seq) })
        Leaves (.mirrorAckArrival f seq status) s
          (if status = 0 then d else (d.updMirror f (fun m => { m with divSeq := seq, divStatus := status.toNat })).raise baseTW 4 (baseTW + 0x30))) ∧
      (∀ (seq : Nat) (status : BitVec 16), (s.dev.mirror f).acks seq = false →
        Leaves (.mirrorAckArrival f seq status) s (s.dev.twinTakes .control 11))) ∧
    (∀ word : Fin 4, Grants s fn (baseMirror f + 4 * word) 4 → word ≠ 0 →
      (s.dev.flag (baseMirror f) 31 = true → Leaves (.twMirrorCfgWrite fn f word val) s (dropWrite s.dev 4 fn (baseMirror f + 4 * word))) ∧
      (s.dev.flag (baseMirror f) 31 = false → word ≠ 3 → Leaves (.twMirrorCfgWrite fn f word val) s (writeFields s.dev (baseMirror f + 4 * word) val.toNat))) ∧
    (Grants s fn (baseMirror f + 0x10) 4 →
      Leaves (.restart fn f) s (s.dev.updMirror f (fun m => { m with
        recs := [], next := 1, acked := 0, sent := 0, sentBytes := 0, pos := 0, restartDue := true, restarted := false, cause := 0, state := if s.dev.flag (baseMirror f) 31 then 1 else 0 })))

/-- The host link (R415 to R434): link states; a link loss with nothing outstanding while not ATTACHED; HL_SESSION increments on each accepted request, and on a detach that leaves ATTACHED; ATTACHED is entered by the function that asked; aperture
accesses; flush reads, read responses and timeouts of host-window accesses; one message for a pending source. -/
def Obligations.HostLinkCommands : Prop :=
  ∀ (s : State) (fn : Fin 16) (n : Nat) (val : Word), Runs s →
    Leaves .eklLinkUp s { s.dev with hl := { s.dev.hl with eklUp := true } } ∧
    Leaves .pcieLinkUp s { s.dev with hl := { s.dev.hl with pcieUp := true } } ∧
    Leaves (.functionLevelReset fn) s s.dev ∧
    (s.dev.hl.ext = [] → s.dev.attached = false → s.dev.hl.flush = none → (∀ x ∈ s.dev.chans, x.2.readback = false) →
      Leaves .pcieLinkDown s { s.dev with hl := { s.dev.hl with pcieUp := false, armed := false, state := 0 } } ∧
      (s.dev.hl.eklUp = true →
        Leaves .eklLinkDown s ({ s.dev with hl := { s.dev.hl with eklUp := false, state := 0 } }.raise (baseBU + 0xD0) 0 (baseBU + 0xD4)))) ∧
    (Grants s fn (baseHL + 8) 4 →
      (∀ token : BitVec 16, ∃ t, exec (.request fn token) s = .next t ∧ t.dev.hl.state = 1 ∧ t.dev.hl.fn = fn ∧ t.dev.hl.echo = token.toNat ∧
        t.dev.hl.session = (s.dev.hl.session + 1) % 2 ^ 32 ∧ t.dev.hl.ext = s.dev.hl.ext ∧ t.dev.mem = s.dev.mem ∧ t.dev.cores = s.dev.cores) ∧
      (∃ t, exec (.detach fn) s = .next t ∧ t.dev.hl.state = 0 ∧
        t.dev.hl.session = (if s.dev.hl.state = 2 then (s.dev.hl.session + 1) % 2 ^ 32 else s.dev.hl.session) ∧
        t.dev.hl.ext = s.dev.hl.ext ∧ t.dev.mem = s.dev.mem ∧ t.dev.cores = s.dev.cores) ∧
      (s.dev.hl.state = 1 → s.dev.hl.fn = fn →
        Leaves (.complete fn) s ({ s.dev with hl := { s.dev.hl with state := 2 } }.raise baseHL 1 (baseHL + 0x24))) ∧
      (s.dev.hl.state ≠ 1 → Leaves (.complete fn) s (dropWrite s.dev 4 fn (baseHL + 8)))) ∧
    (Grants s fn (baseHL + 0x10) 4 →
      Leaves (.hlHostRidWrite fn val) s ((writeFields s.dev (baseHL + 0x10) val.toNat).updHl (fun h => { h with armed := bit val.toNat 16 }))) ∧
    (∀ (rid : BitVec 16) off len, s.dev.ridRefuses rid = false → 0 < len → len ≤ 4096 → off + len ≤ 2 ^ 32 →
      let who : HostId := { fn := fn, rid := rid }
      let r := baseHL + 0x100 + 4 * fn
      let f := s.dev.fld r 19 16
      let pa := s.dev.fld r 15 0 * 2 ^ 32 + off
      (∀ e, pa % 64 + len ≤ 64 → s.dev.flag r 31 = true → s.ctl.tm.access.find? (fun e => e.fn == fn.val) = some e → bit e.facets f = true →
        s.ctl.inHbm f pa len = true →
        (∀ b ep, Leaves (.apertureAccess who off len (some b) ep) s
          (Dev.paWrite s.ctl s.dev (whoHost fn f) pa (marked ep (padTo len b)) 0 false).1) ∧
        (∀ d1 b e1 ep, Dev.paRead s.ctl s.dev (whoHost fn f) pa len 0 false = (d1, b, e1) →
          Leaves (.apertureAccess who off len none ep) s { d1 with reply := { data := if anyPoison b then 1 else 0, bytes := plain b } })) ∧
      (pa % 64 + len ≤ 64 → s.dev.flag r 31 = false → ∀ data ep,
        Leaves (.apertureAccess who off len data ep) s
          { apertureRefused s.dev fn 2 pa with reply := { error := true, data := 0, bytes := [] } }) ∧
      (∀ ep d1 b err, apertureRead s.ctl s.dev fn (pieceSpans pa len) = (d1, b, err) →
        Leaves (.apertureAccess who off len none ep) s { d1 with reply := { error := err, data := if anyPoison b then 1 else 0, bytes := plain b } })) ∧
    (s.dev.attached = true → s.dev.hl.flush = none → s.dev.unflushed = true →
      Leaves .flushReadIssue s (((s.dev.updHl (fun h => { h with flush := some s.dev.hl.nextId, nextId := s.dev.hl.nextId + 1 })).count (baseHL + 0x48) 1).emit
        (.flushRead s.dev.hl.nextId))) ∧
    (∀ m, s.dev.hl.flush = some m →
      Leaves (.flushReadDone true) s (s.dev.updHl (fun h => { h with
        flush := none, flushedTo := m, ext := h.ext.filter (fun e => !(e.host && (e.write && e.id < m))) }))) ∧
    (∀ e, s.dev.extOpen n true = some e → e.write = false → s.dev.extQuarantined e = false →
      (∀ b ep, Leaves (.hostWindowReadResponse n (.data b ep)) s (s.dev.updExt n (fun x => { x with answer := some (marked ep (padTo x.len b)) }))) ∧
      Leaves (.hostWindowReadResponse n .failed) s (s.dev.extFails e) ∧ Leaves (.completionTimeout n) s (s.dev.extFails e)) ∧
    (∀ src : Fin 4160, NatSet.has s.dev.hl.pend src = true → s.dev.flag (baseHL + 0x8000 + 4 * src) 31 = true → s.dev.attached = true →
      Leaves (.msixMessage src false) s
        (((s.dev.updHl (fun h => { h with pend := NatSet.del h.pend src })).count (baseHL + 0x4C) 1).emit
          (.msix src (s.dev.fld (baseHL + 0x8000 + 4 * src) 14 11) (s.dev.fld (baseHL + 0x8000 + 4 * src) 10 0))) ∧
      Leaves (.msixMessage src true) s s.dev)

/-! ### Supply, Ranger, recovery -/

/-- Supply and reset (R436, R489 to R491, R502, R503): what each event of the supply and the pins leaves. Every one that puts the logic in reset loses every volatile content
and keeps module flash; a trip switches off all rails but V_BUS and V_AUX, and keeps its cause until the input stops. -/
def Obligations.SupplyAndReset : Prop :=
  ∀ (s : State) (mv : BitVec 16),
    (∃ t, exec .inputInRange s = .next t ∧ t.ctl.power.inputOk = true ∧ t.ctl.power.rails = s.ctl.power.rails ∧ t.dev = s.dev ∧ t.ctl.flash = s.ctl.flash) ∧
    (∀ (i : Instr), i ∈ [Instr.inputStop, .modRstNAssert, .refclkLoss] →
      ∃ t, exec i s = .next t ∧ t.ctl.power.running = false ∧ t.ctl.flash = s.ctl.flash ∧ t.ctl.map = none ∧ t.ctl.stage = .rom ∧ t.dev.mem = {} ∧ t.dev.regs = [] ∧
        t.dev.cores = [] ∧ t.pending = s.pending ∧
        (i = .inputStop → t.ctl.power.inputOk = false ∧ t.ctl.power.trip = 0 ∧ t.ctl.power.rails = List.replicate 6 false) ∧
        (i = .modRstNAssert → t.ctl.power.rstN = false ∧ t.ctl.power.trip = s.ctl.power.trip) ∧
        (i = .refclkLoss → t.ctl.power.refclk = false ∧ t.ctl.power.trip = s.ctl.power.trip)) ∧
    (∃ t, exec .vinOut s = .next t ∧ t.ctl.power.inOperating = false ∧ t.ctl.power.inputOk = s.ctl.power.inputOk ∧ t.ctl.power.running = s.ctl.power.running ∧
      t.dev = (if s.ctl.power.running then s.dev.raise basePW 4 (basePW + 0x20) else s.dev)) ∧
    (∀ a b, s.ctl.power.rails = List.replicate a true ++ false :: b → s.ctl.power.inputOk = true → s.ctl.power.trip = 0 →
      ∃ t, exec (.railPowerGood mv) s = .next t ∧ t.ctl.power.rails = List.replicate a true ++ true :: b ∧ t.dev = s.dev) ∧
    (∀ cause, s.ctl.power.legal → tripCan cause s.ctl.power = true →
      ∃ t, exec (.trip cause) s = .next t ∧ t.ctl.power.running = false ∧ t.ctl.power.trip = cause.code ∧ t.ctl.power.rails.drop 2 = List.replicate 4 false ∧
        t.ctl.flash = s.ctl.flash ∧ t.dev.mem = {} ∧ ((∀ r, cause ≠ .railFault r) → t.ctl.power.rails.take 2 = s.ctl.power.rails.take 2) ∧
        (∀ r, cause = .railFault r → nth true t.ctl.power.rails r = false)) ∧
    (s.ctl.power.allGood = true → s.ctl.power.trip = 0 → s.ctl.power.tap.holds = false → s.ctl.power.running = false →
      ∃ t, exec .resetRelease s = .next t ∧ Runs t ∧ t.ctl.flash = s.ctl.flash ∧ t.ctl.map = s.ctl.map ∧ t.dev.regs = s.dev.regs)

/-- The sideband controller and the test port (R505, R506): while V_AUX is up every read answers its bytes, in reset and after a trip too (ENERGY while the logic runs), and changes nothing else; a write is not
acknowledged. An EXTEST instruction acts as BYPASS while MOD_RST_N is high, and while it is low keeps the logic in reset. -/
def Obligations.SidebandAndTestPort : Prop :=
  ∀ (s : State), s.ctl.power.aux = true →
    (∀ (i : Instr) (n x : Nat),
      (i, n, x) ∈ [(Instr.ident, 4, buId), (.status, 2, s.ctl.power.statusWord), (.tripCause, 1, s.ctl.power.trip),
        (.rails, 1, maskOf ((List.range 6).filter (fun r => nth false s.ctl.power.rails r)))] →
      exec i s = .next { s with dev := { s.dev with reply := { data := x % 2 ^ (8 * n), bytes := toLe n (x % 2 ^ (8 * n)) } } }) ∧
    (∀ (m : BitVec 16) (i : Instr), i ∈ [Instr.vin m, .iin m, .pin m] →
      exec i s = .next { s with dev := { s.dev with reply := { data := m.toNat, bytes := toLe 2 m.toNat } } }) ∧
    (∀ (m : BitVec 8) (i : Instr), i ∈ [Instr.tj m, .tcase m] →
      exec i s = .next { s with dev := { s.dev with reply := { data := m.toNat, bytes := toLe 1 m.toNat } } }) ∧
    (Runs s → exec .energy s = .next { s with dev := { s.dev with reply := {
      data := s.ctl.power.energy / 1000000 % 2 ^ 64, bytes := toLe 8 (s.ctl.power.energy / 1000000 % 2 ^ 64) } } }) ∧
    (∀ code, exec (.smbusWrite code) s = .next { s with dev := { s.dev with reply := { error := true } } }) ∧
    (Runs s →
      (∀ i ∈ [Instr.bypass, .trstNAssert], exec i s = .next { s with ctl := { s.ctl with power := { s.ctl.power with tap := .bypass } } }) ∧
      exec .samplePreload s = .next { s with ctl := { s.ctl with power := { s.ctl.power with tap := .samplePreload } } } ∧
      (s.ctl.power.rstN = true → ∀ i ∈ [Instr.extest, .extestPulse, .extestTrain],
        exec i s = .next { s with ctl := { s.ctl with power := { s.ctl.power with tap := .bypass } } })) ∧
    (¬ Runs s → s.ctl.power.rstN = false →
      ∀ (i : Instr) (x : TapInstr), (i, x) ∈ [(Instr.extest, TapInstr.extest), (.extestPulse, .extestPulse), (.extestTrain, .extestTrain)] →
        exec i s = .next { s with ctl := { s.ctl with power := { s.ctl.power with tap := x } } })

/-- Ranger's boot, ageing, keys and reports (R438, R442, R444 to R448, R482, R484): firmware bank 0 is tried before bank 1, an image from the host runs only if it verifies; self test; the start and
the end of a measurement; power-on hours; a key record is refused with its first failing check, or written; a report is built, signed, sent to the host and counted. -/
def Obligations.RangerCommands : Prop :=
  ∀ (s : State) (fn : Fin 16) (p : Fin 132) (val : Word),
    (s.ctl.power.inputOk = true →
      exec .powerOnHour s = .next { s with ctl := { s.ctl with flash := { s.ctl.flash with hours := (s.ctl.flash.hours + 1) % 2 ^ 32 } } }) ∧
    (Runs s → s.ctl.stage = .rom →
      (s.ctl.flash.fwFault 0 = 0 → LeavesBoth .firmwareBankVerify s ({ s.ctl.runFirmware (s.ctl.flash.firmware 0) with fwBank := 0 }, s.dev)) ∧
      (s.ctl.flash.fwFault 0 ≠ 0 → s.ctl.flash.fwFault 1 = 0 →
        LeavesBoth .firmwareBankVerify s ({ s.ctl.runFirmware (s.ctl.flash.firmware 1) with fwBank := 1, fwCode := s.ctl.flash.fwFault 0 }, s.dev)) ∧
      (s.ctl.flash.fwFault 0 ≠ 0 → s.ctl.flash.fwFault 1 ≠ 0 →
        LeavesBoth .firmwareBankVerify s ({ s.ctl with stage := .romWait, fwCode := s.ctl.flash.fwFault 1 }, s.dev))) ∧
    (Runs s → s.ctl.stage = .romWait → Grants s fn (baseBU + 0xC0) 4 → s.ctl.fwLoad = false → ∀ image,
      let d := s.dev.hostGet (s.dev.fld (baseBU + 0xC4) 31 12 * 4096 + s.dev.reg (baseBU + 0xC8) * 2 ^ 32) 64
      (fwCheck (fwImage 0 image) = 0 → LeavesBoth (.fwLoad fn true image) s (s.ctl.runFirmware (fwImage 0 image), d)) ∧
      (fwCheck (fwImage 0 image) ≠ 0 → LeavesBoth (.fwLoad fn true image) s ({ s.ctl with fwCode := fwCheck (fwImage 0 image) }, d)) ∧
      LeavesBoth (.fwLoad fn false image) s ({ s.ctl with fwCode := 1 }, d)) ∧
    (Runs s → s.ctl.fwLoad = true → ∀ ok image, LeavesBoth (.fwLoad fn ok image) s (s.ctl.fwLoaded ok image, s.dev)) ∧
    (Runs s → s.ctl.stage = .firmware → s.ctl.bistDone = false → ∀ failed slack,
      LeavesBoth (.bistEnd failed slack) s ({ s.ctl.takeSlack (List.range 132) slack with bistDone := true, bistFail := failed.toNat }, s.dev)) ∧
    (Runs s → s.ctl.measure = none →
      (s.ctl.stage = .firmware → s.ctl.bistDone = true → s.dev.fld (baseAG + 8) 15 0 ≠ 0 →
        LeavesBoth .periodicMeasurement s ({ s.ctl with measure := some { cause := .periodic, cores := s.ctl.measured } }, s.dev)) ∧
      (Grants s fn (baseAG + 4) 4 → LeavesBoth (.measure fn) s ({ s.ctl with measure := some { cause := .command, cores := s.ctl.measured } }, s.dev))) ∧
    (Runs s → ∀ m slack ro, s.ctl.measure = some m → m.cause ≠ .step →
      let c := { s.ctl with measure := none }.takeSlack m.cores slack
      let c := { c with ro := (List.range 512).map (fun i => (nth 0 ro i).toNat) }
      let c := { c with flash := { c.flash with history := (c.record m.cause :: c.flash.history).take 8192 } }
      let d := s.dev.raise baseAG 0 (baseAG + 0x10)
      let x := boundaries c d (((List.range 128).filter (fun n => m.cores.contains (c.phys n))).foldl (fun d n => timingCheck c d n) d)
      LeavesBoth (.measurementEnd slack ro) s (marginPlan x.1 x.2 m.cores)) ∧
    (Runs s → LeavesBoth (.clockRelockEnd p) s (s.ctl.updMargin p (fun m => { m with relock := false }), s.dev)) ∧
    (Runs s → Grants s fn (baseAG + 0x40) 4 →
      LeavesBoth (.agHistIndexWrite fn val) s ({ s.ctl with histIndex := val.toNat % 8192, histWord := 0 }, writeFields s.dev (baseAG + 0x40) val.toNat)) ∧
    (Runs s → Grants s fn (baseRG + 0x1010) 4 → s.ctl.keyPhase = .idle →
      (s.ctl.load.isSome = true → LeavesBoth (.keyCommand fn) s ({ s.ctl with keyPhase := .waiting }, s.dev)) ∧
      (s.ctl.load = none → LeavesBoth (.keyCommand fn) s ({ s.ctl with keyPhase := .reading },
        s.dev.hostGet (s.dev.fld (baseRG + 0x1014) 31 6 * 64 + s.dev.reg (baseRG + 0x1018) * 2 ^ 32) 192))) ∧
    (Runs s → s.ctl.keyPhase = .reading → ∀ record,
      (∀ code, recordCheck s.ctl (padTo 192 record) = some code → LeavesBoth (.keyRecordReadDone true record) s (keyRefused s.ctl s.dev code)) ∧
      (recordCheck s.ctl (padTo 192 record) = none →
        LeavesBoth (.keyRecordReadDone true record) s
          ({ s.ctl with keyPhase := .writing (byteAt (padTo 192 record) 5) (keyEntry (padTo 192 record)) }, s.dev))) ∧
    (Runs s → ∀ slot e, s.ctl.keyPhase = .writing slot e →
      LeavesBoth (.keySlotWriteDone true) s
        ({ s.ctl with keyPhase := .idle, flash := { s.ctl.flash with keys := modNth (fun _ => e) (slot - 1) s.ctl.flash.keys } },
          s.dev.raise (baseRG + 0x1000) 0 (baseRG + 0x1004)) ∧
      LeavesBoth (.keySlotWriteDone false) s ({ s.ctl with keyPhase := .idle, secCode := 7 }, s.dev.raise (baseRG + 0x1000) 1 (baseRG + 0x1008))) ∧
    (Runs s → Grants s fn (baseRG + 0x1040) 4 → s.ctl.attesting = true → LeavesBoth (.attest fn) s (s.ctl, s.dev)) ∧
    (Runs s → Grants s fn (baseRG + 0x1040) 4 → s.ctl.attesting = false → LeavesBoth (.attest fn) s ({ s.ctl with attesting := true },
      s.dev.hostGet (s.dev.fld (baseRG + 0x1044) 31 6 * 64 + s.dev.reg (baseRG + 0x1048) * 2 ^ 32) 32)) ∧
    (Runs s → s.ctl.attesting = true → ∀ nonce,
      let body := reportBody s.ctl nonce
      LeavesBoth (.attestNonceReadDone nonce) s
        ({ s.ctl with attesting := false, reports := (s.ctl.reports + 1) % 2 ^ 32 },
          ((s.dev.hostPost (s.dev.fld (baseRG + 0x104C) 31 6 * 64 + s.dev.reg (baseRG + 0x1050) * 2 ^ 32) (body ++ padTo 64 (Config.sign body)) false false).1).raise
            (baseRG + 0x1000) 2 (baseRG + 0x100C)))

/-- The end of a measurement never lowers a supply or raises a clock (R446): no core's voltage offset falls, none passes its ceiling, and a pending bin is the next slower one. No bin
changes at once, but on a core that the measurement quarantines, whose tasks so end: that boundary takes its pending bin (R375, R460). -/
def Obligations.MarginsNeverFall : Prop :=
  ∀ (s t : State) (slack : List (BitVec 8)) (ro : List (BitVec 16)) (p : Nat), exec (.measurementEnd slack ro) s = .next t →
    let a := s.ctl.margin p
    let b := t.ctl.margin p
    a.vOff ≤ b.vOff ∧ (a.vOff ≤ a.vCeil → b.vOff ≤ b.vCeil) ∧ b.vCeil = a.vCeil ∧
    ((b.fBin = a.fBin ∧ (b.pending = a.pending ∨ b.pending = some (a.fBin + 1))) ∨
      (a.pending = some b.fBin ∧ (b.pending = none ∨ b.pending = some (b.fBin + 1))))

/-- The violation log, quarantine, the Trip Log's registers and replay (R455 to R470): the oldest waiting violation is written as the next entry and raises its interrupt; a core is quarantined by a command
or by a machine check, tested, and comes back cleared; a channel's Trip Log mode; replay starts, is refused with its code, and stops. -/
def Obligations.ViolationsQuarantineReplay : Prop :=
  ∀ (s : State) (fn f : Fin 16) (core : Fin 128) (ch : Fin 4096) (val : Word), Runs s →
    (∀ v rest, s.dev.vqueue = v :: rest →
      let n := s.dev.reg (baseRG + 0x10)
      Leaves .violationLogWrite s
        ((({ s.dev with vqueue := rest }.putWords (logOff n) (v.bytes n s.dev.ltc) 8).setReg (baseRG + 0x10) ((n + 1) % 2 ^ 32)).irq 4145)) ∧
    (Grants s fn (baseRG + 0x200) 4 →
      LeavesBoth (.quarantine fn core) s (boundaries s.ctl s.dev ((s.dev.setFld (baseRG + 0x200) 6 0 core).quarantine s.ctl core 1)) ∧
      ((s.dev.core core).quar.phase = .quarantined →
        ∃ t, exec (.release fn core) s = .next t ∧ (t.dev.core core).quar.phase = .testing ∧ t.dev.mem = s.dev.mem ∧
          (t.dev.core core).store = (s.dev.core core).store)) ∧
    LeavesBoth (.machineCheck core) s (boundaries s.ctl s.dev (s.dev.quarantine s.ctl core 2)) ∧
    ((s.dev.core core).quar.phase = .testing →
      (∃ t, exec (.releaseBistEnd core true) s = .next t ∧ (t.dev.core core).quar.phase = .none ∧ (t.dev.core core).store = [] ∧ (t.dev.core core).tlb = [] ∧
        t.dev.mem = s.dev.mem) ∧
      (∃ t, exec (.releaseBistEnd core false) s = .next t ∧ (t.dev.core core).quar.phase = .quarantined ∧ (t.dev.core core).store = (s.dev.core core).store)) ∧
    (∀ high, Grants s fn (baseTlCh ch + (if high then 4 else 0)) 4 →
      (s.dev.tripMode ch ≠ 0 → high = true ∨ bits val.toNat 31 30 ≠ 0 →
        Leaves (.tlChWrite fn ch high val) s (dropWrite s.dev 4 fn (baseTlCh ch + (if high then 4 else 0)))) ∧
      (high = true → s.dev.tripMode ch = 0 → Leaves (.tlChWrite fn ch true val) s (writeFields s.dev (baseTlCh ch + 4) val.toNat)) ∧
      (high = false → bits val.toNat 31 30 = 0 → Leaves (.tlChWrite fn ch false val) s (writeFields s.dev (baseTlCh ch) val.toNat))) ∧
    (Grants s fn (baseReplay f) 4 →
      (s.dev.goRefusal s.ctl f = 0 →
        LeavesBoth (.go fn f) s ({ s.ctl with facetState := modNth (fun _ => .running) f s.ctl.facetState },
          s.dev.updReplay f (fun r => { r with state := 1, code := 0, forced := 0, pos := [], used := [], stopping := false }))) ∧
      (s.dev.goRefusal s.ctl f ≠ 0 → LeavesBoth (.go fn f) s (s.ctl, s.dev.updReplay f (fun r => { r with code := s.dev.goRefusal s.ctl f }))) ∧
      Leaves (.stop fn f) s (s.dev.updReplay f (fun r => if r.state = 1 then { r with stopping := true } else r)))

/-! ### Governor -/

/-- The governor (R493 to R495): a sample is attributed to every facet and recorded; at a window boundary the next window begins, the levels take effect every 16th, and a window in
which a facet may start nothing counts as held. -/
def Obligations.GovernorSamplesAndWindows : Prop :=
  ∀ (s : State) (sample : PowerSample), Runs s →
    LeavesBoth (.governorSample sample) s
      ({ s.ctl with power := { s.ctl.power with
          energy := s.ctl.power.energy + 16 * sample.power, inOperating := decide (50000 ≤ sample.vin ∧ sample.vin ≤ 58000), vin := sample.vin, iin := sample.iin
          pin := sample.power / 1000, tj := sample.tj.toNat, tcase := sample.tcase.toNat } },
        (govShares s.ctl).foldl (fun d y => d.govFacet s.ctl sample y.1 y.2) (s.dev.govRegs sample)) ∧
    (let d := { s.dev with
        window := (s.dev.window + 1) % 16
        gov := if (s.dev.window + 1) % 16 = 0 then s.dev.gov.map (fun g : GovFacet => { g with effective := g.level }) else s.dev.gov }
     Leaves .governorWindow s ((govShares s.ctl).foldl (fun d y => if d.permits y.1 then d else d.count (basePW + 0x10C + 0x20 * y.1) 1) d)) ∧
    (∀ (f : Nat), f < s.dev.gov.length → 16 ≤ (nth ({} : GovFacet) s.dev.gov f).effective → s.dev.permits f = false)

/-- Thermal hold (R496): it starts at 100 °C of a junction or 82 °C of the case and ends at 97 °C and 79 °C; other readings leave it; while it lasts every facet counts as over at every
sample, so its hold level rises. -/
def Obligations.ThermalHold : Prop :=
  ∀ (s : State) (tj tcase : BitVec 8), Runs s →
    (s.ctl.power.thermalHold = false →
      (100 ≤ sext 8 tj.toNat ∨ 82 ≤ sext 8 tcase.toNat →
        LeavesBoth (.thermalHoldStart tj tcase) s
          ({ s.ctl with power := { s.ctl.power with thermalHold := true, tj := tj.toNat, tcase := tcase.toNat } }, s.dev.raise basePW 3 (basePW + 0x1C))) ∧
      (¬ (100 ≤ sext 8 tj.toNat ∨ 82 ≤ sext 8 tcase.toNat) → LeavesBoth (.thermalHoldStart tj tcase) s (s.ctl, s.dev))) ∧
    (s.ctl.power.thermalHold = true →
      (sext 8 tj.toNat ≤ 97 ∧ sext 8 tcase.toNat ≤ 79 →
        LeavesBoth (.thermalHoldEnd tj tcase) s
          ({ s.ctl with power := { s.ctl.power with thermalHold := false, tj := tj.toNat, tcase := tcase.toNat } }, s.dev)) ∧
      (¬ (sext 8 tj.toNat ≤ 97 ∧ sext 8 tcase.toNat ≤ 79) → LeavesBoth (.thermalHoldEnd tj tcase) s (s.ctl, s.dev)) ∧
      (∀ (d : Dev) (x : PowerSample) (f share : Nat), f < d.gov.length →
        (nth ({} : GovFacet) (d.govFacet s.ctl x f share).gov f).level = min 16 ((nth ({} : GovFacet) d.gov f).level + 1)))
end

