-- ==== Sys2Proof/Laws/Sparse.lean ====
section
/-! SUPPORT. Laws of sparse tables and of memory: a read after a write, and the canonical form, which every operation keeps. -/

namespace Sys2Proof.Machine

variable {α : Type}

/-- A lower bound may be lowered. -/
theorem Sparse.above_mono (m : Sparse α) {a b : Nat} (hab : a ≤ b) (h : Sparse.above b m = true) : Sparse.above a m = true := by
  cases m with
  | nil => rfl
  | cons e r => simp only [Sparse.above, decide_eq_true_eq] at *; omega

/-- A key that is gone is not found. -/
@[simp] theorem Sparse.get_erase_self (d : α) (m : Sparse α) (k : Nat) : Sparse.get d (Sparse.erase m k) k = d := by
  induction m with
  | nil => rfl
  | cons e r ih =>
    obtain ⟨k', v'⟩ := e
    by_cases h : k = k' <;> simp [Sparse.erase, Sparse.get, h]
    · subst h; exact ih
    · exact ih

/-- The other keys stay. -/
@[simp] theorem Sparse.get_erase_ne (d : α) (m : Sparse α) (k j : Nat) (hj : j ≠ k) : Sparse.get d (Sparse.erase m k) j = Sparse.get d m j := by
  induction m with
  | nil => rfl
  | cons e r ih =>
    obtain ⟨k', v'⟩ := e
    by_cases h : k = k'
    · subst h; simp [Sparse.erase, Sparse.get, hj, ih]
    · simp [Sparse.erase, Sparse.get, h, ih]

variable [DecidableEq α]

/-- An entry put where its key is not listed is found. -/
theorem Sparse.get_put_self (d : α) (m : Sparse α) (k : Nat) (v : α) : Sparse.get d (Sparse.put d (Sparse.erase m k) k v) k = v := by
  induction m with
  | nil => by_cases hv : v = d <;> simp [Sparse.erase, Sparse.put, Sparse.get, hv]
  | cons e r ih =>
    obtain ⟨k', v'⟩ := e
    by_cases h : k = k'
    · simp [Sparse.erase, h] at ih ⊢; exact ih
    · by_cases hl : k < k'
      · by_cases hv : v = d <;> simp [Sparse.erase, Sparse.put, Sparse.get, h, hl, hv]
      · simp [Sparse.erase, Sparse.put, Sparse.get, h, hl, ih]

/-- It hides no other. -/
theorem Sparse.get_put_ne (d : α) (m : Sparse α) (k j : Nat) (v : α) (hj : j ≠ k) : Sparse.get d (Sparse.put d m k v) j = Sparse.get d m j := by
  induction m with
  | nil => by_cases hv : v = d <;> simp [Sparse.put, Sparse.get, hj, hv]
  | cons e r ih =>
    obtain ⟨k', v'⟩ := e
    by_cases hl : k < k'
    · by_cases hv : v = d <;> simp [Sparse.put, Sparse.get, hl, hj, hv]
    · simp [Sparse.put, Sparse.get, hl, ih]

/-- A read after a write to the same key gives the value written. -/
@[simp] theorem Sparse.get_set_self (d : α) (m : Sparse α) (k : Nat) (v : α) : Sparse.get d (Sparse.set d m k v) k = v :=
  Sparse.get_put_self d m k v

/-- A write leaves every other key alone. -/
@[simp] theorem Sparse.get_set_ne (d : α) (m : Sparse α) (k j : Nat) (v : α) (hj : j ≠ k) :
    Sparse.get d (Sparse.set d m k v) j = Sparse.get d m j := by
  rw [Sparse.set, Sparse.get_put_ne d _ k j v hj, Sparse.get_erase_ne d m k j hj]

/-- Erasing keeps a lower bound of the keys. -/
theorem Sparse.above_erase (d : α) (m : Sparse α) (b k : Nat) (h : Sparse.above b m = true) (hw : Sparse.wf d m = true) :
    Sparse.above b (Sparse.erase m k) = true := by
  induction m generalizing b with
  | nil => rfl
  | cons e r ih =>
    obtain ⟨k', v'⟩ := e
    simp only [Sparse.wf, Bool.and_eq_true] at hw
    simp only [Sparse.above, decide_eq_true_eq] at h
    simp only [Sparse.erase]
    split
    · exact ih b (Sparse.above_mono r (by omega) hw.1) hw.2.2
    · simp [Sparse.above, h]

/-- Erasing keeps the canonical form. -/
theorem Sparse.wf_erase (d : α) (m : Sparse α) (k : Nat) (h : Sparse.wf d m = true) : Sparse.wf d (Sparse.erase m k) = true := by
  induction m with
  | nil => rfl
  | cons e r ih =>
    obtain ⟨k', v'⟩ := e
    have h' := h
    simp only [Sparse.wf, Bool.and_eq_true] at h'
    obtain ⟨ha, hv, hr⟩ := h'
    simp only [Sparse.erase]
    split
    · exact ih hr
    · simp [Sparse.wf, Sparse.above_erase d r k' k ha hr, ih hr, of_decide_eq_true hv]

/-- An entry put in keeps a lower bound that its key meets. -/
theorem Sparse.above_put (d : α) (m : Sparse α) (b k : Nat) (v : α) (h : Sparse.above b m = true) (hk : b < k) :
    Sparse.above b (Sparse.put d m k v) = true := by
  cases m with
  | nil => by_cases hv : v = d <;> simp [Sparse.put, Sparse.above, hk, hv]
  | cons e r =>
    obtain ⟨k', v'⟩ := e
    simp only [Sparse.above, decide_eq_true_eq] at h
    by_cases hl : k < k'
    · by_cases hv : v = d <;> simp [Sparse.put, Sparse.above, hl, h, hk, hv]
    · simp [Sparse.put, Sparse.above, hl, h]

omit [DecidableEq α] in
/-- No entry of the table has the key that was erased. -/
theorem Sparse.erase_keys (m : Sparse α) (k : Nat) : ∀ e ∈ Sparse.erase m k, e.1 ≠ k := by
  induction m with
  | nil => simp [Sparse.erase]
  | cons e r ih =>
    obtain ⟨k', v'⟩ := e
    simp only [Sparse.erase]
    split
    · exact ih
    · rename_i h
      intro e he
      rcases List.mem_cons.mp he with rfl | he
      · exact fun h' => h h'.symm
      · exact ih e he

/-- Putting in a key that is not listed keeps the canonical form. -/
theorem Sparse.wf_put (d : α) (m : Sparse α) (k : Nat) (v : α) (hk : ∀ e ∈ m, e.1 ≠ k) (h : Sparse.wf d m = true) :
    Sparse.wf d (Sparse.put d m k v) = true := by
  induction m with
  | nil => by_cases hv : v = d <;> simp [Sparse.put, Sparse.wf, Sparse.above, hv]
  | cons e r ih =>
    obtain ⟨k', v'⟩ := e
    have h' := h
    simp only [Sparse.wf, Bool.and_eq_true] at h'
    obtain ⟨ha, hv', hr⟩ := h'
    simp only [Sparse.put]
    split
    · rename_i hl
      split
      · exact h
      · rename_i hv
        rw [Sparse.wf, h]
        simp [Sparse.above, hl, hv]
    · have hne : k' ≠ k := hk (k', v') (by simp)
      have := Sparse.above_put d r k' k v ha (by omega)
      simp [Sparse.wf, this, ih (fun e he => hk e (by simp [he])) hr, of_decide_eq_true hv']

/-- A write keeps the canonical form. -/
theorem Sparse.wf_set (d : α) (m : Sparse α) (k : Nat) (v : α) (h : Sparse.wf d m = true) : Sparse.wf d (Sparse.set d m k v) = true :=
  Sparse.wf_put d _ k v (Sparse.erase_keys m k) (Sparse.wf_erase d m k h)

/-- A range cleared keeps a lower bound of the keys. -/
theorem Sparse.above_clearRange (d : α) (m : Sparse α) (b lo hi : Nat) (h : Sparse.above b m = true) (hw : Sparse.wf d m = true) :
    Sparse.above b (Sparse.clearRange m lo hi) = true := by
  induction m generalizing b with
  | nil => rfl
  | cons e r ih =>
    obtain ⟨k', v'⟩ := e
    simp only [Sparse.wf, Bool.and_eq_true] at hw
    simp only [Sparse.above, decide_eq_true_eq] at h
    simp only [Sparse.clearRange, List.filter_cons]
    split
    · simp [Sparse.above, h]
    · exact ih b (Sparse.above_mono r (by omega) hw.1) hw.2.2

/-- A range cleared keeps the canonical form. -/
theorem Sparse.wf_clearRange (d : α) (m : Sparse α) (lo hi : Nat) (h : Sparse.wf d m = true) : Sparse.wf d (Sparse.clearRange m lo hi) = true := by
  induction m with
  | nil => rfl
  | cons e r ih =>
    obtain ⟨k', v'⟩ := e
    have h' := h
    simp only [Sparse.wf, Bool.and_eq_true] at h'
    obtain ⟨ha, hv, hr⟩ := h'
    have h1 := ih hr
    have h2 := Sparse.above_clearRange d r k' lo hi ha hr
    simp only [Sparse.clearRange, List.filter_cons] at *
    split
    · simp [Sparse.wf, h1, h2, of_decide_eq_true hv]
    · exact h1

/-! ### Memory -/

/-- A byte write keeps the canonical form of a memory. -/
theorem Memory.wf_write (m : Memory) (a : Nat) (b : Byte) (h : Memory.wf m = true) : Memory.wf (Memory.write m a b) = true :=
  Sparse.wf_set (α := Byte) Memory.unlisted m a b h

/-- Writes of many bytes keep it. -/
theorem Memory.wf_writeN (m : Memory) (a : Nat) (l : List Byte) (h : Memory.wf m = true) : Memory.wf (Memory.writeN m a l) = true := by
  induction l generalizing m a with
  | nil => exact h
  | cons b r ih => exact ih _ _ (Memory.wf_write m a b h)

/-- A byte outside the bytes written reads as before. -/
theorem Memory.read_writeN_outside (m : Memory) (a : Nat) (l : List Byte) (x : Nat) (hx : x < a ∨ a + l.length ≤ x) :
    Memory.read (Memory.writeN m a l) x = Memory.read m x := by
  induction l generalizing m a with
  | nil => rfl
  | cons b r ih =>
    simp only [List.length_cons] at hx
    rw [Memory.writeN, ih _ _ (by omega)]
    exact Sparse.get_set_ne (α := Byte) Memory.unlisted m a x b (by omega)

/-- Byte i of the bytes written is read back. -/
theorem Memory.read_writeN_inside (m : Memory) (a : Nat) (l : List Byte) (i : Nat) (hi : i < l.length) :
    Memory.read (Memory.writeN m a l) (a + i) = l[i] := by
  induction l generalizing m a i with
  | nil => simp at hi
  | cons b r ih =>
    cases i with
    | zero =>
      rw [Memory.writeN, Memory.read_writeN_outside _ _ _ _ (by omega)]
      exact Sparse.get_set_self (α := Byte) Memory.unlisted m a b
    | succ j =>
      have := ih (Memory.write m a b) (a + 1) j (by simpa using hi)
      rw [Memory.writeN]
      simpa [Nat.add_assoc, Nat.add_comm 1 j] using this

/-- A write of Core Store keeps its memory's canonical form. -/
theorem Core.csWrite_wf (k : Core) (a : Nat) (b : List PByte) (h : Memory.wf k.store = true) : Memory.wf (k.csWrite a b).store = true :=
  Memory.wf_writeN k.store a _ h

end Sys2Proof.Machine
end

