-- ==== Sys2Proof/Laws/State.lean ====
section
/-! SUPPORT. What each update of the state leaves alone: one lemma per field per update. -/

namespace Sys2Proof.Machine

variable (d : Dev) (s : State)

@[simp] theorem State.updPower_pending (f : Power → Power) : (s.updPower f).pending = s.pending := rfl
@[simp] theorem State.updPower_dev (f : Power → Power) : (s.updPower f).dev = s.dev := rfl
@[simp] theorem State.updPower_power (f : Power → Power) : (s.updPower f).ctl.power = f s.ctl.power := rfl
@[simp] theorem State.updPower_flash (f : Power → Power) : (s.updPower f).ctl.flash = s.ctl.flash := rfl
@[simp] theorem State.updPower_map (f : Power → Power) : (s.updPower f).ctl.map = s.ctl.map := rfl
@[simp] theorem State.holdInReset_pending : s.holdInReset.pending = s.pending := rfl
@[simp] theorem State.holdInReset_flash : s.holdInReset.ctl.flash = s.ctl.flash := rfl
@[simp] theorem State.holdInReset_running : s.holdInReset.ctl.power.running = false := rfl
@[simp] theorem State.holdInReset_map : s.holdInReset.ctl.map = none := rfl
@[simp] theorem State.holdInReset_rails : s.holdInReset.ctl.power.rails = s.ctl.power.rails := rfl

@[simp] theorem Dev.setReg_latch (off v : Nat) : (d.setReg off v).latch = d.latch := rfl
@[simp] theorem Dev.setReg_ltc (off v : Nat) : (d.setReg off v).ltc = d.ltc := rfl
@[simp] theorem Dev.setReg_mem (off v : Nat) : (d.setReg off v).mem = d.mem := rfl
@[simp] theorem Dev.setReg_xl (off v : Nat) : (d.setReg off v).xl = d.xl := rfl
@[simp] theorem Dev.setReg_sync (off v : Nat) : (d.setReg off v).sync = d.sync := rfl
@[simp] theorem Dev.setReg_queues (off v : Nat) : (d.setReg off v).queues = d.queues := rfl
@[simp] theorem Dev.setReg_chans (off v : Nat) : (d.setReg off v).chans = d.chans := rfl
@[simp] theorem Dev.setReg_ready (off v : Nat) : (d.setReg off v).ready = d.ready := rfl
@[simp] theorem Dev.setReg_clients (off v : Nat) : (d.setReg off v).clients = d.clients := rfl
@[simp] theorem Dev.setReg_cores (off v : Nat) : (d.setReg off v).cores = d.cores := rfl
@[simp] theorem Dev.setReg_rd (off v : Nat) : (d.setReg off v).rd = d.rd := rfl
@[simp] theorem Dev.setReg_retiring (off v : Nat) : (d.setReg off v).retiring = d.retiring := rfl
@[simp] theorem Dev.setReg_refsDue (off v : Nat) : (d.setReg off v).refsDue = d.refsDue := rfl
@[simp] theorem Dev.setReg_ports (off v : Nat) : (d.setReg off v).ports = d.ports := rfl
@[simp] theorem Dev.setReg_waiting (off v : Nat) : (d.setReg off v).waiting = d.waiting := rfl
@[simp] theorem Dev.setReg_inbox (off v : Nat) : (d.setReg off v).inbox = d.inbox := rfl
@[simp] theorem Dev.setReg_twin (off v : Nat) : (d.setReg off v).twin = d.twin := rfl
@[simp] theorem Dev.setReg_hl (off v : Nat) : (d.setReg off v).hl = d.hl := rfl
@[simp] theorem Dev.setReg_vqueue (off v : Nat) : (d.setReg off v).vqueue = d.vqueue := rfl
@[simp] theorem Dev.setReg_tripNext (off v : Nat) : (d.setReg off v).tripNext = d.tripNext := rfl
@[simp] theorem Dev.setReg_rings (off v : Nat) : (d.setReg off v).rings = d.rings := rfl
@[simp] theorem Dev.setReg_replay (off v : Nat) : (d.setReg off v).replay = d.replay := rfl
@[simp] theorem Dev.setReg_gov (off v : Nat) : (d.setReg off v).gov = d.gov := rfl
@[simp] theorem Dev.setReg_window (off v : Nat) : (d.setReg off v).window = d.window := rfl
@[simp] theorem Dev.setReg_energy (off v : Nat) : (d.setReg off v).energy = d.energy := rfl
@[simp] theorem Dev.setReg_placed (off v : Nat) : (d.setReg off v).placed = d.placed := rfl
@[simp] theorem Dev.setReg_out (off v : Nat) : (d.setReg off v).out = d.out := rfl
@[simp] theorem Dev.setReg_reply (off v : Nat) : (d.setReg off v).reply = d.reply := rfl
@[simp] theorem Dev.setReg_freeCtr (off v : Nat) : (d.setReg off v).freeCtr = d.freeCtr := rfl

@[simp] theorem Dev.setFld_latch (off hi lo v : Nat) : (d.setFld off hi lo v).latch = d.latch := rfl
@[simp] theorem Dev.setFld_ltc (off hi lo v : Nat) : (d.setFld off hi lo v).ltc = d.ltc := rfl
@[simp] theorem Dev.setFld_mem (off hi lo v : Nat) : (d.setFld off hi lo v).mem = d.mem := rfl
@[simp] theorem Dev.setFld_xl (off hi lo v : Nat) : (d.setFld off hi lo v).xl = d.xl := rfl
@[simp] theorem Dev.setFld_sync (off hi lo v : Nat) : (d.setFld off hi lo v).sync = d.sync := rfl
@[simp] theorem Dev.setFld_queues (off hi lo v : Nat) : (d.setFld off hi lo v).queues = d.queues := rfl
@[simp] theorem Dev.setFld_chans (off hi lo v : Nat) : (d.setFld off hi lo v).chans = d.chans := rfl
@[simp] theorem Dev.setFld_ready (off hi lo v : Nat) : (d.setFld off hi lo v).ready = d.ready := rfl
@[simp] theorem Dev.setFld_clients (off hi lo v : Nat) : (d.setFld off hi lo v).clients = d.clients := rfl
@[simp] theorem Dev.setFld_cores (off hi lo v : Nat) : (d.setFld off hi lo v).cores = d.cores := rfl
@[simp] theorem Dev.setFld_rd (off hi lo v : Nat) : (d.setFld off hi lo v).rd = d.rd := rfl
@[simp] theorem Dev.setFld_retiring (off hi lo v : Nat) : (d.setFld off hi lo v).retiring = d.retiring := rfl
@[simp] theorem Dev.setFld_refsDue (off hi lo v : Nat) : (d.setFld off hi lo v).refsDue = d.refsDue := rfl
@[simp] theorem Dev.setFld_ports (off hi lo v : Nat) : (d.setFld off hi lo v).ports = d.ports := rfl
@[simp] theorem Dev.setFld_waiting (off hi lo v : Nat) : (d.setFld off hi lo v).waiting = d.waiting := rfl
@[simp] theorem Dev.setFld_inbox (off hi lo v : Nat) : (d.setFld off hi lo v).inbox = d.inbox := rfl
@[simp] theorem Dev.setFld_twin (off hi lo v : Nat) : (d.setFld off hi lo v).twin = d.twin := rfl
@[simp] theorem Dev.setFld_hl (off hi lo v : Nat) : (d.setFld off hi lo v).hl = d.hl := rfl
@[simp] theorem Dev.setFld_vqueue (off hi lo v : Nat) : (d.setFld off hi lo v).vqueue = d.vqueue := rfl
@[simp] theorem Dev.setFld_tripNext (off hi lo v : Nat) : (d.setFld off hi lo v).tripNext = d.tripNext := rfl
@[simp] theorem Dev.setFld_rings (off hi lo v : Nat) : (d.setFld off hi lo v).rings = d.rings := rfl
@[simp] theorem Dev.setFld_replay (off hi lo v : Nat) : (d.setFld off hi lo v).replay = d.replay := rfl
@[simp] theorem Dev.setFld_gov (off hi lo v : Nat) : (d.setFld off hi lo v).gov = d.gov := rfl
@[simp] theorem Dev.setFld_window (off hi lo v : Nat) : (d.setFld off hi lo v).window = d.window := rfl
@[simp] theorem Dev.setFld_energy (off hi lo v : Nat) : (d.setFld off hi lo v).energy = d.energy := rfl
@[simp] theorem Dev.setFld_placed (off hi lo v : Nat) : (d.setFld off hi lo v).placed = d.placed := rfl
@[simp] theorem Dev.setFld_out (off hi lo v : Nat) : (d.setFld off hi lo v).out = d.out := rfl
@[simp] theorem Dev.setFld_reply (off hi lo v : Nat) : (d.setFld off hi lo v).reply = d.reply := rfl
@[simp] theorem Dev.setFld_freeCtr (off hi lo v : Nat) : (d.setFld off hi lo v).freeCtr = d.freeCtr := rfl

@[simp] theorem Dev.count_latch (off n : Nat) : (d.count off n).latch = d.latch := rfl
@[simp] theorem Dev.count_ltc (off n : Nat) : (d.count off n).ltc = d.ltc := rfl
@[simp] theorem Dev.count_mem (off n : Nat) : (d.count off n).mem = d.mem := rfl
@[simp] theorem Dev.count_xl (off n : Nat) : (d.count off n).xl = d.xl := rfl
@[simp] theorem Dev.count_sync (off n : Nat) : (d.count off n).sync = d.sync := rfl
@[simp] theorem Dev.count_queues (off n : Nat) : (d.count off n).queues = d.queues := rfl
@[simp] theorem Dev.count_chans (off n : Nat) : (d.count off n).chans = d.chans := rfl
@[simp] theorem Dev.count_ready (off n : Nat) : (d.count off n).ready = d.ready := rfl
@[simp] theorem Dev.count_clients (off n : Nat) : (d.count off n).clients = d.clients := rfl
@[simp] theorem Dev.count_cores (off n : Nat) : (d.count off n).cores = d.cores := rfl
@[simp] theorem Dev.count_rd (off n : Nat) : (d.count off n).rd = d.rd := rfl
@[simp] theorem Dev.count_retiring (off n : Nat) : (d.count off n).retiring = d.retiring := rfl
@[simp] theorem Dev.count_refsDue (off n : Nat) : (d.count off n).refsDue = d.refsDue := rfl
@[simp] theorem Dev.count_ports (off n : Nat) : (d.count off n).ports = d.ports := rfl
@[simp] theorem Dev.count_waiting (off n : Nat) : (d.count off n).waiting = d.waiting := rfl
@[simp] theorem Dev.count_inbox (off n : Nat) : (d.count off n).inbox = d.inbox := rfl
@[simp] theorem Dev.count_twin (off n : Nat) : (d.count off n).twin = d.twin := rfl
@[simp] theorem Dev.count_hl (off n : Nat) : (d.count off n).hl = d.hl := rfl
@[simp] theorem Dev.count_vqueue (off n : Nat) : (d.count off n).vqueue = d.vqueue := rfl
@[simp] theorem Dev.count_tripNext (off n : Nat) : (d.count off n).tripNext = d.tripNext := rfl
@[simp] theorem Dev.count_rings (off n : Nat) : (d.count off n).rings = d.rings := rfl
@[simp] theorem Dev.count_replay (off n : Nat) : (d.count off n).replay = d.replay := rfl
@[simp] theorem Dev.count_gov (off n : Nat) : (d.count off n).gov = d.gov := rfl
@[simp] theorem Dev.count_window (off n : Nat) : (d.count off n).window = d.window := rfl
@[simp] theorem Dev.count_energy (off n : Nat) : (d.count off n).energy = d.energy := rfl
@[simp] theorem Dev.count_placed (off n : Nat) : (d.count off n).placed = d.placed := rfl
@[simp] theorem Dev.count_out (off n : Nat) : (d.count off n).out = d.out := rfl
@[simp] theorem Dev.count_reply (off n : Nat) : (d.count off n).reply = d.reply := rfl
@[simp] theorem Dev.count_freeCtr (off n : Nat) : (d.count off n).freeCtr = d.freeCtr := rfl

@[simp] theorem Dev.countSat_latch (off n : Nat) : (d.countSat off n).latch = d.latch := rfl
@[simp] theorem Dev.countSat_ltc (off n : Nat) : (d.countSat off n).ltc = d.ltc := rfl
@[simp] theorem Dev.countSat_mem (off n : Nat) : (d.countSat off n).mem = d.mem := rfl
@[simp] theorem Dev.countSat_xl (off n : Nat) : (d.countSat off n).xl = d.xl := rfl
@[simp] theorem Dev.countSat_sync (off n : Nat) : (d.countSat off n).sync = d.sync := rfl
@[simp] theorem Dev.countSat_queues (off n : Nat) : (d.countSat off n).queues = d.queues := rfl
@[simp] theorem Dev.countSat_chans (off n : Nat) : (d.countSat off n).chans = d.chans := rfl
@[simp] theorem Dev.countSat_ready (off n : Nat) : (d.countSat off n).ready = d.ready := rfl
@[simp] theorem Dev.countSat_clients (off n : Nat) : (d.countSat off n).clients = d.clients := rfl
@[simp] theorem Dev.countSat_cores (off n : Nat) : (d.countSat off n).cores = d.cores := rfl
@[simp] theorem Dev.countSat_rd (off n : Nat) : (d.countSat off n).rd = d.rd := rfl
@[simp] theorem Dev.countSat_retiring (off n : Nat) : (d.countSat off n).retiring = d.retiring := rfl
@[simp] theorem Dev.countSat_refsDue (off n : Nat) : (d.countSat off n).refsDue = d.refsDue := rfl
@[simp] theorem Dev.countSat_ports (off n : Nat) : (d.countSat off n).ports = d.ports := rfl
@[simp] theorem Dev.countSat_waiting (off n : Nat) : (d.countSat off n).waiting = d.waiting := rfl
@[simp] theorem Dev.countSat_inbox (off n : Nat) : (d.countSat off n).inbox = d.inbox := rfl
@[simp] theorem Dev.countSat_twin (off n : Nat) : (d.countSat off n).twin = d.twin := rfl
@[simp] theorem Dev.countSat_hl (off n : Nat) : (d.countSat off n).hl = d.hl := rfl
@[simp] theorem Dev.countSat_vqueue (off n : Nat) : (d.countSat off n).vqueue = d.vqueue := rfl
@[simp] theorem Dev.countSat_tripNext (off n : Nat) : (d.countSat off n).tripNext = d.tripNext := rfl
@[simp] theorem Dev.countSat_rings (off n : Nat) : (d.countSat off n).rings = d.rings := rfl
@[simp] theorem Dev.countSat_replay (off n : Nat) : (d.countSat off n).replay = d.replay := rfl
@[simp] theorem Dev.countSat_gov (off n : Nat) : (d.countSat off n).gov = d.gov := rfl
@[simp] theorem Dev.countSat_window (off n : Nat) : (d.countSat off n).window = d.window := rfl
@[simp] theorem Dev.countSat_energy (off n : Nat) : (d.countSat off n).energy = d.energy := rfl
@[simp] theorem Dev.countSat_placed (off n : Nat) : (d.countSat off n).placed = d.placed := rfl
@[simp] theorem Dev.countSat_out (off n : Nat) : (d.countSat off n).out = d.out := rfl
@[simp] theorem Dev.countSat_reply (off n : Nat) : (d.countSat off n).reply = d.reply := rfl
@[simp] theorem Dev.countSat_freeCtr (off n : Nat) : (d.countSat off n).freeCtr = d.freeCtr := rfl

@[simp] theorem Dev.raise_latch (off i cnt : Nat) : (d.raise off i cnt).latch = d.latch := rfl
@[simp] theorem Dev.raise_ltc (off i cnt : Nat) : (d.raise off i cnt).ltc = d.ltc := rfl
@[simp] theorem Dev.raise_mem (off i cnt : Nat) : (d.raise off i cnt).mem = d.mem := rfl
@[simp] theorem Dev.raise_xl (off i cnt : Nat) : (d.raise off i cnt).xl = d.xl := rfl
@[simp] theorem Dev.raise_sync (off i cnt : Nat) : (d.raise off i cnt).sync = d.sync := rfl
@[simp] theorem Dev.raise_queues (off i cnt : Nat) : (d.raise off i cnt).queues = d.queues := rfl
@[simp] theorem Dev.raise_chans (off i cnt : Nat) : (d.raise off i cnt).chans = d.chans := rfl
@[simp] theorem Dev.raise_ready (off i cnt : Nat) : (d.raise off i cnt).ready = d.ready := rfl
@[simp] theorem Dev.raise_clients (off i cnt : Nat) : (d.raise off i cnt).clients = d.clients := rfl
@[simp] theorem Dev.raise_cores (off i cnt : Nat) : (d.raise off i cnt).cores = d.cores := rfl
@[simp] theorem Dev.raise_rd (off i cnt : Nat) : (d.raise off i cnt).rd = d.rd := rfl
@[simp] theorem Dev.raise_retiring (off i cnt : Nat) : (d.raise off i cnt).retiring = d.retiring := rfl
@[simp] theorem Dev.raise_refsDue (off i cnt : Nat) : (d.raise off i cnt).refsDue = d.refsDue := rfl
@[simp] theorem Dev.raise_ports (off i cnt : Nat) : (d.raise off i cnt).ports = d.ports := rfl
@[simp] theorem Dev.raise_waiting (off i cnt : Nat) : (d.raise off i cnt).waiting = d.waiting := rfl
@[simp] theorem Dev.raise_inbox (off i cnt : Nat) : (d.raise off i cnt).inbox = d.inbox := rfl
@[simp] theorem Dev.raise_twin (off i cnt : Nat) : (d.raise off i cnt).twin = d.twin := rfl
@[simp] theorem Dev.raise_hl (off i cnt : Nat) : (d.raise off i cnt).hl = d.hl := rfl
@[simp] theorem Dev.raise_vqueue (off i cnt : Nat) : (d.raise off i cnt).vqueue = d.vqueue := rfl
@[simp] theorem Dev.raise_tripNext (off i cnt : Nat) : (d.raise off i cnt).tripNext = d.tripNext := rfl
@[simp] theorem Dev.raise_rings (off i cnt : Nat) : (d.raise off i cnt).rings = d.rings := rfl
@[simp] theorem Dev.raise_replay (off i cnt : Nat) : (d.raise off i cnt).replay = d.replay := rfl
@[simp] theorem Dev.raise_gov (off i cnt : Nat) : (d.raise off i cnt).gov = d.gov := rfl
@[simp] theorem Dev.raise_window (off i cnt : Nat) : (d.raise off i cnt).window = d.window := rfl
@[simp] theorem Dev.raise_energy (off i cnt : Nat) : (d.raise off i cnt).energy = d.energy := rfl
@[simp] theorem Dev.raise_placed (off i cnt : Nat) : (d.raise off i cnt).placed = d.placed := rfl
@[simp] theorem Dev.raise_out (off i cnt : Nat) : (d.raise off i cnt).out = d.out := rfl
@[simp] theorem Dev.raise_reply (off i cnt : Nat) : (d.raise off i cnt).reply = d.reply := rfl
@[simp] theorem Dev.raise_freeCtr (off i cnt : Nat) : (d.raise off i cnt).freeCtr = d.freeCtr := rfl

@[simp] theorem Dev.answer_regs (v : Nat) : (d.answer v).regs = d.regs := rfl
@[simp] theorem Dev.answer_latch (v : Nat) : (d.answer v).latch = d.latch := rfl
@[simp] theorem Dev.answer_ltc (v : Nat) : (d.answer v).ltc = d.ltc := rfl
@[simp] theorem Dev.answer_mem (v : Nat) : (d.answer v).mem = d.mem := rfl
@[simp] theorem Dev.answer_xl (v : Nat) : (d.answer v).xl = d.xl := rfl
@[simp] theorem Dev.answer_sync (v : Nat) : (d.answer v).sync = d.sync := rfl
@[simp] theorem Dev.answer_queues (v : Nat) : (d.answer v).queues = d.queues := rfl
@[simp] theorem Dev.answer_chans (v : Nat) : (d.answer v).chans = d.chans := rfl
@[simp] theorem Dev.answer_ready (v : Nat) : (d.answer v).ready = d.ready := rfl
@[simp] theorem Dev.answer_clients (v : Nat) : (d.answer v).clients = d.clients := rfl
@[simp] theorem Dev.answer_cores (v : Nat) : (d.answer v).cores = d.cores := rfl
@[simp] theorem Dev.answer_rd (v : Nat) : (d.answer v).rd = d.rd := rfl
@[simp] theorem Dev.answer_retiring (v : Nat) : (d.answer v).retiring = d.retiring := rfl
@[simp] theorem Dev.answer_refsDue (v : Nat) : (d.answer v).refsDue = d.refsDue := rfl
@[simp] theorem Dev.answer_ports (v : Nat) : (d.answer v).ports = d.ports := rfl
@[simp] theorem Dev.answer_waiting (v : Nat) : (d.answer v).waiting = d.waiting := rfl
@[simp] theorem Dev.answer_inbox (v : Nat) : (d.answer v).inbox = d.inbox := rfl
@[simp] theorem Dev.answer_twin (v : Nat) : (d.answer v).twin = d.twin := rfl
@[simp] theorem Dev.answer_hl (v : Nat) : (d.answer v).hl = d.hl := rfl
@[simp] theorem Dev.answer_vqueue (v : Nat) : (d.answer v).vqueue = d.vqueue := rfl
@[simp] theorem Dev.answer_tripNext (v : Nat) : (d.answer v).tripNext = d.tripNext := rfl
@[simp] theorem Dev.answer_rings (v : Nat) : (d.answer v).rings = d.rings := rfl
@[simp] theorem Dev.answer_replay (v : Nat) : (d.answer v).replay = d.replay := rfl
@[simp] theorem Dev.answer_gov (v : Nat) : (d.answer v).gov = d.gov := rfl
@[simp] theorem Dev.answer_window (v : Nat) : (d.answer v).window = d.window := rfl
@[simp] theorem Dev.answer_energy (v : Nat) : (d.answer v).energy = d.energy := rfl
@[simp] theorem Dev.answer_placed (v : Nat) : (d.answer v).placed = d.placed := rfl
@[simp] theorem Dev.answer_out (v : Nat) : (d.answer v).out = d.out := rfl
@[simp] theorem Dev.answer_freeCtr (v : Nat) : (d.answer v).freeCtr = d.freeCtr := rfl

@[simp] theorem Dev.answerError_regs (w : Nat) : (d.answerError w).regs = d.regs := rfl
@[simp] theorem Dev.answerError_latch (w : Nat) : (d.answerError w).latch = d.latch := rfl
@[simp] theorem Dev.answerError_ltc (w : Nat) : (d.answerError w).ltc = d.ltc := rfl
@[simp] theorem Dev.answerError_mem (w : Nat) : (d.answerError w).mem = d.mem := rfl
@[simp] theorem Dev.answerError_xl (w : Nat) : (d.answerError w).xl = d.xl := rfl
@[simp] theorem Dev.answerError_sync (w : Nat) : (d.answerError w).sync = d.sync := rfl
@[simp] theorem Dev.answerError_queues (w : Nat) : (d.answerError w).queues = d.queues := rfl
@[simp] theorem Dev.answerError_chans (w : Nat) : (d.answerError w).chans = d.chans := rfl
@[simp] theorem Dev.answerError_ready (w : Nat) : (d.answerError w).ready = d.ready := rfl
@[simp] theorem Dev.answerError_clients (w : Nat) : (d.answerError w).clients = d.clients := rfl
@[simp] theorem Dev.answerError_cores (w : Nat) : (d.answerError w).cores = d.cores := rfl
@[simp] theorem Dev.answerError_rd (w : Nat) : (d.answerError w).rd = d.rd := rfl
@[simp] theorem Dev.answerError_retiring (w : Nat) : (d.answerError w).retiring = d.retiring := rfl
@[simp] theorem Dev.answerError_refsDue (w : Nat) : (d.answerError w).refsDue = d.refsDue := rfl
@[simp] theorem Dev.answerError_ports (w : Nat) : (d.answerError w).ports = d.ports := rfl
@[simp] theorem Dev.answerError_waiting (w : Nat) : (d.answerError w).waiting = d.waiting := rfl
@[simp] theorem Dev.answerError_inbox (w : Nat) : (d.answerError w).inbox = d.inbox := rfl
@[simp] theorem Dev.answerError_twin (w : Nat) : (d.answerError w).twin = d.twin := rfl
@[simp] theorem Dev.answerError_hl (w : Nat) : (d.answerError w).hl = d.hl := rfl
@[simp] theorem Dev.answerError_vqueue (w : Nat) : (d.answerError w).vqueue = d.vqueue := rfl
@[simp] theorem Dev.answerError_tripNext (w : Nat) : (d.answerError w).tripNext = d.tripNext := rfl
@[simp] theorem Dev.answerError_rings (w : Nat) : (d.answerError w).rings = d.rings := rfl
@[simp] theorem Dev.answerError_replay (w : Nat) : (d.answerError w).replay = d.replay := rfl
@[simp] theorem Dev.answerError_gov (w : Nat) : (d.answerError w).gov = d.gov := rfl
@[simp] theorem Dev.answerError_window (w : Nat) : (d.answerError w).window = d.window := rfl
@[simp] theorem Dev.answerError_energy (w : Nat) : (d.answerError w).energy = d.energy := rfl
@[simp] theorem Dev.answerError_placed (w : Nat) : (d.answerError w).placed = d.placed := rfl
@[simp] theorem Dev.answerError_out (w : Nat) : (d.answerError w).out = d.out := rfl
@[simp] theorem Dev.answerError_freeCtr (w : Nat) : (d.answerError w).freeCtr = d.freeCtr := rfl

@[simp] theorem Dev.irq_regs (src : Nat) : (d.irq src).regs = d.regs := rfl
@[simp] theorem Dev.irq_latch (src : Nat) : (d.irq src).latch = d.latch := rfl
@[simp] theorem Dev.irq_ltc (src : Nat) : (d.irq src).ltc = d.ltc := rfl
@[simp] theorem Dev.irq_mem (src : Nat) : (d.irq src).mem = d.mem := rfl
@[simp] theorem Dev.irq_xl (src : Nat) : (d.irq src).xl = d.xl := rfl
@[simp] theorem Dev.irq_sync (src : Nat) : (d.irq src).sync = d.sync := rfl
@[simp] theorem Dev.irq_queues (src : Nat) : (d.irq src).queues = d.queues := rfl
@[simp] theorem Dev.irq_chans (src : Nat) : (d.irq src).chans = d.chans := rfl
@[simp] theorem Dev.irq_ready (src : Nat) : (d.irq src).ready = d.ready := rfl
@[simp] theorem Dev.irq_clients (src : Nat) : (d.irq src).clients = d.clients := rfl
@[simp] theorem Dev.irq_cores (src : Nat) : (d.irq src).cores = d.cores := rfl
@[simp] theorem Dev.irq_rd (src : Nat) : (d.irq src).rd = d.rd := rfl
@[simp] theorem Dev.irq_retiring (src : Nat) : (d.irq src).retiring = d.retiring := rfl
@[simp] theorem Dev.irq_refsDue (src : Nat) : (d.irq src).refsDue = d.refsDue := rfl
@[simp] theorem Dev.irq_ports (src : Nat) : (d.irq src).ports = d.ports := rfl
@[simp] theorem Dev.irq_waiting (src : Nat) : (d.irq src).waiting = d.waiting := rfl
@[simp] theorem Dev.irq_inbox (src : Nat) : (d.irq src).inbox = d.inbox := rfl
@[simp] theorem Dev.irq_twin (src : Nat) : (d.irq src).twin = d.twin := rfl
@[simp] theorem Dev.irq_vqueue (src : Nat) : (d.irq src).vqueue = d.vqueue := rfl
@[simp] theorem Dev.irq_tripNext (src : Nat) : (d.irq src).tripNext = d.tripNext := rfl
@[simp] theorem Dev.irq_rings (src : Nat) : (d.irq src).rings = d.rings := rfl
@[simp] theorem Dev.irq_replay (src : Nat) : (d.irq src).replay = d.replay := rfl
@[simp] theorem Dev.irq_gov (src : Nat) : (d.irq src).gov = d.gov := rfl
@[simp] theorem Dev.irq_window (src : Nat) : (d.irq src).window = d.window := rfl
@[simp] theorem Dev.irq_energy (src : Nat) : (d.irq src).energy = d.energy := rfl
@[simp] theorem Dev.irq_placed (src : Nat) : (d.irq src).placed = d.placed := rfl
@[simp] theorem Dev.irq_out (src : Nat) : (d.irq src).out = d.out := rfl
@[simp] theorem Dev.irq_reply (src : Nat) : (d.irq src).reply = d.reply := rfl
@[simp] theorem Dev.irq_freeCtr (src : Nat) : (d.irq src).freeCtr = d.freeCtr := rfl

@[simp] theorem Dev.emit_regs (o : Out) : (d.emit o).regs = d.regs := rfl
@[simp] theorem Dev.emit_latch (o : Out) : (d.emit o).latch = d.latch := rfl
@[simp] theorem Dev.emit_ltc (o : Out) : (d.emit o).ltc = d.ltc := rfl
@[simp] theorem Dev.emit_mem (o : Out) : (d.emit o).mem = d.mem := rfl
@[simp] theorem Dev.emit_xl (o : Out) : (d.emit o).xl = d.xl := rfl
@[simp] theorem Dev.emit_sync (o : Out) : (d.emit o).sync = d.sync := rfl
@[simp] theorem Dev.emit_queues (o : Out) : (d.emit o).queues = d.queues := rfl
@[simp] theorem Dev.emit_chans (o : Out) : (d.emit o).chans = d.chans := rfl
@[simp] theorem Dev.emit_ready (o : Out) : (d.emit o).ready = d.ready := rfl
@[simp] theorem Dev.emit_clients (o : Out) : (d.emit o).clients = d.clients := rfl
@[simp] theorem Dev.emit_cores (o : Out) : (d.emit o).cores = d.cores := rfl
@[simp] theorem Dev.emit_rd (o : Out) : (d.emit o).rd = d.rd := rfl
@[simp] theorem Dev.emit_retiring (o : Out) : (d.emit o).retiring = d.retiring := rfl
@[simp] theorem Dev.emit_refsDue (o : Out) : (d.emit o).refsDue = d.refsDue := rfl
@[simp] theorem Dev.emit_ports (o : Out) : (d.emit o).ports = d.ports := rfl
@[simp] theorem Dev.emit_waiting (o : Out) : (d.emit o).waiting = d.waiting := rfl
@[simp] theorem Dev.emit_inbox (o : Out) : (d.emit o).inbox = d.inbox := rfl
@[simp] theorem Dev.emit_twin (o : Out) : (d.emit o).twin = d.twin := rfl
@[simp] theorem Dev.emit_hl (o : Out) : (d.emit o).hl = d.hl := rfl
@[simp] theorem Dev.emit_vqueue (o : Out) : (d.emit o).vqueue = d.vqueue := rfl
@[simp] theorem Dev.emit_tripNext (o : Out) : (d.emit o).tripNext = d.tripNext := rfl
@[simp] theorem Dev.emit_rings (o : Out) : (d.emit o).rings = d.rings := rfl
@[simp] theorem Dev.emit_replay (o : Out) : (d.emit o).replay = d.replay := rfl
@[simp] theorem Dev.emit_gov (o : Out) : (d.emit o).gov = d.gov := rfl
@[simp] theorem Dev.emit_window (o : Out) : (d.emit o).window = d.window := rfl
@[simp] theorem Dev.emit_energy (o : Out) : (d.emit o).energy = d.energy := rfl
@[simp] theorem Dev.emit_placed (o : Out) : (d.emit o).placed = d.placed := rfl
@[simp] theorem Dev.emit_reply (o : Out) : (d.emit o).reply = d.reply := rfl
@[simp] theorem Dev.emit_freeCtr (o : Out) : (d.emit o).freeCtr = d.freeCtr := rfl

@[simp] theorem Dev.setCore_regs (n : Nat) (k : Core) : (d.setCore n k).regs = d.regs := rfl
@[simp] theorem Dev.setCore_latch (n : Nat) (k : Core) : (d.setCore n k).latch = d.latch := rfl
@[simp] theorem Dev.setCore_ltc (n : Nat) (k : Core) : (d.setCore n k).ltc = d.ltc := rfl
@[simp] theorem Dev.setCore_mem (n : Nat) (k : Core) : (d.setCore n k).mem = d.mem := rfl
@[simp] theorem Dev.setCore_xl (n : Nat) (k : Core) : (d.setCore n k).xl = d.xl := rfl
@[simp] theorem Dev.setCore_sync (n : Nat) (k : Core) : (d.setCore n k).sync = d.sync := rfl
@[simp] theorem Dev.setCore_queues (n : Nat) (k : Core) : (d.setCore n k).queues = d.queues := rfl
@[simp] theorem Dev.setCore_chans (n : Nat) (k : Core) : (d.setCore n k).chans = d.chans := rfl
@[simp] theorem Dev.setCore_ready (n : Nat) (k : Core) : (d.setCore n k).ready = d.ready := rfl
@[simp] theorem Dev.setCore_clients (n : Nat) (k : Core) : (d.setCore n k).clients = d.clients := rfl
@[simp] theorem Dev.setCore_rd (n : Nat) (k : Core) : (d.setCore n k).rd = d.rd := rfl
@[simp] theorem Dev.setCore_retiring (n : Nat) (k : Core) : (d.setCore n k).retiring = d.retiring := rfl
@[simp] theorem Dev.setCore_refsDue (n : Nat) (k : Core) : (d.setCore n k).refsDue = d.refsDue := rfl
@[simp] theorem Dev.setCore_ports (n : Nat) (k : Core) : (d.setCore n k).ports = d.ports := rfl
@[simp] theorem Dev.setCore_waiting (n : Nat) (k : Core) : (d.setCore n k).waiting = d.waiting := rfl
@[simp] theorem Dev.setCore_inbox (n : Nat) (k : Core) : (d.setCore n k).inbox = d.inbox := rfl
@[simp] theorem Dev.setCore_twin (n : Nat) (k : Core) : (d.setCore n k).twin = d.twin := rfl
@[simp] theorem Dev.setCore_hl (n : Nat) (k : Core) : (d.setCore n k).hl = d.hl := rfl
@[simp] theorem Dev.setCore_vqueue (n : Nat) (k : Core) : (d.setCore n k).vqueue = d.vqueue := rfl
@[simp] theorem Dev.setCore_tripNext (n : Nat) (k : Core) : (d.setCore n k).tripNext = d.tripNext := rfl
@[simp] theorem Dev.setCore_rings (n : Nat) (k : Core) : (d.setCore n k).rings = d.rings := rfl
@[simp] theorem Dev.setCore_replay (n : Nat) (k : Core) : (d.setCore n k).replay = d.replay := rfl
@[simp] theorem Dev.setCore_gov (n : Nat) (k : Core) : (d.setCore n k).gov = d.gov := rfl
@[simp] theorem Dev.setCore_window (n : Nat) (k : Core) : (d.setCore n k).window = d.window := rfl
@[simp] theorem Dev.setCore_energy (n : Nat) (k : Core) : (d.setCore n k).energy = d.energy := rfl
@[simp] theorem Dev.setCore_placed (n : Nat) (k : Core) : (d.setCore n k).placed = d.placed := rfl
@[simp] theorem Dev.setCore_out (n : Nat) (k : Core) : (d.setCore n k).out = d.out := rfl
@[simp] theorem Dev.setCore_reply (n : Nat) (k : Core) : (d.setCore n k).reply = d.reply := rfl
@[simp] theorem Dev.setCore_freeCtr (n : Nat) (k : Core) : (d.setCore n k).freeCtr = d.freeCtr := rfl

@[simp] theorem Dev.updCore_regs (n : Nat) (f : Core → Core) : (d.updCore n f).regs = d.regs := rfl
@[simp] theorem Dev.updCore_latch (n : Nat) (f : Core → Core) : (d.updCore n f).latch = d.latch := rfl
@[simp] theorem Dev.updCore_ltc (n : Nat) (f : Core → Core) : (d.updCore n f).ltc = d.ltc := rfl
@[simp] theorem Dev.updCore_mem (n : Nat) (f : Core → Core) : (d.updCore n f).mem = d.mem := rfl
@[simp] theorem Dev.updCore_xl (n : Nat) (f : Core → Core) : (d.updCore n f).xl = d.xl := rfl
@[simp] theorem Dev.updCore_sync (n : Nat) (f : Core → Core) : (d.updCore n f).sync = d.sync := rfl
@[simp] theorem Dev.updCore_queues (n : Nat) (f : Core → Core) : (d.updCore n f).queues = d.queues := rfl
@[simp] theorem Dev.updCore_chans (n : Nat) (f : Core → Core) : (d.updCore n f).chans = d.chans := rfl
@[simp] theorem Dev.updCore_ready (n : Nat) (f : Core → Core) : (d.updCore n f).ready = d.ready := rfl
@[simp] theorem Dev.updCore_clients (n : Nat) (f : Core → Core) : (d.updCore n f).clients = d.clients := rfl
@[simp] theorem Dev.updCore_rd (n : Nat) (f : Core → Core) : (d.updCore n f).rd = d.rd := rfl
@[simp] theorem Dev.updCore_retiring (n : Nat) (f : Core → Core) : (d.updCore n f).retiring = d.retiring := rfl
@[simp] theorem Dev.updCore_refsDue (n : Nat) (f : Core → Core) : (d.updCore n f).refsDue = d.refsDue := rfl
@[simp] theorem Dev.updCore_ports (n : Nat) (f : Core → Core) : (d.updCore n f).ports = d.ports := rfl
@[simp] theorem Dev.updCore_waiting (n : Nat) (f : Core → Core) : (d.updCore n f).waiting = d.waiting := rfl
@[simp] theorem Dev.updCore_inbox (n : Nat) (f : Core → Core) : (d.updCore n f).inbox = d.inbox := rfl
@[simp] theorem Dev.updCore_twin (n : Nat) (f : Core → Core) : (d.updCore n f).twin = d.twin := rfl
@[simp] theorem Dev.updCore_hl (n : Nat) (f : Core → Core) : (d.updCore n f).hl = d.hl := rfl
@[simp] theorem Dev.updCore_vqueue (n : Nat) (f : Core → Core) : (d.updCore n f).vqueue = d.vqueue := rfl
@[simp] theorem Dev.updCore_tripNext (n : Nat) (f : Core → Core) : (d.updCore n f).tripNext = d.tripNext := rfl
@[simp] theorem Dev.updCore_rings (n : Nat) (f : Core → Core) : (d.updCore n f).rings = d.rings := rfl
@[simp] theorem Dev.updCore_replay (n : Nat) (f : Core → Core) : (d.updCore n f).replay = d.replay := rfl
@[simp] theorem Dev.updCore_gov (n : Nat) (f : Core → Core) : (d.updCore n f).gov = d.gov := rfl
@[simp] theorem Dev.updCore_window (n : Nat) (f : Core → Core) : (d.updCore n f).window = d.window := rfl
@[simp] theorem Dev.updCore_energy (n : Nat) (f : Core → Core) : (d.updCore n f).energy = d.energy := rfl
@[simp] theorem Dev.updCore_placed (n : Nat) (f : Core → Core) : (d.updCore n f).placed = d.placed := rfl
@[simp] theorem Dev.updCore_out (n : Nat) (f : Core → Core) : (d.updCore n f).out = d.out := rfl
@[simp] theorem Dev.updCore_reply (n : Nat) (f : Core → Core) : (d.updCore n f).reply = d.reply := rfl
@[simp] theorem Dev.updCore_freeCtr (n : Nat) (f : Core → Core) : (d.updCore n f).freeCtr = d.freeCtr := rfl

@[simp] theorem Dev.setChan_regs (n : Nat) (k : Channel) : (d.setChan n k).regs = d.regs := rfl
@[simp] theorem Dev.setChan_latch (n : Nat) (k : Channel) : (d.setChan n k).latch = d.latch := rfl
@[simp] theorem Dev.setChan_ltc (n : Nat) (k : Channel) : (d.setChan n k).ltc = d.ltc := rfl
@[simp] theorem Dev.setChan_mem (n : Nat) (k : Channel) : (d.setChan n k).mem = d.mem := rfl
@[simp] theorem Dev.setChan_xl (n : Nat) (k : Channel) : (d.setChan n k).xl = d.xl := rfl
@[simp] theorem Dev.setChan_sync (n : Nat) (k : Channel) : (d.setChan n k).sync = d.sync := rfl
@[simp] theorem Dev.setChan_queues (n : Nat) (k : Channel) : (d.setChan n k).queues = d.queues := rfl
@[simp] theorem Dev.setChan_ready (n : Nat) (k : Channel) : (d.setChan n k).ready = d.ready := rfl
@[simp] theorem Dev.setChan_clients (n : Nat) (k : Channel) : (d.setChan n k).clients = d.clients := rfl
@[simp] theorem Dev.setChan_cores (n : Nat) (k : Channel) : (d.setChan n k).cores = d.cores := rfl
@[simp] theorem Dev.setChan_rd (n : Nat) (k : Channel) : (d.setChan n k).rd = d.rd := rfl
@[simp] theorem Dev.setChan_retiring (n : Nat) (k : Channel) : (d.setChan n k).retiring = d.retiring := rfl
@[simp] theorem Dev.setChan_refsDue (n : Nat) (k : Channel) : (d.setChan n k).refsDue = d.refsDue := rfl
@[simp] theorem Dev.setChan_ports (n : Nat) (k : Channel) : (d.setChan n k).ports = d.ports := rfl
@[simp] theorem Dev.setChan_waiting (n : Nat) (k : Channel) : (d.setChan n k).waiting = d.waiting := rfl
@[simp] theorem Dev.setChan_inbox (n : Nat) (k : Channel) : (d.setChan n k).inbox = d.inbox := rfl
@[simp] theorem Dev.setChan_twin (n : Nat) (k : Channel) : (d.setChan n k).twin = d.twin := rfl
@[simp] theorem Dev.setChan_hl (n : Nat) (k : Channel) : (d.setChan n k).hl = d.hl := rfl
@[simp] theorem Dev.setChan_vqueue (n : Nat) (k : Channel) : (d.setChan n k).vqueue = d.vqueue := rfl
@[simp] theorem Dev.setChan_tripNext (n : Nat) (k : Channel) : (d.setChan n k).tripNext = d.tripNext := rfl
@[simp] theorem Dev.setChan_rings (n : Nat) (k : Channel) : (d.setChan n k).rings = d.rings := rfl
@[simp] theorem Dev.setChan_replay (n : Nat) (k : Channel) : (d.setChan n k).replay = d.replay := rfl
@[simp] theorem Dev.setChan_gov (n : Nat) (k : Channel) : (d.setChan n k).gov = d.gov := rfl
@[simp] theorem Dev.setChan_window (n : Nat) (k : Channel) : (d.setChan n k).window = d.window := rfl
@[simp] theorem Dev.setChan_energy (n : Nat) (k : Channel) : (d.setChan n k).energy = d.energy := rfl
@[simp] theorem Dev.setChan_placed (n : Nat) (k : Channel) : (d.setChan n k).placed = d.placed := rfl
@[simp] theorem Dev.setChan_out (n : Nat) (k : Channel) : (d.setChan n k).out = d.out := rfl
@[simp] theorem Dev.setChan_reply (n : Nat) (k : Channel) : (d.setChan n k).reply = d.reply := rfl
@[simp] theorem Dev.setChan_freeCtr (n : Nat) (k : Channel) : (d.setChan n k).freeCtr = d.freeCtr := rfl

@[simp] theorem Dev.updChan_regs (n : Nat) (f : Channel → Channel) : (d.updChan n f).regs = d.regs := rfl
@[simp] theorem Dev.updChan_latch (n : Nat) (f : Channel → Channel) : (d.updChan n f).latch = d.latch := rfl
@[simp] theorem Dev.updChan_ltc (n : Nat) (f : Channel → Channel) : (d.updChan n f).ltc = d.ltc := rfl
@[simp] theorem Dev.updChan_mem (n : Nat) (f : Channel → Channel) : (d.updChan n f).mem = d.mem := rfl
@[simp] theorem Dev.updChan_xl (n : Nat) (f : Channel → Channel) : (d.updChan n f).xl = d.xl := rfl
@[simp] theorem Dev.updChan_sync (n : Nat) (f : Channel → Channel) : (d.updChan n f).sync = d.sync := rfl
@[simp] theorem Dev.updChan_queues (n : Nat) (f : Channel → Channel) : (d.updChan n f).queues = d.queues := rfl
@[simp] theorem Dev.updChan_ready (n : Nat) (f : Channel → Channel) : (d.updChan n f).ready = d.ready := rfl
@[simp] theorem Dev.updChan_clients (n : Nat) (f : Channel → Channel) : (d.updChan n f).clients = d.clients := rfl
@[simp] theorem Dev.updChan_cores (n : Nat) (f : Channel → Channel) : (d.updChan n f).cores = d.cores := rfl
@[simp] theorem Dev.updChan_rd (n : Nat) (f : Channel → Channel) : (d.updChan n f).rd = d.rd := rfl
@[simp] theorem Dev.updChan_retiring (n : Nat) (f : Channel → Channel) : (d.updChan n f).retiring = d.retiring := rfl
@[simp] theorem Dev.updChan_refsDue (n : Nat) (f : Channel → Channel) : (d.updChan n f).refsDue = d.refsDue := rfl
@[simp] theorem Dev.updChan_ports (n : Nat) (f : Channel → Channel) : (d.updChan n f).ports = d.ports := rfl
@[simp] theorem Dev.updChan_waiting (n : Nat) (f : Channel → Channel) : (d.updChan n f).waiting = d.waiting := rfl
@[simp] theorem Dev.updChan_inbox (n : Nat) (f : Channel → Channel) : (d.updChan n f).inbox = d.inbox := rfl
@[simp] theorem Dev.updChan_twin (n : Nat) (f : Channel → Channel) : (d.updChan n f).twin = d.twin := rfl
@[simp] theorem Dev.updChan_hl (n : Nat) (f : Channel → Channel) : (d.updChan n f).hl = d.hl := rfl
@[simp] theorem Dev.updChan_vqueue (n : Nat) (f : Channel → Channel) : (d.updChan n f).vqueue = d.vqueue := rfl
@[simp] theorem Dev.updChan_tripNext (n : Nat) (f : Channel → Channel) : (d.updChan n f).tripNext = d.tripNext := rfl
@[simp] theorem Dev.updChan_rings (n : Nat) (f : Channel → Channel) : (d.updChan n f).rings = d.rings := rfl
@[simp] theorem Dev.updChan_replay (n : Nat) (f : Channel → Channel) : (d.updChan n f).replay = d.replay := rfl
@[simp] theorem Dev.updChan_gov (n : Nat) (f : Channel → Channel) : (d.updChan n f).gov = d.gov := rfl
@[simp] theorem Dev.updChan_window (n : Nat) (f : Channel → Channel) : (d.updChan n f).window = d.window := rfl
@[simp] theorem Dev.updChan_energy (n : Nat) (f : Channel → Channel) : (d.updChan n f).energy = d.energy := rfl
@[simp] theorem Dev.updChan_placed (n : Nat) (f : Channel → Channel) : (d.updChan n f).placed = d.placed := rfl
@[simp] theorem Dev.updChan_out (n : Nat) (f : Channel → Channel) : (d.updChan n f).out = d.out := rfl
@[simp] theorem Dev.updChan_reply (n : Nat) (f : Channel → Channel) : (d.updChan n f).reply = d.reply := rfl
@[simp] theorem Dev.updChan_freeCtr (n : Nat) (f : Channel → Channel) : (d.updChan n f).freeCtr = d.freeCtr := rfl

@[simp] theorem Dev.updCmd_regs (ch seq : Nat) (f : Cmd → Cmd) : (d.updCmd ch seq f).regs = d.regs := rfl
@[simp] theorem Dev.updCmd_latch (ch seq : Nat) (f : Cmd → Cmd) : (d.updCmd ch seq f).latch = d.latch := rfl
@[simp] theorem Dev.updCmd_ltc (ch seq : Nat) (f : Cmd → Cmd) : (d.updCmd ch seq f).ltc = d.ltc := rfl
@[simp] theorem Dev.updCmd_mem (ch seq : Nat) (f : Cmd → Cmd) : (d.updCmd ch seq f).mem = d.mem := rfl
@[simp] theorem Dev.updCmd_xl (ch seq : Nat) (f : Cmd → Cmd) : (d.updCmd ch seq f).xl = d.xl := rfl
@[simp] theorem Dev.updCmd_sync (ch seq : Nat) (f : Cmd → Cmd) : (d.updCmd ch seq f).sync = d.sync := rfl
@[simp] theorem Dev.updCmd_queues (ch seq : Nat) (f : Cmd → Cmd) : (d.updCmd ch seq f).queues = d.queues := rfl
@[simp] theorem Dev.updCmd_ready (ch seq : Nat) (f : Cmd → Cmd) : (d.updCmd ch seq f).ready = d.ready := rfl
@[simp] theorem Dev.updCmd_clients (ch seq : Nat) (f : Cmd → Cmd) : (d.updCmd ch seq f).clients = d.clients := rfl
@[simp] theorem Dev.updCmd_cores (ch seq : Nat) (f : Cmd → Cmd) : (d.updCmd ch seq f).cores = d.cores := rfl
@[simp] theorem Dev.updCmd_rd (ch seq : Nat) (f : Cmd → Cmd) : (d.updCmd ch seq f).rd = d.rd := rfl
@[simp] theorem Dev.updCmd_retiring (ch seq : Nat) (f : Cmd → Cmd) : (d.updCmd ch seq f).retiring = d.retiring := rfl
@[simp] theorem Dev.updCmd_refsDue (ch seq : Nat) (f : Cmd → Cmd) : (d.updCmd ch seq f).refsDue = d.refsDue := rfl
@[simp] theorem Dev.updCmd_ports (ch seq : Nat) (f : Cmd → Cmd) : (d.updCmd ch seq f).ports = d.ports := rfl
@[simp] theorem Dev.updCmd_waiting (ch seq : Nat) (f : Cmd → Cmd) : (d.updCmd ch seq f).waiting = d.waiting := rfl
@[simp] theorem Dev.updCmd_inbox (ch seq : Nat) (f : Cmd → Cmd) : (d.updCmd ch seq f).inbox = d.inbox := rfl
@[simp] theorem Dev.updCmd_twin (ch seq : Nat) (f : Cmd → Cmd) : (d.updCmd ch seq f).twin = d.twin := rfl
@[simp] theorem Dev.updCmd_hl (ch seq : Nat) (f : Cmd → Cmd) : (d.updCmd ch seq f).hl = d.hl := rfl
@[simp] theorem Dev.updCmd_vqueue (ch seq : Nat) (f : Cmd → Cmd) : (d.updCmd ch seq f).vqueue = d.vqueue := rfl
@[simp] theorem Dev.updCmd_tripNext (ch seq : Nat) (f : Cmd → Cmd) : (d.updCmd ch seq f).tripNext = d.tripNext := rfl
@[simp] theorem Dev.updCmd_rings (ch seq : Nat) (f : Cmd → Cmd) : (d.updCmd ch seq f).rings = d.rings := rfl
@[simp] theorem Dev.updCmd_replay (ch seq : Nat) (f : Cmd → Cmd) : (d.updCmd ch seq f).replay = d.replay := rfl
@[simp] theorem Dev.updCmd_gov (ch seq : Nat) (f : Cmd → Cmd) : (d.updCmd ch seq f).gov = d.gov := rfl
@[simp] theorem Dev.updCmd_window (ch seq : Nat) (f : Cmd → Cmd) : (d.updCmd ch seq f).window = d.window := rfl
@[simp] theorem Dev.updCmd_energy (ch seq : Nat) (f : Cmd → Cmd) : (d.updCmd ch seq f).energy = d.energy := rfl
@[simp] theorem Dev.updCmd_placed (ch seq : Nat) (f : Cmd → Cmd) : (d.updCmd ch seq f).placed = d.placed := rfl
@[simp] theorem Dev.updCmd_out (ch seq : Nat) (f : Cmd → Cmd) : (d.updCmd ch seq f).out = d.out := rfl
@[simp] theorem Dev.updCmd_reply (ch seq : Nat) (f : Cmd → Cmd) : (d.updCmd ch seq f).reply = d.reply := rfl
@[simp] theorem Dev.updCmd_freeCtr (ch seq : Nat) (f : Cmd → Cmd) : (d.updCmd ch seq f).freeCtr = d.freeCtr := rfl

@[simp] theorem Dev.setMchan_regs (n : Nat) (k : Chan) : (d.setMchan n k).regs = d.regs := rfl
@[simp] theorem Dev.setMchan_latch (n : Nat) (k : Chan) : (d.setMchan n k).latch = d.latch := rfl
@[simp] theorem Dev.setMchan_ltc (n : Nat) (k : Chan) : (d.setMchan n k).ltc = d.ltc := rfl
@[simp] theorem Dev.setMchan_xl (n : Nat) (k : Chan) : (d.setMchan n k).xl = d.xl := rfl
@[simp] theorem Dev.setMchan_sync (n : Nat) (k : Chan) : (d.setMchan n k).sync = d.sync := rfl
@[simp] theorem Dev.setMchan_queues (n : Nat) (k : Chan) : (d.setMchan n k).queues = d.queues := rfl
@[simp] theorem Dev.setMchan_chans (n : Nat) (k : Chan) : (d.setMchan n k).chans = d.chans := rfl
@[simp] theorem Dev.setMchan_ready (n : Nat) (k : Chan) : (d.setMchan n k).ready = d.ready := rfl
@[simp] theorem Dev.setMchan_clients (n : Nat) (k : Chan) : (d.setMchan n k).clients = d.clients := rfl
@[simp] theorem Dev.setMchan_cores (n : Nat) (k : Chan) : (d.setMchan n k).cores = d.cores := rfl
@[simp] theorem Dev.setMchan_rd (n : Nat) (k : Chan) : (d.setMchan n k).rd = d.rd := rfl
@[simp] theorem Dev.setMchan_retiring (n : Nat) (k : Chan) : (d.setMchan n k).retiring = d.retiring := rfl
@[simp] theorem Dev.setMchan_refsDue (n : Nat) (k : Chan) : (d.setMchan n k).refsDue = d.refsDue := rfl
@[simp] theorem Dev.setMchan_ports (n : Nat) (k : Chan) : (d.setMchan n k).ports = d.ports := rfl
@[simp] theorem Dev.setMchan_waiting (n : Nat) (k : Chan) : (d.setMchan n k).waiting = d.waiting := rfl
@[simp] theorem Dev.setMchan_inbox (n : Nat) (k : Chan) : (d.setMchan n k).inbox = d.inbox := rfl
@[simp] theorem Dev.setMchan_twin (n : Nat) (k : Chan) : (d.setMchan n k).twin = d.twin := rfl
@[simp] theorem Dev.setMchan_hl (n : Nat) (k : Chan) : (d.setMchan n k).hl = d.hl := rfl
@[simp] theorem Dev.setMchan_vqueue (n : Nat) (k : Chan) : (d.setMchan n k).vqueue = d.vqueue := rfl
@[simp] theorem Dev.setMchan_tripNext (n : Nat) (k : Chan) : (d.setMchan n k).tripNext = d.tripNext := rfl
@[simp] theorem Dev.setMchan_rings (n : Nat) (k : Chan) : (d.setMchan n k).rings = d.rings := rfl
@[simp] theorem Dev.setMchan_replay (n : Nat) (k : Chan) : (d.setMchan n k).replay = d.replay := rfl
@[simp] theorem Dev.setMchan_gov (n : Nat) (k : Chan) : (d.setMchan n k).gov = d.gov := rfl
@[simp] theorem Dev.setMchan_window (n : Nat) (k : Chan) : (d.setMchan n k).window = d.window := rfl
@[simp] theorem Dev.setMchan_energy (n : Nat) (k : Chan) : (d.setMchan n k).energy = d.energy := rfl
@[simp] theorem Dev.setMchan_placed (n : Nat) (k : Chan) : (d.setMchan n k).placed = d.placed := rfl
@[simp] theorem Dev.setMchan_out (n : Nat) (k : Chan) : (d.setMchan n k).out = d.out := rfl
@[simp] theorem Dev.setMchan_reply (n : Nat) (k : Chan) : (d.setMchan n k).reply = d.reply := rfl
@[simp] theorem Dev.setMchan_freeCtr (n : Nat) (k : Chan) : (d.setMchan n k).freeCtr = d.freeCtr := rfl

@[simp] theorem Dev.setQueue_regs (q : Nat) (k : DevQueue) : (d.setQueue q k).regs = d.regs := rfl
@[simp] theorem Dev.setQueue_latch (q : Nat) (k : DevQueue) : (d.setQueue q k).latch = d.latch := rfl
@[simp] theorem Dev.setQueue_ltc (q : Nat) (k : DevQueue) : (d.setQueue q k).ltc = d.ltc := rfl
@[simp] theorem Dev.setQueue_mem (q : Nat) (k : DevQueue) : (d.setQueue q k).mem = d.mem := rfl
@[simp] theorem Dev.setQueue_xl (q : Nat) (k : DevQueue) : (d.setQueue q k).xl = d.xl := rfl
@[simp] theorem Dev.setQueue_sync (q : Nat) (k : DevQueue) : (d.setQueue q k).sync = d.sync := rfl
@[simp] theorem Dev.setQueue_chans (q : Nat) (k : DevQueue) : (d.setQueue q k).chans = d.chans := rfl
@[simp] theorem Dev.setQueue_ready (q : Nat) (k : DevQueue) : (d.setQueue q k).ready = d.ready := rfl
@[simp] theorem Dev.setQueue_clients (q : Nat) (k : DevQueue) : (d.setQueue q k).clients = d.clients := rfl
@[simp] theorem Dev.setQueue_cores (q : Nat) (k : DevQueue) : (d.setQueue q k).cores = d.cores := rfl
@[simp] theorem Dev.setQueue_rd (q : Nat) (k : DevQueue) : (d.setQueue q k).rd = d.rd := rfl
@[simp] theorem Dev.setQueue_retiring (q : Nat) (k : DevQueue) : (d.setQueue q k).retiring = d.retiring := rfl
@[simp] theorem Dev.setQueue_refsDue (q : Nat) (k : DevQueue) : (d.setQueue q k).refsDue = d.refsDue := rfl
@[simp] theorem Dev.setQueue_ports (q : Nat) (k : DevQueue) : (d.setQueue q k).ports = d.ports := rfl
@[simp] theorem Dev.setQueue_waiting (q : Nat) (k : DevQueue) : (d.setQueue q k).waiting = d.waiting := rfl
@[simp] theorem Dev.setQueue_inbox (q : Nat) (k : DevQueue) : (d.setQueue q k).inbox = d.inbox := rfl
@[simp] theorem Dev.setQueue_twin (q : Nat) (k : DevQueue) : (d.setQueue q k).twin = d.twin := rfl
@[simp] theorem Dev.setQueue_hl (q : Nat) (k : DevQueue) : (d.setQueue q k).hl = d.hl := rfl
@[simp] theorem Dev.setQueue_vqueue (q : Nat) (k : DevQueue) : (d.setQueue q k).vqueue = d.vqueue := rfl
@[simp] theorem Dev.setQueue_tripNext (q : Nat) (k : DevQueue) : (d.setQueue q k).tripNext = d.tripNext := rfl
@[simp] theorem Dev.setQueue_rings (q : Nat) (k : DevQueue) : (d.setQueue q k).rings = d.rings := rfl
@[simp] theorem Dev.setQueue_replay (q : Nat) (k : DevQueue) : (d.setQueue q k).replay = d.replay := rfl
@[simp] theorem Dev.setQueue_gov (q : Nat) (k : DevQueue) : (d.setQueue q k).gov = d.gov := rfl
@[simp] theorem Dev.setQueue_window (q : Nat) (k : DevQueue) : (d.setQueue q k).window = d.window := rfl
@[simp] theorem Dev.setQueue_energy (q : Nat) (k : DevQueue) : (d.setQueue q k).energy = d.energy := rfl
@[simp] theorem Dev.setQueue_placed (q : Nat) (k : DevQueue) : (d.setQueue q k).placed = d.placed := rfl
@[simp] theorem Dev.setQueue_out (q : Nat) (k : DevQueue) : (d.setQueue q k).out = d.out := rfl
@[simp] theorem Dev.setQueue_reply (q : Nat) (k : DevQueue) : (d.setQueue q k).reply = d.reply := rfl
@[simp] theorem Dev.setQueue_freeCtr (q : Nat) (k : DevQueue) : (d.setQueue q k).freeCtr = d.freeCtr := rfl

@[simp] theorem Dev.updClient_regs (i : Nat) (f : Client → Client) : (d.updClient i f).regs = d.regs := rfl
@[simp] theorem Dev.updClient_latch (i : Nat) (f : Client → Client) : (d.updClient i f).latch = d.latch := rfl
@[simp] theorem Dev.updClient_ltc (i : Nat) (f : Client → Client) : (d.updClient i f).ltc = d.ltc := rfl
@[simp] theorem Dev.updClient_mem (i : Nat) (f : Client → Client) : (d.updClient i f).mem = d.mem := rfl
@[simp] theorem Dev.updClient_xl (i : Nat) (f : Client → Client) : (d.updClient i f).xl = d.xl := rfl
@[simp] theorem Dev.updClient_sync (i : Nat) (f : Client → Client) : (d.updClient i f).sync = d.sync := rfl
@[simp] theorem Dev.updClient_queues (i : Nat) (f : Client → Client) : (d.updClient i f).queues = d.queues := rfl
@[simp] theorem Dev.updClient_chans (i : Nat) (f : Client → Client) : (d.updClient i f).chans = d.chans := rfl
@[simp] theorem Dev.updClient_ready (i : Nat) (f : Client → Client) : (d.updClient i f).ready = d.ready := rfl
@[simp] theorem Dev.updClient_cores (i : Nat) (f : Client → Client) : (d.updClient i f).cores = d.cores := rfl
@[simp] theorem Dev.updClient_rd (i : Nat) (f : Client → Client) : (d.updClient i f).rd = d.rd := rfl
@[simp] theorem Dev.updClient_retiring (i : Nat) (f : Client → Client) : (d.updClient i f).retiring = d.retiring := rfl
@[simp] theorem Dev.updClient_refsDue (i : Nat) (f : Client → Client) : (d.updClient i f).refsDue = d.refsDue := rfl
@[simp] theorem Dev.updClient_ports (i : Nat) (f : Client → Client) : (d.updClient i f).ports = d.ports := rfl
@[simp] theorem Dev.updClient_waiting (i : Nat) (f : Client → Client) : (d.updClient i f).waiting = d.waiting := rfl
@[simp] theorem Dev.updClient_inbox (i : Nat) (f : Client → Client) : (d.updClient i f).inbox = d.inbox := rfl
@[simp] theorem Dev.updClient_twin (i : Nat) (f : Client → Client) : (d.updClient i f).twin = d.twin := rfl
@[simp] theorem Dev.updClient_hl (i : Nat) (f : Client → Client) : (d.updClient i f).hl = d.hl := rfl
@[simp] theorem Dev.updClient_vqueue (i : Nat) (f : Client → Client) : (d.updClient i f).vqueue = d.vqueue := rfl
@[simp] theorem Dev.updClient_tripNext (i : Nat) (f : Client → Client) : (d.updClient i f).tripNext = d.tripNext := rfl
@[simp] theorem Dev.updClient_rings (i : Nat) (f : Client → Client) : (d.updClient i f).rings = d.rings := rfl
@[simp] theorem Dev.updClient_replay (i : Nat) (f : Client → Client) : (d.updClient i f).replay = d.replay := rfl
@[simp] theorem Dev.updClient_gov (i : Nat) (f : Client → Client) : (d.updClient i f).gov = d.gov := rfl
@[simp] theorem Dev.updClient_window (i : Nat) (f : Client → Client) : (d.updClient i f).window = d.window := rfl
@[simp] theorem Dev.updClient_energy (i : Nat) (f : Client → Client) : (d.updClient i f).energy = d.energy := rfl
@[simp] theorem Dev.updClient_placed (i : Nat) (f : Client → Client) : (d.updClient i f).placed = d.placed := rfl
@[simp] theorem Dev.updClient_out (i : Nat) (f : Client → Client) : (d.updClient i f).out = d.out := rfl
@[simp] theorem Dev.updClient_reply (i : Nat) (f : Client → Client) : (d.updClient i f).reply = d.reply := rfl
@[simp] theorem Dev.updClient_freeCtr (i : Nat) (f : Client → Client) : (d.updClient i f).freeCtr = d.freeCtr := rfl

@[simp] theorem Dev.updPort_regs (p : Nat) (f : Port → Port) : (d.updPort p f).regs = d.regs := rfl
@[simp] theorem Dev.updPort_latch (p : Nat) (f : Port → Port) : (d.updPort p f).latch = d.latch := rfl
@[simp] theorem Dev.updPort_ltc (p : Nat) (f : Port → Port) : (d.updPort p f).ltc = d.ltc := rfl
@[simp] theorem Dev.updPort_mem (p : Nat) (f : Port → Port) : (d.updPort p f).mem = d.mem := rfl
@[simp] theorem Dev.updPort_xl (p : Nat) (f : Port → Port) : (d.updPort p f).xl = d.xl := rfl
@[simp] theorem Dev.updPort_sync (p : Nat) (f : Port → Port) : (d.updPort p f).sync = d.sync := rfl
@[simp] theorem Dev.updPort_queues (p : Nat) (f : Port → Port) : (d.updPort p f).queues = d.queues := rfl
@[simp] theorem Dev.updPort_chans (p : Nat) (f : Port → Port) : (d.updPort p f).chans = d.chans := rfl
@[simp] theorem Dev.updPort_ready (p : Nat) (f : Port → Port) : (d.updPort p f).ready = d.ready := rfl
@[simp] theorem Dev.updPort_clients (p : Nat) (f : Port → Port) : (d.updPort p f).clients = d.clients := rfl
@[simp] theorem Dev.updPort_cores (p : Nat) (f : Port → Port) : (d.updPort p f).cores = d.cores := rfl
@[simp] theorem Dev.updPort_rd (p : Nat) (f : Port → Port) : (d.updPort p f).rd = d.rd := rfl
@[simp] theorem Dev.updPort_retiring (p : Nat) (f : Port → Port) : (d.updPort p f).retiring = d.retiring := rfl
@[simp] theorem Dev.updPort_refsDue (p : Nat) (f : Port → Port) : (d.updPort p f).refsDue = d.refsDue := rfl
@[simp] theorem Dev.updPort_waiting (p : Nat) (f : Port → Port) : (d.updPort p f).waiting = d.waiting := rfl
@[simp] theorem Dev.updPort_inbox (p : Nat) (f : Port → Port) : (d.updPort p f).inbox = d.inbox := rfl
@[simp] theorem Dev.updPort_twin (p : Nat) (f : Port → Port) : (d.updPort p f).twin = d.twin := rfl
@[simp] theorem Dev.updPort_hl (p : Nat) (f : Port → Port) : (d.updPort p f).hl = d.hl := rfl
@[simp] theorem Dev.updPort_vqueue (p : Nat) (f : Port → Port) : (d.updPort p f).vqueue = d.vqueue := rfl
@[simp] theorem Dev.updPort_tripNext (p : Nat) (f : Port → Port) : (d.updPort p f).tripNext = d.tripNext := rfl
@[simp] theorem Dev.updPort_rings (p : Nat) (f : Port → Port) : (d.updPort p f).rings = d.rings := rfl
@[simp] theorem Dev.updPort_replay (p : Nat) (f : Port → Port) : (d.updPort p f).replay = d.replay := rfl
@[simp] theorem Dev.updPort_gov (p : Nat) (f : Port → Port) : (d.updPort p f).gov = d.gov := rfl
@[simp] theorem Dev.updPort_window (p : Nat) (f : Port → Port) : (d.updPort p f).window = d.window := rfl
@[simp] theorem Dev.updPort_energy (p : Nat) (f : Port → Port) : (d.updPort p f).energy = d.energy := rfl
@[simp] theorem Dev.updPort_placed (p : Nat) (f : Port → Port) : (d.updPort p f).placed = d.placed := rfl
@[simp] theorem Dev.updPort_out (p : Nat) (f : Port → Port) : (d.updPort p f).out = d.out := rfl
@[simp] theorem Dev.updPort_reply (p : Nat) (f : Port → Port) : (d.updPort p f).reply = d.reply := rfl
@[simp] theorem Dev.updPort_freeCtr (p : Nat) (f : Port → Port) : (d.updPort p f).freeCtr = d.freeCtr := rfl

@[simp] theorem Dev.updMirror_regs (x : Nat) (g : Mirror → Mirror) : (d.updMirror x g).regs = d.regs := rfl
@[simp] theorem Dev.updMirror_latch (x : Nat) (g : Mirror → Mirror) : (d.updMirror x g).latch = d.latch := rfl
@[simp] theorem Dev.updMirror_ltc (x : Nat) (g : Mirror → Mirror) : (d.updMirror x g).ltc = d.ltc := rfl
@[simp] theorem Dev.updMirror_mem (x : Nat) (g : Mirror → Mirror) : (d.updMirror x g).mem = d.mem := rfl
@[simp] theorem Dev.updMirror_xl (x : Nat) (g : Mirror → Mirror) : (d.updMirror x g).xl = d.xl := rfl
@[simp] theorem Dev.updMirror_sync (x : Nat) (g : Mirror → Mirror) : (d.updMirror x g).sync = d.sync := rfl
@[simp] theorem Dev.updMirror_queues (x : Nat) (g : Mirror → Mirror) : (d.updMirror x g).queues = d.queues := rfl
@[simp] theorem Dev.updMirror_chans (x : Nat) (g : Mirror → Mirror) : (d.updMirror x g).chans = d.chans := rfl
@[simp] theorem Dev.updMirror_ready (x : Nat) (g : Mirror → Mirror) : (d.updMirror x g).ready = d.ready := rfl
@[simp] theorem Dev.updMirror_clients (x : Nat) (g : Mirror → Mirror) : (d.updMirror x g).clients = d.clients := rfl
@[simp] theorem Dev.updMirror_cores (x : Nat) (g : Mirror → Mirror) : (d.updMirror x g).cores = d.cores := rfl
@[simp] theorem Dev.updMirror_rd (x : Nat) (g : Mirror → Mirror) : (d.updMirror x g).rd = d.rd := rfl
@[simp] theorem Dev.updMirror_retiring (x : Nat) (g : Mirror → Mirror) : (d.updMirror x g).retiring = d.retiring := rfl
@[simp] theorem Dev.updMirror_refsDue (x : Nat) (g : Mirror → Mirror) : (d.updMirror x g).refsDue = d.refsDue := rfl
@[simp] theorem Dev.updMirror_ports (x : Nat) (g : Mirror → Mirror) : (d.updMirror x g).ports = d.ports := rfl
@[simp] theorem Dev.updMirror_waiting (x : Nat) (g : Mirror → Mirror) : (d.updMirror x g).waiting = d.waiting := rfl
@[simp] theorem Dev.updMirror_inbox (x : Nat) (g : Mirror → Mirror) : (d.updMirror x g).inbox = d.inbox := rfl
@[simp] theorem Dev.updMirror_hl (x : Nat) (g : Mirror → Mirror) : (d.updMirror x g).hl = d.hl := rfl
@[simp] theorem Dev.updMirror_vqueue (x : Nat) (g : Mirror → Mirror) : (d.updMirror x g).vqueue = d.vqueue := rfl
@[simp] theorem Dev.updMirror_tripNext (x : Nat) (g : Mirror → Mirror) : (d.updMirror x g).tripNext = d.tripNext := rfl
@[simp] theorem Dev.updMirror_rings (x : Nat) (g : Mirror → Mirror) : (d.updMirror x g).rings = d.rings := rfl
@[simp] theorem Dev.updMirror_replay (x : Nat) (g : Mirror → Mirror) : (d.updMirror x g).replay = d.replay := rfl
@[simp] theorem Dev.updMirror_gov (x : Nat) (g : Mirror → Mirror) : (d.updMirror x g).gov = d.gov := rfl
@[simp] theorem Dev.updMirror_window (x : Nat) (g : Mirror → Mirror) : (d.updMirror x g).window = d.window := rfl
@[simp] theorem Dev.updMirror_energy (x : Nat) (g : Mirror → Mirror) : (d.updMirror x g).energy = d.energy := rfl
@[simp] theorem Dev.updMirror_placed (x : Nat) (g : Mirror → Mirror) : (d.updMirror x g).placed = d.placed := rfl
@[simp] theorem Dev.updMirror_out (x : Nat) (g : Mirror → Mirror) : (d.updMirror x g).out = d.out := rfl
@[simp] theorem Dev.updMirror_reply (x : Nat) (g : Mirror → Mirror) : (d.updMirror x g).reply = d.reply := rfl
@[simp] theorem Dev.updMirror_freeCtr (x : Nat) (g : Mirror → Mirror) : (d.updMirror x g).freeCtr = d.freeCtr := rfl

@[simp] theorem Dev.updHl_regs (f : HostPort → HostPort) : (d.updHl f).regs = d.regs := rfl
@[simp] theorem Dev.updHl_latch (f : HostPort → HostPort) : (d.updHl f).latch = d.latch := rfl
@[simp] theorem Dev.updHl_ltc (f : HostPort → HostPort) : (d.updHl f).ltc = d.ltc := rfl
@[simp] theorem Dev.updHl_mem (f : HostPort → HostPort) : (d.updHl f).mem = d.mem := rfl
@[simp] theorem Dev.updHl_xl (f : HostPort → HostPort) : (d.updHl f).xl = d.xl := rfl
@[simp] theorem Dev.updHl_sync (f : HostPort → HostPort) : (d.updHl f).sync = d.sync := rfl
@[simp] theorem Dev.updHl_queues (f : HostPort → HostPort) : (d.updHl f).queues = d.queues := rfl
@[simp] theorem Dev.updHl_chans (f : HostPort → HostPort) : (d.updHl f).chans = d.chans := rfl
@[simp] theorem Dev.updHl_ready (f : HostPort → HostPort) : (d.updHl f).ready = d.ready := rfl
@[simp] theorem Dev.updHl_clients (f : HostPort → HostPort) : (d.updHl f).clients = d.clients := rfl
@[simp] theorem Dev.updHl_cores (f : HostPort → HostPort) : (d.updHl f).cores = d.cores := rfl
@[simp] theorem Dev.updHl_rd (f : HostPort → HostPort) : (d.updHl f).rd = d.rd := rfl
@[simp] theorem Dev.updHl_retiring (f : HostPort → HostPort) : (d.updHl f).retiring = d.retiring := rfl
@[simp] theorem Dev.updHl_refsDue (f : HostPort → HostPort) : (d.updHl f).refsDue = d.refsDue := rfl
@[simp] theorem Dev.updHl_ports (f : HostPort → HostPort) : (d.updHl f).ports = d.ports := rfl
@[simp] theorem Dev.updHl_waiting (f : HostPort → HostPort) : (d.updHl f).waiting = d.waiting := rfl
@[simp] theorem Dev.updHl_inbox (f : HostPort → HostPort) : (d.updHl f).inbox = d.inbox := rfl
@[simp] theorem Dev.updHl_twin (f : HostPort → HostPort) : (d.updHl f).twin = d.twin := rfl
@[simp] theorem Dev.updHl_vqueue (f : HostPort → HostPort) : (d.updHl f).vqueue = d.vqueue := rfl
@[simp] theorem Dev.updHl_tripNext (f : HostPort → HostPort) : (d.updHl f).tripNext = d.tripNext := rfl
@[simp] theorem Dev.updHl_rings (f : HostPort → HostPort) : (d.updHl f).rings = d.rings := rfl
@[simp] theorem Dev.updHl_replay (f : HostPort → HostPort) : (d.updHl f).replay = d.replay := rfl
@[simp] theorem Dev.updHl_gov (f : HostPort → HostPort) : (d.updHl f).gov = d.gov := rfl
@[simp] theorem Dev.updHl_window (f : HostPort → HostPort) : (d.updHl f).window = d.window := rfl
@[simp] theorem Dev.updHl_energy (f : HostPort → HostPort) : (d.updHl f).energy = d.energy := rfl
@[simp] theorem Dev.updHl_placed (f : HostPort → HostPort) : (d.updHl f).placed = d.placed := rfl
@[simp] theorem Dev.updHl_out (f : HostPort → HostPort) : (d.updHl f).out = d.out := rfl
@[simp] theorem Dev.updHl_reply (f : HostPort → HostPort) : (d.updHl f).reply = d.reply := rfl
@[simp] theorem Dev.updHl_freeCtr (f : HostPort → HostPort) : (d.updHl f).freeCtr = d.freeCtr := rfl

@[simp] theorem Dev.updTwin_regs (f : Twin → Twin) : (d.updTwin f).regs = d.regs := rfl
@[simp] theorem Dev.updTwin_latch (f : Twin → Twin) : (d.updTwin f).latch = d.latch := rfl
@[simp] theorem Dev.updTwin_ltc (f : Twin → Twin) : (d.updTwin f).ltc = d.ltc := rfl
@[simp] theorem Dev.updTwin_mem (f : Twin → Twin) : (d.updTwin f).mem = d.mem := rfl
@[simp] theorem Dev.updTwin_xl (f : Twin → Twin) : (d.updTwin f).xl = d.xl := rfl
@[simp] theorem Dev.updTwin_sync (f : Twin → Twin) : (d.updTwin f).sync = d.sync := rfl
@[simp] theorem Dev.updTwin_queues (f : Twin → Twin) : (d.updTwin f).queues = d.queues := rfl
@[simp] theorem Dev.updTwin_chans (f : Twin → Twin) : (d.updTwin f).chans = d.chans := rfl
@[simp] theorem Dev.updTwin_ready (f : Twin → Twin) : (d.updTwin f).ready = d.ready := rfl
@[simp] theorem Dev.updTwin_clients (f : Twin → Twin) : (d.updTwin f).clients = d.clients := rfl
@[simp] theorem Dev.updTwin_cores (f : Twin → Twin) : (d.updTwin f).cores = d.cores := rfl
@[simp] theorem Dev.updTwin_rd (f : Twin → Twin) : (d.updTwin f).rd = d.rd := rfl
@[simp] theorem Dev.updTwin_retiring (f : Twin → Twin) : (d.updTwin f).retiring = d.retiring := rfl
@[simp] theorem Dev.updTwin_refsDue (f : Twin → Twin) : (d.updTwin f).refsDue = d.refsDue := rfl
@[simp] theorem Dev.updTwin_ports (f : Twin → Twin) : (d.updTwin f).ports = d.ports := rfl
@[simp] theorem Dev.updTwin_waiting (f : Twin → Twin) : (d.updTwin f).waiting = d.waiting := rfl
@[simp] theorem Dev.updTwin_inbox (f : Twin → Twin) : (d.updTwin f).inbox = d.inbox := rfl
@[simp] theorem Dev.updTwin_hl (f : Twin → Twin) : (d.updTwin f).hl = d.hl := rfl
@[simp] theorem Dev.updTwin_vqueue (f : Twin → Twin) : (d.updTwin f).vqueue = d.vqueue := rfl
@[simp] theorem Dev.updTwin_tripNext (f : Twin → Twin) : (d.updTwin f).tripNext = d.tripNext := rfl
@[simp] theorem Dev.updTwin_rings (f : Twin → Twin) : (d.updTwin f).rings = d.rings := rfl
@[simp] theorem Dev.updTwin_replay (f : Twin → Twin) : (d.updTwin f).replay = d.replay := rfl
@[simp] theorem Dev.updTwin_gov (f : Twin → Twin) : (d.updTwin f).gov = d.gov := rfl
@[simp] theorem Dev.updTwin_window (f : Twin → Twin) : (d.updTwin f).window = d.window := rfl
@[simp] theorem Dev.updTwin_energy (f : Twin → Twin) : (d.updTwin f).energy = d.energy := rfl
@[simp] theorem Dev.updTwin_placed (f : Twin → Twin) : (d.updTwin f).placed = d.placed := rfl
@[simp] theorem Dev.updTwin_out (f : Twin → Twin) : (d.updTwin f).out = d.out := rfl
@[simp] theorem Dev.updTwin_reply (f : Twin → Twin) : (d.updTwin f).reply = d.reply := rfl
@[simp] theorem Dev.updTwin_freeCtr (f : Twin → Twin) : (d.updTwin f).freeCtr = d.freeCtr := rfl

@[simp] theorem Dev.violate_latch (v : Violation) : (d.violate v).latch = d.latch := by simp only [Dev.violate]; split <;> rfl
@[simp] theorem Dev.violate_ltc (v : Violation) : (d.violate v).ltc = d.ltc := by simp only [Dev.violate]; split <;> rfl
@[simp] theorem Dev.violate_mem (v : Violation) : (d.violate v).mem = d.mem := by simp only [Dev.violate]; split <;> rfl
@[simp] theorem Dev.violate_xl (v : Violation) : (d.violate v).xl = d.xl := by simp only [Dev.violate]; split <;> rfl
@[simp] theorem Dev.violate_sync (v : Violation) : (d.violate v).sync = d.sync := by simp only [Dev.violate]; split <;> rfl
@[simp] theorem Dev.violate_queues (v : Violation) : (d.violate v).queues = d.queues := by simp only [Dev.violate]; split <;> rfl
@[simp] theorem Dev.violate_chans (v : Violation) : (d.violate v).chans = d.chans := by simp only [Dev.violate]; split <;> rfl
@[simp] theorem Dev.violate_ready (v : Violation) : (d.violate v).ready = d.ready := by simp only [Dev.violate]; split <;> rfl
@[simp] theorem Dev.violate_clients (v : Violation) : (d.violate v).clients = d.clients := by simp only [Dev.violate]; split <;> rfl
@[simp] theorem Dev.violate_cores (v : Violation) : (d.violate v).cores = d.cores := by simp only [Dev.violate]; split <;> rfl
@[simp] theorem Dev.violate_rd (v : Violation) : (d.violate v).rd = d.rd := by simp only [Dev.violate]; split <;> rfl
@[simp] theorem Dev.violate_retiring (v : Violation) : (d.violate v).retiring = d.retiring := by simp only [Dev.violate]; split <;> rfl
@[simp] theorem Dev.violate_refsDue (v : Violation) : (d.violate v).refsDue = d.refsDue := by simp only [Dev.violate]; split <;> rfl
@[simp] theorem Dev.violate_ports (v : Violation) : (d.violate v).ports = d.ports := by simp only [Dev.violate]; split <;> rfl
@[simp] theorem Dev.violate_waiting (v : Violation) : (d.violate v).waiting = d.waiting := by simp only [Dev.violate]; split <;> rfl
@[simp] theorem Dev.violate_inbox (v : Violation) : (d.violate v).inbox = d.inbox := by simp only [Dev.violate]; split <;> rfl
@[simp] theorem Dev.violate_twin (v : Violation) : (d.violate v).twin = d.twin := by simp only [Dev.violate]; split <;> rfl
@[simp] theorem Dev.violate_hl (v : Violation) : (d.violate v).hl = d.hl := by simp only [Dev.violate]; split <;> rfl
@[simp] theorem Dev.violate_tripNext (v : Violation) : (d.violate v).tripNext = d.tripNext := by simp only [Dev.violate]; split <;> rfl
@[simp] theorem Dev.violate_rings (v : Violation) : (d.violate v).rings = d.rings := by simp only [Dev.violate]; split <;> rfl
@[simp] theorem Dev.violate_replay (v : Violation) : (d.violate v).replay = d.replay := by simp only [Dev.violate]; split <;> rfl
@[simp] theorem Dev.violate_gov (v : Violation) : (d.violate v).gov = d.gov := by simp only [Dev.violate]; split <;> rfl
@[simp] theorem Dev.violate_window (v : Violation) : (d.violate v).window = d.window := by simp only [Dev.violate]; split <;> rfl
@[simp] theorem Dev.violate_energy (v : Violation) : (d.violate v).energy = d.energy := by simp only [Dev.violate]; split <;> rfl
@[simp] theorem Dev.violate_placed (v : Violation) : (d.violate v).placed = d.placed := by simp only [Dev.violate]; split <;> rfl
@[simp] theorem Dev.violate_out (v : Violation) : (d.violate v).out = d.out := by simp only [Dev.violate]; split <;> rfl
@[simp] theorem Dev.violate_reply (v : Violation) : (d.violate v).reply = d.reply := by simp only [Dev.violate]; split <;> rfl
@[simp] theorem Dev.violate_freeCtr (v : Violation) : (d.violate v).freeCtr = d.freeCtr := by simp only [Dev.violate]; split <;> rfl

@[simp] theorem Dev.free_regs : d.free.1.regs = d.regs := rfl
@[simp] theorem Dev.free_latch : d.free.1.latch = d.latch := rfl
@[simp] theorem Dev.free_ltc : d.free.1.ltc = d.ltc := rfl
@[simp] theorem Dev.free_mem : d.free.1.mem = d.mem := rfl
@[simp] theorem Dev.free_xl : d.free.1.xl = d.xl := rfl
@[simp] theorem Dev.free_sync : d.free.1.sync = d.sync := rfl
@[simp] theorem Dev.free_queues : d.free.1.queues = d.queues := rfl
@[simp] theorem Dev.free_chans : d.free.1.chans = d.chans := rfl
@[simp] theorem Dev.free_ready : d.free.1.ready = d.ready := rfl
@[simp] theorem Dev.free_clients : d.free.1.clients = d.clients := rfl
@[simp] theorem Dev.free_cores : d.free.1.cores = d.cores := rfl
@[simp] theorem Dev.free_rd : d.free.1.rd = d.rd := rfl
@[simp] theorem Dev.free_retiring : d.free.1.retiring = d.retiring := rfl
@[simp] theorem Dev.free_refsDue : d.free.1.refsDue = d.refsDue := rfl
@[simp] theorem Dev.free_ports : d.free.1.ports = d.ports := rfl
@[simp] theorem Dev.free_waiting : d.free.1.waiting = d.waiting := rfl
@[simp] theorem Dev.free_inbox : d.free.1.inbox = d.inbox := rfl
@[simp] theorem Dev.free_twin : d.free.1.twin = d.twin := rfl
@[simp] theorem Dev.free_hl : d.free.1.hl = d.hl := rfl
@[simp] theorem Dev.free_vqueue : d.free.1.vqueue = d.vqueue := rfl
@[simp] theorem Dev.free_tripNext : d.free.1.tripNext = d.tripNext := rfl
@[simp] theorem Dev.free_rings : d.free.1.rings = d.rings := rfl
@[simp] theorem Dev.free_replay : d.free.1.replay = d.replay := rfl
@[simp] theorem Dev.free_gov : d.free.1.gov = d.gov := rfl
@[simp] theorem Dev.free_window : d.free.1.window = d.window := rfl
@[simp] theorem Dev.free_energy : d.free.1.energy = d.energy := rfl
@[simp] theorem Dev.free_placed : d.free.1.placed = d.placed := rfl
@[simp] theorem Dev.free_out : d.free.1.out = d.out := rfl
@[simp] theorem Dev.free_reply : d.free.1.reply = d.reply := rfl
@[simp] theorem Dev.free_freeCtr : d.free.1.freeCtr = d.freeCtr + 1 := rfl

end Sys2Proof.Machine
end

