-- ==== Sys2Proof/Laws/Ops.lean ====
section
/-! SUPPORT. What each shared operation can do, said once: the lifting of a meaning to the state, host writes, registers, flags. -/

namespace Sys2Proof.Machine

/-- A meaning of the running logic answers, and changes nothing but Dev. -/
theorem onDev_running (s : State) (f : Ctl → Dev → Dev) (h : s.ctl.power.running = true) : onDev s f = .next { s with dev := f s.ctl s.dev } := by
  simp [onDev, h]

/-- Logic in reset does nothing. -/
theorem onDev_reset (s : State) (f : Ctl → Dev → Dev) (h : s.ctl.power.running = false) : onDev s f = .next s := by simp [onDev, h]

/-- What onDev can do. -/
theorem onDev_next (s t : State) (f : Ctl → Dev → Dev) (h : onDev s f = .next t) : t.pending = s.pending ∧ t.ctl = s.ctl := by
  simp only [onDev, Host.Outcome.next.injEq] at h
  subst h
  split <;> exact ⟨rfl, rfl⟩

/-- onDev always answers a next state. -/
theorem onDev_total (s : State) (f : Ctl → Dev → Dev) : ∃ t, onDev s f = .next t := ⟨_, rfl⟩

theorem onAll_running (s : State) (f : Ctl → Dev → Ctl × Dev) (h : s.ctl.power.running = true) :
    onAll s f = .next { s with ctl := (f s.ctl s.dev).1, dev := (f s.ctl s.dev).2 } := by simp [onAll, h]

theorem onAll_reset (s : State) (f : Ctl → Dev → Ctl × Dev) (h : s.ctl.power.running = false) : onAll s f = .next s := by simp [onAll, h]

/-- What onAll can do: the queue stays. -/
theorem onAll_next (s t : State) (f : Ctl → Dev → Ctl × Dev) (h : onAll s f = .next t) : t.pending = s.pending := by
  simp only [onAll, Host.Outcome.next.injEq] at h
  subst h
  split <;> rfl

theorem onAll_total (s : State) (f : Ctl → Dev → Ctl × Dev) : ∃ t, onAll s f = .next t := ⟨_, rfl⟩

/-- An admitted write has changed nothing yet. -/
theorem admit_dev (c : Ctl) (d : Dev) (fn off width : Nat) (h : (checkWrite c d fn off width).2 = true) : (checkWrite c d fn off width).1 = d := by
  revert h
  unfold checkWrite
  repeat' (first | split | simp)

/-- What a host write can do: its effect where it is admitted; otherwise what the check leaves. -/
theorem hostWrite_cases (c : Ctl) (d : Dev) (fn off width : Nat) (k : Dev → Dev) :
    ((checkWrite c d fn off width).2 = true ∧ hostWrite c d fn off width k = k d) ∨
    ((checkWrite c d fn off width).2 = false ∧ hostWrite c d fn off width k = (checkWrite c d fn off width).1) := by
  cases h : (checkWrite c d fn off width).2 with
  | true => exact .inl ⟨rfl, by simp [hostWrite, h, admit_dev c d fn off width h]⟩
  | false => exact .inr ⟨rfl, by simp [hostWrite, h]⟩

/-- An admitted host write has its effect. -/
theorem hostWrite_admitted (c : Ctl) (d : Dev) (fn off width : Nat) (k : Dev → Dev) (h : (checkWrite c d fn off width).2 = true) :
    hostWrite c d fn off width k = k d := by simp [hostWrite, h, admit_dev c d fn off width h]

/-- A meaning that applies others in turn always answers when each does. -/
theorem inTurn_total (l : List (State → Host.Outcome State Fault Refusal)) (h : ∀ f ∈ l, ∀ s, ∃ t, f s = .next t) (s : State) :
    ∃ t, inTurn l s = .next t := by
  induction l generalizing s with
  | nil => exact ⟨s, rfl⟩
  | cons f r ih =>
    obtain ⟨t, ht⟩ := h f (by simp) s
    obtain ⟨u, hu⟩ := ih (fun g hg => h g (by simp [hg])) t
    exact ⟨u, by simp [inTurn, ht, hu]⟩

/-- The register file keeps its canonical form. -/
theorem Dev.setReg_wf (d : Dev) (off v : Nat) (h : Sparse.wf none d.regs = true) : Sparse.wf none (d.setReg off v).regs = true :=
  Sparse.wf_set none d.regs off _ h

/-- A register reads as it was set. -/
theorem Dev.reg_setReg_self (d : Dev) (off v : Nat) : (d.setReg off v).reg off = v := by
  simp only [Dev.reg, Dev.setReg, Sparse.get_set_self]
  split <;> simp_all

/-- Setting a register leaves the others. -/
theorem Dev.reg_setReg_ne (d : Dev) (off v x : Nat) (hx : x ≠ off) : (d.setReg off v).reg x = d.reg x := by
  simp only [Dev.reg, Dev.setReg, Sparse.get_set_ne none d.regs off x _ hx]

/-- Setting a core leaves the others. -/
theorem Dev.core_setCore_ne (d : Dev) (n m : Nat) (k : Core) (hm : m ≠ n) : (d.setCore n k).core m = d.core m :=
  Sparse.get_set_ne ({} : Core) d.cores n m k hm

/-- A core reads as it was set. -/
theorem Dev.core_setCore_self (d : Dev) (n : Nat) (k : Core) : (d.setCore n k).core n = k :=
  Sparse.get_set_self ({} : Core) d.cores n k

end Sys2Proof.Machine
end

