-- ==== Sys2Proof/Laws/Dispatch.lean ====
section
/-! SUPPORT. What exec can do, said once: which commands act through onDev, which through onAll. -/

namespace Sys2Proof.Machine

/-- A command that leaves the control part alone acts through onDev. -/
theorem exec_work (i : Instr) (s : State) (h : touchesControl i = false) : ∃ f, exec i s = onDev s f := by
  cases i
  case registerWrite => exact Bool.noConfusion (show true = false from h)
  case latchedHalfRead => exact Bool.noConfusion (show true = false from h)
  case rcFieldRead => exact Bool.noConfusion (show true = false from h)
  case syncObjectWrite => show ∃ f, execSyncObjectWrite _ _ _ s = _; unfold execSyncObjectWrite; exact ⟨_, rfl⟩
  case load => exact Bool.noConfusion (show true = false from h)
  case tmImageReadDone => exact Bool.noConfusion (show true = false from h)
  case tmChecksEnd => exact Bool.noConfusion (show true = false from h)
  case tmFlashWriteDone => exact Bool.noConfusion (show true = false from h)
  case tmApplyDone => exact Bool.noConfusion (show true = false from h)
  case bootTrailMapLoad => exact Bool.noConfusion (show true = false from h)
  case facetDrain => exact Bool.noConfusion (show true = false from h)
  case facetResume => exact Bool.noConfusion (show true = false from h)
  case drained => exact Bool.noConfusion (show true = false from h)
  case geBasket => show ∃ f, execGeBasket _ s = _; unfold execGeBasket; exact ⟨_, rfl⟩
  case basketStart => show ∃ f, execBasketStart _ s = _; unfold execBasketStart; exact ⟨_, rfl⟩
  case indexListArrival => show ∃ f, execIndexListArrival _ s = _; unfold execIndexListArrival; exact ⟨_, rfl⟩
  case ownerRoundStart => show ∃ f, execOwnerRoundStart _ s = _; unfold execOwnerRoundStart; exact ⟨_, rfl⟩
  case rowFetchComplete => show ∃ f, execRowFetchComplete _ _ s = _; unfold execRowFetchComplete; exact ⟨_, rfl⟩
  case forwardArrival => show ∃ f, execForwardArrival _ s = _; unfold execForwardArrival; exact ⟨_, rfl⟩
  case forwardAckArrival => show ∃ f, execForwardAckArrival _ s = _; unfold execForwardAckArrival; exact ⟨_, rfl⟩
  case ownerRoundEnd => show ∃ f, execOwnerRoundEnd _ s = _; unfold execOwnerRoundEnd; exact ⟨_, rfl⟩
  case partialArrival => show ∃ f, execPartialArrival _ s = _; unfold execPartialArrival; exact ⟨_, rfl⟩
  case flaggedRecordArrival => show ∃ f, execFlaggedRecordArrival _ s = _; unfold execFlaggedRecordArrival; exact ⟨_, rfl⟩
  case listEndRecordArrival => show ∃ f, execListEndRecordArrival _ s = _; unfold execListEndRecordArrival; exact ⟨_, rfl⟩
  case unpooledRowArrival => show ∃ f, execUnpooledRowArrival _ s = _; unfold execUnpooledRowArrival; exact ⟨_, rfl⟩
  case basketComplete => show ∃ f, execBasketComplete _ s = _; unfold execBasketComplete; exact ⟨_, rfl⟩
  case rowPut => show ∃ f, execRowPut _ s = _; unfold execRowPut maintCmd; exact ⟨_, rfl⟩
  case rowMove => show ∃ f, execRowMove _ s = _; unfold execRowMove maintCmd; exact ⟨_, rfl⟩
  case shardSet => show ∃ f, execShardSet _ s = _; unfold execShardSet maintCmd; exact ⟨_, rfl⟩
  case tableStage => show ∃ f, execTableStage _ s = _; unfold execTableStage maintCmd; exact ⟨_, rfl⟩
  case tableCutover => show ∃ f, execTableCutover _ s = _; unfold execTableCutover maintCmd; exact ⟨_, rfl⟩
  case tableRelease => show ∃ f, execTableRelease _ s = _; unfold execTableRelease maintCmd; exact ⟨_, rfl⟩
  case rowWriteAck => show ∃ f, execRowWriteAck _ s = _; unfold execRowWriteAck; exact ⟨_, rfl⟩
  case putRoundsEnded => show ∃ f, execPutRoundsEnded _ s = _; unfold execPutRoundsEnded; exact ⟨_, rfl⟩
  case versionRetire => show ∃ f, execVersionRetire _ _ s = _; unfold execVersionRetire; exact ⟨_, rfl⟩
  case flushAs => show ∃ f, execFlushAs _ s = _; unfold execFlushAs; exact ⟨_, rfl⟩
  case flushAll => show ∃ f, execFlushAll _ s = _; unfold execFlushAll; exact ⟨_, rfl⟩
  case rdTregWrite => show ∃ f, execRdTregWrite _ _ _ _ s = _; unfold execRdTregWrite; exact ⟨_, rfl⟩
  case geAreaWrite => show ∃ f, execGeAreaWrite _ _ _ _ s = _; unfold execGeAreaWrite; exact ⟨_, rfl⟩
  case meLoad => show ∃ f, execMeLoad _ s = _; unfold execMeLoad meIssue; exact ⟨_, rfl⟩
  case meSwap => show ∃ f, execMeSwap _ s = _; unfold execMeSwap meIssue; exact ⟨_, rfl⟩
  case meMm => show ∃ f, execMeMm _ s = _; unfold execMeMm meIssue; exact ⟨_, rfl⟩
  case meInval => show ∃ f, execMeInval _ s = _; unfold execMeInval meIssue; exact ⟨_, rfl⟩
  case meScales => show ∃ f, execMeScales _ s = _; unfold execMeScales meIssue; exact ⟨_, rfl⟩
  case meLoadComplete => show ∃ f, execMeLoadComplete _ s = _; unfold execMeLoadComplete; exact ⟨_, rfl⟩
  case meGroupIssue => show ∃ f, execMeGroupIssue _ s = _; unfold execMeGroupIssue; exact ⟨_, rfl⟩
  case meRowWrite => show ∃ f, execMeRowWrite _ s = _; unfold execMeRowWrite; exact ⟨_, rfl⟩
  case meLevelStep => show ∃ f, execMeLevelStep _ _ s = _; unfold execMeLevelStep; exact ⟨_, rfl⟩
  case mvMm => show ∃ f, execMvMm _ s = _; unfold execMvMm mvIssue; exact ⟨_, rfl⟩
  case mvScales => show ∃ f, execMvScales _ s = _; unfold execMvScales mvIssue; exact ⟨_, rfl⟩
  case mvLeadIn => show ∃ f, execMvLeadIn _ s = _; unfold execMvLeadIn; exact ⟨_, rfl⟩
  case mvChunkBuildDone => show ∃ f, execMvChunkBuildDone _ s = _; unfold execMvChunkBuildDone; exact ⟨_, rfl⟩
  case mvOpComplete => show ∃ f, execMvOpComplete _ _ s = _; unfold execMvOpComplete; exact ⟨_, rfl⟩
  case veChain => show ∃ f, execVeChain _ s = _; unfold execVeChain veIssue; exact ⟨_, rfl⟩
  case veLoad => show ∃ f, execVeLoad _ s = _; unfold execVeLoad veIssue; exact ⟨_, rfl⟩
  case veStore => show ∃ f, execVeStore _ s = _; unfold execVeStore veIssue; exact ⟨_, rfl⟩
  case veFill => show ∃ f, execVeFill _ s = _; unfold execVeFill veIssue; exact ⟨_, rfl⟩
  case veLive => show ∃ f, execVeLive _ s = _; unfold execVeLive veIssue; exact ⟨_, rfl⟩
  case veOpComplete => show ∃ f, execVeOpComplete _ _ s = _; unfold execVeOpComplete; exact ⟨_, rfl⟩
  case poolPass => show ∃ f, execPoolPass _ s = _; unfold execPoolPass; exact ⟨_, rfl⟩
  case mergePass => show ∃ f, execMergePass _ s = _; unfold execMergePass; exact ⟨_, rfl⟩
  case xpTload => show ∃ f, execXpTload _ s = _; unfold execXpTload xpIssue; exact ⟨_, rfl⟩
  case xpTfree => show ∃ f, execXpTfree _ s = _; unfold execXpTfree xpIssue; exact ⟨_, rfl⟩
  case xpHeaderRead => show ∃ f, execXpHeaderRead _ _ s = _; unfold execXpHeaderRead; exact ⟨_, rfl⟩
  case xpBlockDecoded => show ∃ f, execXpBlockDecoded _ _ _ s = _; unfold execXpBlockDecoded; exact ⟨_, rfl⟩
  case sliceRead => show ∃ f, execSliceRead _ _ _ _ s = _; unfold execSliceRead; exact ⟨_, rfl⟩
  case sliceWrite => show ∃ f, execSliceWrite _ _ _ _ _ _ _ s = _; unfold execSliceWrite; exact ⟨_, rfl⟩
  case pointReadRequest => show ∃ f, execPointReadRequest _ _ _ _ s = _; unfold execPointReadRequest; exact ⟨_, rfl⟩
  case pointRequestAged => show ∃ f, execPointRequestAged _ _ s = _; unfold execPointRequestAged; exact ⟨_, rfl⟩
  case hbmReadComplete => show ∃ f, execHbmReadComplete _ _ _ s = _; unfold execHbmReadComplete; exact ⟨_, rfl⟩
  case msFlush => show ∃ f, execMsFlush _ _ _ s = _; unfold execMsFlush; exact ⟨_, rfl⟩
  case msUnkeep => show ∃ f, execMsUnkeep _ _ _ s = _; unfold execMsUnkeep; exact ⟨_, rfl⟩
  case msFlushDone => show ∃ f, execMsFlushDone _ _ _ s = _; unfold execMsFlushDone; exact ⟨_, rfl⟩
  case scrubRead => show ∃ f, execScrubRead _ _ _ s = _; unfold execScrubRead; exact ⟨_, rfl⟩
  case channelFailed => show ∃ f, execChannelFailed _ s = _; unfold execChannelFailed; exact ⟨_, rfl⟩
  case channelTrainingEnd => show ∃ f, execChannelTrainingEnd _ _ s = _; unfold execChannelTrainingEnd; exact ⟨_, rfl⟩
  case tlbMiss => show ∃ f, execTlbMiss _ _ _ _ s = _; unfold execTlbMiss; exact ⟨_, rfl⟩
  case walkLevelReadDone => show ∃ f, execWalkLevelReadDone _ s = _; unfold execWalkLevelReadDone; exact ⟨_, rfl⟩
  case scoutWalk => show ∃ f, execScoutWalk _ _ _ s = _; unfold execScoutWalk; exact ⟨_, rfl⟩
  case retry => show ∃ f, execRetry _ _ s = _; unfold execRetry; exact ⟨_, rfl⟩
  case abort => show ∃ f, execAbort _ _ s = _; unfold execAbort; exact ⟨_, rfl⟩
  case range => show ∃ f, execRange _ _ s = _; unfold execRange; exact ⟨_, rfl⟩
  case aspace => show ∃ f, execAspace _ _ s = _; unfold execAspace; exact ⟨_, rfl⟩
  case facet => show ∃ f, execFacet _ _ s = _; unfold execFacet; exact ⟨_, rfl⟩
  case invBlockEnd => show ∃ f, execInvBlockEnd  s = _; unfold execInvBlockEnd; exact ⟨_, rfl⟩
  case invDone => show ∃ f, execInvDone  s = _; unfold execInvDone; exact ⟨_, rfl⟩
  case trCoreFlush => show ∃ f, execTrCoreFlush _ _ s = _; unfold execTrCoreFlush; exact ⟨_, rfl⟩
  case clear => show ∃ f, execClear _ _ s = _; unfold execClear; exact ⟨_, rfl⟩
  case hostWindowAccess => show ∃ f, execHostWindowAccess _ _ _ _ _ _ _ _ _ s = _; unfold execHostWindowAccess; exact ⟨_, rfl⟩
  case remoteWindowAccess => show ∃ f, execRemoteWindowAccess _ _ _ _ _ _ _ s = _; unfold execRemoteWindowAccess; exact ⟨_, rfl⟩
  case importAccess => show ∃ f, execImportAccess  s = _; unfold execImportAccess; exact ⟨_, rfl⟩
  case contextWrite => show ∃ f, execContextWrite _ _ _ _ s = _; unfold execContextWrite; exact ⟨_, rfl⟩
  case hostWindowEntryWrite => show ∃ f, execHostWindowEntryWrite _ _ _ _ s = _; unfold execHostWindowEntryWrite; exact ⟨_, rfl⟩
  case importEntryWrite => show ∃ f, execImportEntryWrite _ _ _ _ s = _; unfold execImportEntryWrite; exact ⟨_, rfl⟩
  case feChCfgWrite => show ∃ f, execFeChCfgWrite _ _ _ _ s = _; unfold execFeChCfgWrite; exact ⟨_, rfl⟩
  case doorbell => show ∃ f, execDoorbell _ _ _ s = _; unfold execDoorbell; exact ⟨_, rfl⟩
  case slotRead => show ∃ f, execSlotRead _ _ s = _; unfold execSlotRead; exact ⟨_, rfl⟩
  case slotReread => show ∃ f, execSlotReread _ _ s = _; unfold execSlotReread; exact ⟨_, rfl⟩
  case commandStart => show ∃ f, execCommandStart _ s = _; unfold execCommandStart; exact ⟨_, rfl⟩
  case launch => show ∃ f, execLaunch _ s = _; unfold execLaunch onCmd; exact ⟨_, rfl⟩
  case copy => show ∃ f, execCopy _ _ s = _; unfold execCopy onCmd; exact ⟨_, rfl⟩
  case batch => show ∃ f, execBatch _ _ s = _; unfold execBatch; exact ⟨_, rfl⟩
  case sync => show ∃ f, execSync _ s = _; unfold execSync onCmd; exact ⟨_, rfl⟩
  case invalidate => show ∃ f, execInvalidate _ s = _; unfold execInvalidate onCmd; exact ⟨_, rfl⟩
  case graphStore => show ∃ f, execGraphStore _ s = _; unfold execGraphStore onCmd; exact ⟨_, rfl⟩
  case graphPatch => show ∃ f, execGraphPatch _ s = _; unfold execGraphPatch onCmd; exact ⟨_, rfl⟩
  case graphRetire => show ∃ f, execGraphRetire _ s = _; unfold execGraphRetire onCmd; exact ⟨_, rfl⟩
  case nop => show ∃ f, execNop _ s = _; unfold execNop onCmd; exact ⟨_, rfl⟩
  case launchStart => show ∃ f, execLaunchStart _ s = _; unfold execLaunchStart onCmd; exact ⟨_, rfl⟩
  case launchArgWriteDone => show ∃ f, execLaunchArgWriteDone _ s = _; unfold execLaunchArgWriteDone; exact ⟨_, rfl⟩
  case launchEnd => show ∃ f, execLaunchEnd _ s = _; unfold execLaunchEnd; exact ⟨_, rfl⟩
  case completionRecordWrite => show ∃ f, execCompletionRecordWrite _ s = _; unfold execCompletionRecordWrite; exact ⟨_, rfl⟩
  case completionReadbackDone => show ∃ f, execCompletionReadbackDone _ _ s = _; unfold execCompletionReadbackDone; exact ⟨_, rfl⟩
  case feChAbort => exact Bool.noConfusion (show true = false from h)
  case releaseHold => show ∃ f, execReleaseHold _ _ s = _; unfold execReleaseHold; exact ⟨_, rfl⟩
  case feGregWrite => show ∃ f, execFeGregWrite _ _ _ _ s = _; unfold execFeGregWrite; exact ⟨_, rfl⟩
  case deviceQueueConfigWrite => show ∃ f, execDeviceQueueConfigWrite _ _ _ _ s = _; unfold execDeviceQueueConfigWrite; exact ⟨_, rfl⟩
  case opFetch => show ∃ f, execOpFetch _ s = _; unfold execOpFetch; exact ⟨_, rfl⟩
  case endOp => show ∃ f, execEndOp _ s = _; unfold execEndOp; exact ⟨_, rfl⟩
  case setc => show ∃ f, execSetc _ s = _; unfold execSetc; exact ⟨_, rfl⟩
  case addc => show ∃ f, execAddc _ s = _; unfold execAddc; exact ⟨_, rfl⟩
  case ldc => show ∃ f, execLdc _ s = _; unfold execLdc; exact ⟨_, rfl⟩
  case br => show ∃ f, execBr _ s = _; unfold execBr; exact ⟨_, rfl⟩
  case brc => show ∃ f, execBrc _ s = _; unfold execBrc; exact ⟨_, rfl⟩
  case loop => show ∃ f, execLoop _ s = _; unfold execLoop; exact ⟨_, rfl⟩
  case fence => show ∃ f, execFence _ s = _; unfold execFence; exact ⟨_, rfl⟩
  case fenceRelease => show ∃ f, execFenceRelease _ s = _; unfold execFenceRelease; exact ⟨_, rfl⟩
  case wait => show ∃ f, execWait _ s = _; unfold execWait; exact ⟨_, rfl⟩
  case signal => show ∃ f, execSignal _ s = _; unfold execSignal; exact ⟨_, rfl⟩
  case signalDeferredAct => show ∃ f, execSignalDeferredAct _ s = _; unfold execSignalDeferredAct; exact ⟨_, rfl⟩
  case own => show ∃ f, execOwn _ s = _; unfold execOwn; exact ⟨_, rfl⟩
  case enqueue => show ∃ f, execEnqueue _ s = _; unfold execEnqueue; exact ⟨_, rfl⟩
  case relayRing => show ∃ f, execRelayRing _ s = _; unfold execRelayRing; exact ⟨_, rfl⟩
  case dmaCopy => show ∃ f, execDmaCopy _ s = _; unfold execDmaCopy dmaIssue; exact ⟨_, rfl⟩
  case dmaTensor => show ∃ f, execDmaTensor _ s = _; unfold execDmaTensor dmaIssue; exact ⟨_, rfl⟩
  case dmaRelay => show ∃ f, execDmaRelay _ s = _; unfold execDmaRelay dmaIssue; exact ⟨_, rfl⟩
  case dmaOpComplete => show ∃ f, execDmaOpComplete _ s = _; unfold execDmaOpComplete; exact ⟨_, rfl⟩
  case relayLand => show ∃ f, execRelayLand _ s = _; unfold execRelayLand; exact ⟨_, rfl⟩
  case taskEnd => exact Bool.noConfusion (show true = false from h)
  case sqRelayWrite => show ∃ f, execSqRelayWrite _ _ _ s = _; unfold execSqRelayWrite; exact ⟨_, rfl⟩
  case sqSaveWrite => show ∃ f, execSqSaveWrite _ _ _ s = _; unfold execSqSaveWrite; exact ⟨_, rfl⟩
  case taskPlace => show ∃ f, execTaskPlace _ s = _; unfold execTaskPlace; exact ⟨_, rfl⟩
  case preemptRequest => show ∃ f, execPreemptRequest _ s = _; unfold execPreemptRequest; exact ⟨_, rfl⟩
  case preemptSave => show ∃ f, execPreemptSave _ _ s = _; unfold execPreemptSave; exact ⟨_, rfl⟩
  case taskResume => show ∃ f, execTaskResume _ s = _; unfold execTaskResume; exact ⟨_, rfl⟩
  case portLanesTrained => show ∃ f, execPortLanesTrained _ s = _; unfold execPortLanesTrained; exact ⟨_, rfl⟩
  case identityFlitArrival => show ∃ f, execIdentityFlitArrival _ _ s = _; unfold execIdentityFlitArrival; exact ⟨_, rfl⟩
  case laneFailure => show ∃ f, execLaneFailure _ s = _; unfold execLaneFailure; exact ⟨_, rfl⟩
  case replayFailure => show ∃ f, execReplayFailure _ s = _; unfold execReplayFailure; exact ⟨_, rfl⟩
  case portRetrainTimer => show ∃ f, execPortRetrainTimer _ s = _; unfold execPortRetrainTimer; exact ⟨_, rfl⟩
  case retrain => show ∃ f, execRetrain _ _ s = _; unfold execRetrain; exact ⟨_, rfl⟩
  case packetArrival => show ∃ f, execPacketArrival _ _ s = _; unfold execPacketArrival; exact ⟨_, rfl⟩
  case remoteResponseArrival => show ∃ f, execRemoteResponseArrival  s = _; unfold execRemoteResponseArrival; exact ⟨_, rfl⟩
  case twinPairing => show ∃ f, execTwinPairing _ s = _; unfold execTwinPairing; exact ⟨_, rfl⟩
  case heartbeatSend => show ∃ f, execHeartbeatSend  s = _; unfold execHeartbeatSend; exact ⟨_, rfl⟩
  case heartbeatArrival => show ∃ f, execHeartbeatArrival _ s = _; unfold execHeartbeatArrival; exact ⟨_, rfl⟩
  case partnerLost => show ∃ f, execPartnerLost  s = _; unfold execPartnerLost; exact ⟨_, rfl⟩
  case mirrorRecordSend => show ∃ f, execMirrorRecordSend _ s = _; unfold execMirrorRecordSend; exact ⟨_, rfl⟩
  case mirrorRecordArrival => show ∃ f, execMirrorRecordArrival _ s = _; unfold execMirrorRecordArrival; exact ⟨_, rfl⟩
  case mirrorAckArrival => show ∃ f, execMirrorAckArrival _ _ _ s = _; unfold execMirrorAckArrival; exact ⟨_, rfl⟩
  case twMirrorCfgWrite => show ∃ f, execTwMirrorCfgWrite _ _ _ _ s = _; unfold execTwMirrorCfgWrite; exact ⟨_, rfl⟩
  case restart => show ∃ f, execRestart _ _ s = _; unfold execRestart; exact ⟨_, rfl⟩
  case eklLinkUp => show ∃ f, execEklLinkUp  s = _; unfold execEklLinkUp; exact ⟨_, rfl⟩
  case eklLinkDown => show ∃ f, execEklLinkDown  s = _; unfold execEklLinkDown; exact ⟨_, rfl⟩
  case pcieLinkDown => show ∃ f, execPcieLinkDown  s = _; unfold execPcieLinkDown; exact ⟨_, rfl⟩
  case functionLevelReset => exact ⟨fun _ d => d, by show execFunctionLevelReset 0 s = _; unfold execFunctionLevelReset; rfl⟩
  case apertureAccess => show ∃ f, execApertureAccess _ _ _ _ _ s = _; unfold execApertureAccess; exact ⟨_, rfl⟩
  case request => show ∃ f, execRequest _ _ s = _; unfold execRequest; exact ⟨_, rfl⟩
  case complete => show ∃ f, execComplete _ s = _; unfold execComplete; exact ⟨_, rfl⟩
  case detach => show ∃ f, execDetach _ s = _; unfold execDetach; exact ⟨_, rfl⟩
  case hlHostRidWrite => show ∃ f, execHlHostRidWrite _ _ s = _; unfold execHlHostRidWrite; exact ⟨_, rfl⟩
  case flushReadIssue => show ∃ f, execFlushReadIssue  s = _; unfold execFlushReadIssue; exact ⟨_, rfl⟩
  case flushReadDone => show ∃ f, execFlushReadDone _ s = _; unfold execFlushReadDone; exact ⟨_, rfl⟩
  case hostWindowReadResponse => show ∃ f, execHostWindowReadResponse _ _ s = _; unfold execHostWindowReadResponse; exact ⟨_, rfl⟩
  case completionTimeout => show ∃ f, execCompletionTimeout _ s = _; unfold execCompletionTimeout; exact ⟨_, rfl⟩
  case msixMessage => show ∃ f, execMsixMessage _ _ s = _; unfold execMsixMessage; exact ⟨_, rfl⟩
  case inputInRange => exact Bool.noConfusion (show true = false from h)
  case inputStop => exact Bool.noConfusion (show true = false from h)
  case vinOut => exact Bool.noConfusion (show true = false from h)
  case railPowerGood => exact Bool.noConfusion (show true = false from h)
  case trip => exact Bool.noConfusion (show true = false from h)
  case modRstNAssert => exact Bool.noConfusion (show true = false from h)
  case resetRelease => exact Bool.noConfusion (show true = false from h)
  case refclkLoss => exact Bool.noConfusion (show true = false from h)
  case firmwareBankVerify => exact Bool.noConfusion (show true = false from h)
  case fwLoad => exact Bool.noConfusion (show true = false from h)
  case bistEnd => exact Bool.noConfusion (show true = false from h)
  case periodicMeasurement => exact Bool.noConfusion (show true = false from h)
  case measure => exact Bool.noConfusion (show true = false from h)
  case measurementEnd => exact Bool.noConfusion (show true = false from h)
  case clockRelockEnd => exact Bool.noConfusion (show true = false from h)
  case agHistIndexWrite => exact Bool.noConfusion (show true = false from h)
  case agHistDataRead => exact Bool.noConfusion (show true = false from h)
  case violationLogWrite => show ∃ f, execViolationLogWrite  s = _; unfold execViolationLogWrite; exact ⟨_, rfl⟩
  case quarantine => exact Bool.noConfusion (show true = false from h)
  case machineCheck => exact Bool.noConfusion (show true = false from h)
  case release => show ∃ f, execRelease _ _ s = _; unfold execRelease; exact ⟨_, rfl⟩
  case releaseBistEnd => exact Bool.noConfusion (show true = false from h)
  case tlChWrite => show ∃ f, execTlChWrite _ _ _ _ s = _; unfold execTlChWrite; exact ⟨_, rfl⟩
  case go => exact Bool.noConfusion (show true = false from h)
  case stop => show ∃ f, execStop _ _ s = _; unfold execStop; exact ⟨_, rfl⟩
  case keyCommand => exact Bool.noConfusion (show true = false from h)
  case keyRecordReadDone => exact Bool.noConfusion (show true = false from h)
  case keySlotWriteDone => exact Bool.noConfusion (show true = false from h)
  case attest => exact Bool.noConfusion (show true = false from h)
  case attestNonceReadDone => exact Bool.noConfusion (show true = false from h)
  case governorSample => exact Bool.noConfusion (show true = false from h)
  case governorWindow => show ∃ f, execGovernorWindow  s = _; unfold execGovernorWindow; exact ⟨_, rfl⟩
  case thermalHoldStart => exact Bool.noConfusion (show true = false from h)
  case thermalHoldEnd => exact Bool.noConfusion (show true = false from h)
  case ident => exact Bool.noConfusion (show true = false from h)
  case status => exact Bool.noConfusion (show true = false from h)
  case tripCause => exact Bool.noConfusion (show true = false from h)
  case vin => exact Bool.noConfusion (show true = false from h)
  case iin => exact Bool.noConfusion (show true = false from h)
  case pin => exact Bool.noConfusion (show true = false from h)
  case tj => exact Bool.noConfusion (show true = false from h)
  case tcase => exact Bool.noConfusion (show true = false from h)
  case rails => exact Bool.noConfusion (show true = false from h)
  case energy => exact Bool.noConfusion (show true = false from h)
  case smbusWrite => exact Bool.noConfusion (show true = false from h)
  case bypass => exact Bool.noConfusion (show true = false from h)
  case samplePreload => exact Bool.noConfusion (show true = false from h)
  case extest => exact Bool.noConfusion (show true = false from h)
  case extestPulse => exact Bool.noConfusion (show true = false from h)
  case extestTrain => exact Bool.noConfusion (show true = false from h)
  case trstNAssert => exact Bool.noConfusion (show true = false from h)
  case homeOwnerPutArrival => show ∃ f, execHomeOwnerPutArrival _ s = _; unfold execHomeOwnerPutArrival; exact ⟨_, rfl⟩
  case remoteShardRowDataArrival => show ∃ f, execRemoteShardRowDataArrival _ s = _; unfold execRemoteShardRowDataArrival; exact ⟨_, rfl⟩
  case controlWindowRead => exact Bool.noConfusion (show true = false from h)
  case pcieLinkUp => show ∃ f, execPcieLinkUp  s = _; unfold execPcieLinkUp; exact ⟨_, rfl⟩
  case portTrainingFailed => show ∃ f, execPortTrainingFailed _ s = _; unfold execPortTrainingFailed; exact ⟨_, rfl⟩
  case powerOnHour => exact Bool.noConfusion (show true = false from h)

/-- Every command acts through onDev or onAll, but for those of the sideband and REGISTER_WRITE. -/
theorem exec_shape (i : Instr) (s : State) (h : sideband i = false) :
    (∃ fn off w v, i = .registerWrite fn off w v) ∨ (∃ f, exec i s = onDev s f) ∨ ∃ f, exec i s = onAll s f := by
  by_cases ht : touchesControl i = false
  · exact .inr (.inl (exec_work i s ht))
  · cases i
    case registerWrite => exact .inl ⟨_, _, _, _, rfl⟩
    case latchedHalfRead => right; right; show ∃ f, execLatchedHalfRead _ _ s = _; unfold execLatchedHalfRead; exact ⟨_, rfl⟩
    case rcFieldRead => right; right; show ∃ f, execRcFieldRead _ _ s = _; unfold execRcFieldRead; exact ⟨_, rfl⟩
    case syncObjectWrite => exact absurd rfl ht
    case load => right; right; show ∃ f, execLoad _ _ s = _; unfold execLoad; exact ⟨_, rfl⟩
    case tmImageReadDone => right; right; show ∃ f, execTmImageReadDone _ _ s = _; unfold execTmImageReadDone; exact ⟨_, rfl⟩
    case tmChecksEnd => right; right; show ∃ f, execTmChecksEnd  s = _; unfold execTmChecksEnd; exact ⟨_, rfl⟩
    case tmFlashWriteDone => right; right; show ∃ f, execTmFlashWriteDone _ s = _; unfold execTmFlashWriteDone; exact ⟨_, rfl⟩
    case tmApplyDone => right; right; show ∃ f, execTmApplyDone  s = _; unfold execTmApplyDone; exact ⟨_, rfl⟩
    case bootTrailMapLoad => right; right; show ∃ f, execBootTrailMapLoad  s = _; unfold execBootTrailMapLoad; exact ⟨_, rfl⟩
    case facetDrain => right; right; show ∃ f, execFacetDrain _ _ s = _; unfold execFacetDrain; exact ⟨_, rfl⟩
    case facetResume => right; right; show ∃ f, execFacetResume _ _ s = _; unfold execFacetResume; exact ⟨_, rfl⟩
    case drained => right; right; show ∃ f, execDrained _ s = _; unfold execDrained; exact ⟨_, rfl⟩
    case geBasket => exact absurd rfl ht
    case basketStart => exact absurd rfl ht
    case indexListArrival => exact absurd rfl ht
    case ownerRoundStart => exact absurd rfl ht
    case rowFetchComplete => exact absurd rfl ht
    case forwardArrival => exact absurd rfl ht
    case forwardAckArrival => exact absurd rfl ht
    case ownerRoundEnd => exact absurd rfl ht
    case partialArrival => exact absurd rfl ht
    case flaggedRecordArrival => exact absurd rfl ht
    case listEndRecordArrival => exact absurd rfl ht
    case unpooledRowArrival => exact absurd rfl ht
    case basketComplete => exact absurd rfl ht
    case rowPut => exact absurd rfl ht
    case rowMove => exact absurd rfl ht
    case shardSet => exact absurd rfl ht
    case tableStage => exact absurd rfl ht
    case tableCutover => exact absurd rfl ht
    case tableRelease => exact absurd rfl ht
    case rowWriteAck => exact absurd rfl ht
    case putRoundsEnded => exact absurd rfl ht
    case versionRetire => exact absurd rfl ht
    case flushAs => exact absurd rfl ht
    case flushAll => exact absurd rfl ht
    case rdTregWrite => exact absurd rfl ht
    case geAreaWrite => exact absurd rfl ht
    case meLoad => exact absurd rfl ht
    case meSwap => exact absurd rfl ht
    case meMm => exact absurd rfl ht
    case meInval => exact absurd rfl ht
    case meScales => exact absurd rfl ht
    case meLoadComplete => exact absurd rfl ht
    case meGroupIssue => exact absurd rfl ht
    case meRowWrite => exact absurd rfl ht
    case meLevelStep => exact absurd rfl ht
    case mvMm => exact absurd rfl ht
    case mvScales => exact absurd rfl ht
    case mvLeadIn => exact absurd rfl ht
    case mvChunkBuildDone => exact absurd rfl ht
    case mvOpComplete => exact absurd rfl ht
    case veChain => exact absurd rfl ht
    case veLoad => exact absurd rfl ht
    case veStore => exact absurd rfl ht
    case veFill => exact absurd rfl ht
    case veLive => exact absurd rfl ht
    case veOpComplete => exact absurd rfl ht
    case poolPass => exact absurd rfl ht
    case mergePass => exact absurd rfl ht
    case xpTload => exact absurd rfl ht
    case xpTfree => exact absurd rfl ht
    case xpHeaderRead => exact absurd rfl ht
    case xpBlockDecoded => exact absurd rfl ht
    case sliceRead => exact absurd rfl ht
    case sliceWrite => exact absurd rfl ht
    case pointReadRequest => exact absurd rfl ht
    case pointRequestAged => exact absurd rfl ht
    case hbmReadComplete => exact absurd rfl ht
    case msFlush => exact absurd rfl ht
    case msUnkeep => exact absurd rfl ht
    case msFlushDone => exact absurd rfl ht
    case scrubRead => exact absurd rfl ht
    case channelFailed => exact absurd rfl ht
    case channelTrainingEnd => exact absurd rfl ht
    case tlbMiss => exact absurd rfl ht
    case walkLevelReadDone => exact absurd rfl ht
    case scoutWalk => exact absurd rfl ht
    case retry => exact absurd rfl ht
    case abort => exact absurd rfl ht
    case range => exact absurd rfl ht
    case aspace => exact absurd rfl ht
    case facet => exact absurd rfl ht
    case invBlockEnd => exact absurd rfl ht
    case invDone => exact absurd rfl ht
    case trCoreFlush => exact absurd rfl ht
    case clear => exact absurd rfl ht
    case hostWindowAccess => exact absurd rfl ht
    case remoteWindowAccess => exact absurd rfl ht
    case importAccess => exact absurd rfl ht
    case contextWrite => exact absurd rfl ht
    case hostWindowEntryWrite => exact absurd rfl ht
    case importEntryWrite => exact absurd rfl ht
    case feChCfgWrite => exact absurd rfl ht
    case doorbell => exact absurd rfl ht
    case slotRead => exact absurd rfl ht
    case slotReread => exact absurd rfl ht
    case commandStart => exact absurd rfl ht
    case launch => exact absurd rfl ht
    case copy => exact absurd rfl ht
    case batch => exact absurd rfl ht
    case sync => exact absurd rfl ht
    case invalidate => exact absurd rfl ht
    case graphStore => exact absurd rfl ht
    case graphPatch => exact absurd rfl ht
    case graphRetire => exact absurd rfl ht
    case nop => exact absurd rfl ht
    case launchStart => exact absurd rfl ht
    case launchArgWriteDone => exact absurd rfl ht
    case launchEnd => exact absurd rfl ht
    case completionRecordWrite => exact absurd rfl ht
    case completionReadbackDone => exact absurd rfl ht
    case feChAbort => right; right; show ∃ f, execFeChAbort _ _ s = _; unfold execFeChAbort onTasks; exact ⟨_, rfl⟩
    case releaseHold => exact absurd rfl ht
    case feGregWrite => exact absurd rfl ht
    case deviceQueueConfigWrite => exact absurd rfl ht
    case opFetch => exact absurd rfl ht
    case endOp => exact absurd rfl ht
    case setc => exact absurd rfl ht
    case addc => exact absurd rfl ht
    case ldc => exact absurd rfl ht
    case br => exact absurd rfl ht
    case brc => exact absurd rfl ht
    case loop => exact absurd rfl ht
    case fence => exact absurd rfl ht
    case fenceRelease => exact absurd rfl ht
    case wait => exact absurd rfl ht
    case signal => exact absurd rfl ht
    case signalDeferredAct => exact absurd rfl ht
    case own => exact absurd rfl ht
    case enqueue => exact absurd rfl ht
    case relayRing => exact absurd rfl ht
    case dmaCopy => exact absurd rfl ht
    case dmaTensor => exact absurd rfl ht
    case dmaRelay => exact absurd rfl ht
    case dmaOpComplete => exact absurd rfl ht
    case relayLand => exact absurd rfl ht
    case taskEnd => right; right; show ∃ f, execTaskEnd _ s = _; unfold execTaskEnd onTasks; exact ⟨_, rfl⟩
    case sqRelayWrite => exact absurd rfl ht
    case sqSaveWrite => exact absurd rfl ht
    case taskPlace => exact absurd rfl ht
    case preemptRequest => exact absurd rfl ht
    case preemptSave => exact absurd rfl ht
    case taskResume => exact absurd rfl ht
    case portLanesTrained => exact absurd rfl ht
    case identityFlitArrival => exact absurd rfl ht
    case laneFailure => exact absurd rfl ht
    case replayFailure => exact absurd rfl ht
    case portRetrainTimer => exact absurd rfl ht
    case retrain => exact absurd rfl ht
    case packetArrival => exact absurd rfl ht
    case remoteResponseArrival => exact absurd rfl ht
    case twinPairing => exact absurd rfl ht
    case heartbeatSend => exact absurd rfl ht
    case heartbeatArrival => exact absurd rfl ht
    case partnerLost => exact absurd rfl ht
    case mirrorRecordSend => exact absurd rfl ht
    case mirrorRecordArrival => exact absurd rfl ht
    case mirrorAckArrival => exact absurd rfl ht
    case twMirrorCfgWrite => exact absurd rfl ht
    case restart => exact absurd rfl ht
    case eklLinkUp => exact absurd rfl ht
    case eklLinkDown => exact absurd rfl ht
    case pcieLinkDown => exact absurd rfl ht
    case functionLevelReset => exact absurd rfl ht
    case apertureAccess => exact absurd rfl ht
    case request => exact absurd rfl ht
    case complete => exact absurd rfl ht
    case detach => exact absurd rfl ht
    case hlHostRidWrite => exact absurd rfl ht
    case flushReadIssue => exact absurd rfl ht
    case flushReadDone => exact absurd rfl ht
    case hostWindowReadResponse => exact absurd rfl ht
    case completionTimeout => exact absurd rfl ht
    case msixMessage => exact absurd rfl ht
    case inputInRange => exact Bool.noConfusion (show true = false from h)
    case inputStop => exact Bool.noConfusion (show true = false from h)
    case vinOut => exact Bool.noConfusion (show true = false from h)
    case railPowerGood => exact Bool.noConfusion (show true = false from h)
    case trip => exact Bool.noConfusion (show true = false from h)
    case modRstNAssert => exact Bool.noConfusion (show true = false from h)
    case resetRelease => exact Bool.noConfusion (show true = false from h)
    case refclkLoss => exact Bool.noConfusion (show true = false from h)
    case firmwareBankVerify => right; right; show ∃ f, execFirmwareBankVerify  s = _; unfold execFirmwareBankVerify; exact ⟨_, rfl⟩
    case fwLoad => right; right; show ∃ f, execFwLoad _ _ _ s = _; unfold execFwLoad; exact ⟨_, rfl⟩
    case bistEnd => right; right; show ∃ f, execBistEnd _ _ s = _; unfold execBistEnd; exact ⟨_, rfl⟩
    case periodicMeasurement => right; right; show ∃ f, execPeriodicMeasurement  s = _; unfold execPeriodicMeasurement; exact ⟨_, rfl⟩
    case measure => right; right; show ∃ f, execMeasure _ s = _; unfold execMeasure; exact ⟨_, rfl⟩
    case measurementEnd => right; right; show ∃ f, execMeasurementEnd _ _ s = _; unfold execMeasurementEnd; exact ⟨_, rfl⟩
    case clockRelockEnd => right; right; show ∃ f, execClockRelockEnd _ s = _; unfold execClockRelockEnd; exact ⟨_, rfl⟩
    case agHistIndexWrite => right; right; show ∃ f, execAgHistIndexWrite _ _ s = _; unfold execAgHistIndexWrite; exact ⟨_, rfl⟩
    case agHistDataRead => right; right; show ∃ f, execAgHistDataRead _ s = _; unfold execAgHistDataRead; exact ⟨_, rfl⟩
    case violationLogWrite => exact absurd rfl ht
    case quarantine => right; right; show ∃ f, execQuarantine _ _ s = _; unfold execQuarantine onTasks; exact ⟨_, rfl⟩
    case machineCheck => right; right; show ∃ f, execMachineCheck _ s = _; unfold execMachineCheck onTasks; exact ⟨_, rfl⟩
    case release => exact absurd rfl ht
    case releaseBistEnd => right; right; show ∃ f, execReleaseBistEnd _ _ s = _; unfold execReleaseBistEnd; exact ⟨_, rfl⟩
    case tlChWrite => exact absurd rfl ht
    case go => right; right; show ∃ f, execGo _ _ s = _; unfold execGo; exact ⟨_, rfl⟩
    case stop => exact absurd rfl ht
    case keyCommand => right; right; show ∃ f, execKeyCommand _ s = _; unfold execKeyCommand; exact ⟨_, rfl⟩
    case keyRecordReadDone => right; right; show ∃ f, execKeyRecordReadDone _ _ s = _; unfold execKeyRecordReadDone; exact ⟨_, rfl⟩
    case keySlotWriteDone => right; right; show ∃ f, execKeySlotWriteDone _ s = _; unfold execKeySlotWriteDone; exact ⟨_, rfl⟩
    case attest => right; right; show ∃ f, execAttest _ s = _; unfold execAttest; exact ⟨_, rfl⟩
    case attestNonceReadDone => right; right; show ∃ f, execAttestNonceReadDone _ s = _; unfold execAttestNonceReadDone; exact ⟨_, rfl⟩
    case governorSample => right; right; show ∃ f, execGovernorSample _ s = _; unfold execGovernorSample; exact ⟨_, rfl⟩
    case governorWindow => exact absurd rfl ht
    case thermalHoldStart => right; right; show ∃ f, execThermalHoldStart _ _ s = _; unfold execThermalHoldStart; exact ⟨_, rfl⟩
    case thermalHoldEnd => right; right; show ∃ f, execThermalHoldEnd _ _ s = _; unfold execThermalHoldEnd; exact ⟨_, rfl⟩
    case ident => exact Bool.noConfusion (show true = false from h)
    case status => exact Bool.noConfusion (show true = false from h)
    case tripCause => exact Bool.noConfusion (show true = false from h)
    case vin => exact Bool.noConfusion (show true = false from h)
    case iin => exact Bool.noConfusion (show true = false from h)
    case pin => exact Bool.noConfusion (show true = false from h)
    case tj => exact Bool.noConfusion (show true = false from h)
    case tcase => exact Bool.noConfusion (show true = false from h)
    case rails => exact Bool.noConfusion (show true = false from h)
    case energy => exact Bool.noConfusion (show true = false from h)
    case smbusWrite => exact Bool.noConfusion (show true = false from h)
    case bypass => exact Bool.noConfusion (show true = false from h)
    case samplePreload => exact Bool.noConfusion (show true = false from h)
    case extest => exact Bool.noConfusion (show true = false from h)
    case extestPulse => exact Bool.noConfusion (show true = false from h)
    case extestTrain => exact Bool.noConfusion (show true = false from h)
    case trstNAssert => exact Bool.noConfusion (show true = false from h)
    case homeOwnerPutArrival => exact absurd rfl ht
    case remoteShardRowDataArrival => exact absurd rfl ht
    case controlWindowRead => right; right; show ∃ f, execControlWindowRead _ _ _ s = _; unfold execControlWindowRead; exact ⟨_, rfl⟩
    case pcieLinkUp => exact absurd rfl ht
    case portTrainingFailed => exact absurd rfl ht
    case powerOnHour => exact Bool.noConfusion (show true = false from h)

end Sys2Proof.Machine
end

