-- ==== Sys2Proof/Laws/Memory.lean ====
section
/-! SUPPORT. Every operation that stores keeps the canonical form of the memory that it writes: HBM through its channels, Core Store and its rings. -/

namespace Sys2Proof.Machine

/-- A granule written by its channel. -/
theorem Dev.hbmWrite_wf (d : Dev) (ch loc : Nat) (tag : Option CryptTag) (b : List Byte) (p : Bool) (h : Memory.wf d.mem.hbm = true) :
    Memory.wf (d.hbmWrite ch loc tag b p).mem.hbm = true := by
  unfold Dev.hbmWrite
  split
  · refine Memory.wf_writeN _ _ _ ?_
    split <;> (split <;> exact h)
  · exact h

/-- Units written into the landing ring. -/
theorem Core.ringWrite_wf (k : Core) (base size p : Nat) (b : List PByte) (h : Memory.wf k.store = true) :
    Memory.wf (k.ringWrite base size p b).store = true := by
  unfold Core.ringWrite
  generalize List.range (b.length / 64) = l
  induction l generalizing k with
  | nil => exact h
  | cons i l ih => exact ih _ (Core.csWrite_wf _ _ _ h)

/-- A record written into the delivery ring. -/
theorem Core.dlvWrite_wf (k : Core) (base size pos : Nat) (b : List PByte) (h : Memory.wf k.store = true) :
    Memory.wf (k.dlvWrite base size pos b).store = true := Core.csWrite_wf _ _ _ (Core.csWrite_wf _ _ _ h)

/-- A channel that is mapped out loses its bytes. -/
theorem Dev.applyChan_wf (d : Dev) (had : Bool) (old new : TrailMap) (ch : Nat) (h : Memory.wf d.mem.hbm = true) :
    Memory.wf (d.applyChan had old new ch).mem.hbm = true := by
  dsimp only [Dev.applyChan]
  split
  · split <;> exact h
  · split
    · exact h
    · exact Sparse.wf_clearRange (α := Byte) _ _ _ _ h

end Sys2Proof.Machine
end

