-- ==== Sys2Proof/Tests/Demo.lean ====
section
/-! SUPPORT. Small states for the tests and witnesses: a module with one facet, and states made from it. -/

namespace Sys2Proof.Tests

set_option Elab.async false

open Sys2Proof Sys2Proof.Machine

/-- A Trail Map with facet 0 alone: every core, channel 0 of memory, four submission channels and address spaces, 64 sync objects, host function 0. -/
def map0 : TrailMap := {
  generation := 1
  facets := [{ id := 0, ports := 1, cores := 2 ^ 128 - 1, chanCount := 4, asCount := 4, clientCount := 2, queueCount := 2, syncCount := 64 }]
  chan := [0], torus := { dim := [2, 1, 1], ports := 1 }, share := [100]
  access := [{ fn := 0, facets := 1, blocks := 0x7FFF }] }

/-- A module that runs, with map0 in effect and facet 0 RUNNING, its address space 0 enabled. -/
def demo : State := {
  ctl := { stage := .firmware, bistDone := true, blocksReady := true, map := some map0, facetState := .running :: List.replicate 15 .absent }
  dev := ({ hl := { eklUp := true, pcieUp := true, state := 2 }, mem := { chans := [(0, { state := .ready })] } } : Dev).setReg (baseCtx 0) (2 ^ 31) }

/-- demo with its part Dev, or Ctl, changed. -/
def withDev (f : Dev → Dev) : State := { demo with dev := f demo.dev }
def withCtl (f : Ctl → Ctl) : State := { demo with ctl := f demo.ctl }
/-- demo with core 0. -/
def withCore (k : Core) : State := withDev fun d => { d with cores := [(0, k)] }
/-- demo with a register of value v. -/
def withReg (off v : Nat) : State := withDev fun d => d.setReg off v
/-- demo with channel 0. -/
def withChan (h : Channel) : State := withDev fun d => { d with chans := [(0, h)] }
/-- demo with the Gather Engine of core 0. -/
def withGe (g : Ge) : State := withCore { ge := g }
/-- demo with what core 0's Gather Engine holds in its inbox. -/
def withMsg (m : GeMsg) (g : Ge) : State := withGe { g with inbox := [{ m := m }] }
/-- demo in reset. -/
def held : State := { demo with ctl := { demo.ctl with power := { running := false } } }

/-- Task 0 of the launch in slot 0 of channel 0. -/
def task0 : Task := { own := { task := some 0 } }
/-- demo with task 0 on core 0 and the op at its program counter. -/
def atOp (op : Nat) : State := withCore { seq := { task := some task0, buf := [(0, op)] } }
/-- An op of task 0. -/
def op0 (op : Nat) : QOp := { op := op, own := task0.own }

/-- Pages of 1 GiB at their own addresses, readable and writable, in a core's TLB. -/
def tlb0 : List TlbEntry := [{ level := 1, page := 0, pa := 0, bits := 3 }]

/-- Pair-valued results that stand in hypotheses. -/
theorem some_of {α β : Type} (x : α × Option β) (h : x.2.isSome = true) : ∃ a b, x = (a, some b) := by
  obtain ⟨a, b | b⟩ := x
  · cases h
  · exact ⟨a, b, rfl⟩

theorem none_of {α β : Type} (x : α × Option β) (h : x.2.isSome = false) : ∃ a, x = (a, none) := by
  obtain ⟨a, b | b⟩ := x
  · exact ⟨a, rfl⟩
  · cases h

theorem two_of {α β γ δ : Type} (x : α × Option β) (f : α → β → γ × Option δ) (p : β → δ → Prop) [∀ b d, Decidable (p b d)]
    (h : (match x with | (a, some b) => (match f a b with | (_, some d) => decide (p b d) | _ => false) | _ => false) = true) :
    ∃ a b, x = (a, some b) ∧ ∃ c d, f a b = (c, some d) ∧ p b d := by
  obtain ⟨a, b | b⟩ := x
  · cases h
  · simp only at h
    split at h
    · next c d e => exact ⟨a, b, rfl, c, d, e, of_decide_eq_true h⟩
    · cases h

theorem one_of {α : Type} (l : List α) (p : α → Bool) (h : (match l with | [f] => p f | _ => false) = true) : ∃ f, l = [f] ∧ p f = true := by
  match l with
  | [f] => exact ⟨f, rfl, h⟩
  | [] => cases h
  | _ :: _ :: _ => cases h

theorem val_of {α β : Type} (x : α × β) (b : β) (h : x.2 = b) : ∃ a, x = (a, b) := ⟨x.1, by rw [← h]⟩

end Sys2Proof.Tests
end

