-- ==== Sys2Proof/Tests/Image.lean ====
section
/-! SUPPORT. SHA-256 and P-256 against the standards' own examples, and a Trail Map image that passes every check of Table 2.7, as witness for the statements on loads. -/

namespace Sys2Proof.Tests

set_option Elab.async false

open Sys2Proof Sys2Proof.Machine Sys2Proof.Claims

set_option maxRecDepth 200000

/-- The example of FIPS 180-4 for the message abc. -/
theorem test_sha256_abc : beNat (sha256 [0x61, 0x62, 0x63]) = 0xba7816bf8f01cfea414140de5dae2223b00361a396177a9cb410ff61f20015ad := by decide +kernel

/-- The order of the base point of P-256. -/
theorem test_p256_order : ecMul 256 p256N (some (p256G.1, p256G.2, 1)) none = none := by decide +kernel

/-- A section followed by zeros up to the next 16 B. -/
def pad16 (l : List Byte) : List Byte := l ++ zeros ((16 - l.length % 16) % 16)
/-- A public key of P-256, made for this test. -/
def vkey : List Byte := toBe 32 0x088bb9ff22ab291a74c86fc677ba897baadee370cc6129b82d170ba3fc26415c ++ toBe 32 0x442da9a716067956d91eaa02b93ad409490e87cd5e758ea6a331a1deb75ba846
/-- A directory entry. -/
def dirE (t off size : Nat) : List Byte := toLe 2 t ++ toLe 2 1 ++ toLe 4 off ++ toLe 4 size ++ zeros 4
/-- A Trail Map image without its signature: nine sections, one facet with every core, channel 0 of memory (R46 to R64). -/
def img0 : List Byte :=
  toLe 4 0x504D5447 ++ toLe 2 1 ++ toLe 2 9 ++ toLe 4 2224 ++ zeros 4 ++ toLe 8 1 ++ zeros 8 ++
  (dirE 1 288 68 ++ dirE 2 368 148 ++ dirE 3 528 512 ++ dirE 4 1040 4 ++ dirE 5 1056 16 ++ dirE 7 1072 512 ++ dirE 8 1584 528 ++ dirE 9 2112 24 ++ dirE 10 2144 12) ++ zeros 112 ++
  pad16 (toLe 4 1 ++ zeros 4 ++ List.replicate 16 0xFF ++
    toLe 2 0 ++ toLe 2 4 ++ toLe 2 0 ++ toLe 2 4 ++ toLe 2 0 ++ toLe 2 2 ++ toLe 2 0 ++ toLe 2 2 ++ toLe 4 0 ++ toLe 4 64 ++ zeros 20) ++
  pad16 ((List.range 128).map (BitVec.ofNat 8) ++ zeros 16 ++ toLe 4 0x0F) ++
  ([0] ++ List.replicate 383 0x80 ++ zeros 128) ++ zeros 16 ++ (zeros 3 ++ [1, 1, 1] ++ zeros 10) ++ (List.replicate 16 ([0xFF, 0xFF] ++ zeros 30)).flatten ++
  ((List.replicate 132 [0, 10, 0, 0]).flatten) ++ pad16 (toLe 2 1000 ++ toLe 2 1200 ++ [10, 0, 0, 0, 100] ++ zeros 15) ++
  pad16 (toLe 4 1 ++ toLe 2 0 ++ toLe 2 1 ++ toLe 4 0x7FFF)
/-- Its signature under the key of vkey. -/
def sig0 : List Byte := toBe 32 0x10a490523955cbc2c2d3452458fcdf97c4733469f187905f5cb67347f4244eb8 ++ toBe 32 0x129fdea6204e52875f0a3aeaeff6a7e4994a5fdedc8e1ec3e957c1f9f16bf927

/-- The signed image. -/
def image0 : List Byte := img0 ++ sig0

theorem image_length : tmLength image0 = 2224 := by decide +kernel
theorem image_magic : le image0 0 4 = 0x504D5447 ∧ le image0 4 2 = 1 := by decide +kernel
theorem image_generation : le image0 0x10 8 = 1 := by decide +kernel
theorem image_directory : directoryCheck image0 = none := by decide +kernel
theorem image_zeros : zeroCheck image0 = none := by decide +kernel
theorem image_fields : fieldCheck image0 = none := by decide +kernel
theorem image_consistent : consistencyCheck image0 (parseTrailMap image0) = none := by decide +kernel
theorem structure_of (img : List Byte) (d : directoryCheck img = none) (z : zeroCheck img = none) (f : fieldCheck img = none)
    (c : consistencyCheck img (parseTrailMap img) = none) : structureCheck img = none := by
  simp [structureCheck, d, z, f, c]
theorem image_structure : structureCheck image0 = none := structure_of _ image_directory image_zeros image_fields image_consistent
theorem check_of (c : Ctl) (host : Bool) (keys : List OwnerKey) (img : List Byte) (h : headerCheck img = none) (s : signCheck c.vendorKey keys img = none)
    (g : generationCheck host c.generation c.flash.floorOf img = none) (t : structureCheck img = none) (n : c.map = none) :
    imageCheck c host keys img = none := by
  have d : imageChanges c img = [] := by simp [imageChanges, n]
  simp [imageCheck, h, s, g, t, d, drainedCheck, minNat]
theorem header_of (img : List Byte) (n : tmLength img = 2224) (m : le img 0 4 = 0x504D5447 ∧ le img 4 2 = 1) : headerCheck img = none := by
  simp [headerCheck, n, m]
theorem whole_of (img : List Byte) (e : img.isEmpty = false) (h : headerCheck img = none) (p : padTo (tmLength img) img = img) :
    wholeImage (bankBytes img) = img := by
  simp [wholeImage, bankBytes, e, h, p]
theorem generation_of (host : Bool) (img : List Byte) (g : le img 0x10 8 = 1) : generationCheck host 0 0 img = none := by
  cases host <;> simp [generationCheck, g]
theorem sign_of (vendor img : List Byte) (keys : List OwnerKey) (k : le img 0x18 4 = 0)
    (h : verifySig vendor (img.take (tmLength img - 64)) (slice img (tmLength img - 64) 64) = true) : signCheck vendor keys img = none := by
  simp [signCheck, signerKey, k, h]

theorem image_header : headerCheck image0 = none := header_of _ image_length image_magic
theorem image_signed (keys : List OwnerKey) : signCheck vkey keys image0 = none := sign_of _ _ _ (by decide +kernel) (by decide +kernel)

/-- A module with the vendor's firmware and no map, whose two flash banks hold the image. -/
def fresh (l : Option TmLoad) : State := { demo with ctl := { demo.ctl with
  map := none, load := l, firmware := zeros 64 ++ vkey, flash := { demo.ctl.flash with bank := [image0, image0] } } }

theorem image_accepted (l : Option TmLoad) (host : Bool) (keys : List OwnerKey) : imageCheck (fresh l).ctl host keys image0 = none := by
  have v : (fresh l).ctl.vendorKey = vkey := by
    show slice (zeros 64 ++ vkey) 64 64 = vkey
    decide +kernel
  refine check_of _ _ _ _ image_header ?_ ?_ image_structure rfl
  · rw [v]; exact image_signed keys
  · exact generation_of host image0 image_generation

theorem witness_TrailMapLoadPhases_checks :
    ∃ l, (fresh (some { phase := .checking, image := image0 })).ctl.load = some l ∧ l.phase = .checking ∧ l.fromHost = true ∧
      imageCheck (fresh (some { phase := .checking, image := image0 })).ctl true l.keys l.image = none :=
  ⟨_, rfl, rfl, rfl, image_accepted _ _ _⟩

theorem witness_TrailMapLoadPhases_boot :
    (fresh none).ctl.stage = .firmware ∧ (fresh none).ctl.map = none ∧ (fresh none).ctl.load = none ∧ (fresh none).ctl.flash.floor.any (·.isSome) = true ∧
    flashChoice (fresh none).ctl (fresh none).ctl.flash.keys (fresh none).ctl.readable = ([], some 0) := by
  refine ⟨rfl, rfl, rfl, by decide, ?_⟩
  have w : wholeImage (bankBytes image0) = image0 := whole_of _ (by decide +kernel) image_header (by decide +kernel)
  have b0 : (fresh none).ctl.flash.bankImage 0 = image0 := w
  have b1 : (fresh none).ctl.flash.bankImage 1 = image0 := w
  have r : (fresh none).ctl.readable = [true, true] := rfl
  simp [flashChoice, bankCheck, r, nth, b0, b1, image_accepted]

/-! ### Firmware, pairing, key records: what stands under the same key -/

/-- A firmware image of 256 B with security version 9. -/
def fw0 : List Byte := toLe 4 0x57465847 ++ toLe 4 256 ++ toLe 4 9 ++ zeros 52 ++ vkey ++ zeros 64 ++
  toBe 32 0x10a490523955cbc2c2d3452458fcdf97c4733469f187905f5cb67347f4244eb8 ++ toBe 32 0x8af4f7247684371a2425fbca15731aa6dbd6e89f2821e806a6766c37de4f446a

theorem firmware_of (img : List Byte) (f : (le img 0 4 = 0x57465847 ∧ fwLength img = 256) ∧ slice img 64 64 = vkey ∧ le img 8 4 = 9)
    (v : verifySig vkey (img.take 192) (img.drop 192) = true) (r : Config.rootHash = sha256 vkey) (svn : Config.minSvn ≤ 9) :
    fwCheck img = 0 := by
  obtain ⟨⟨m, n⟩, k, a⟩ := f
  simp [fwCheck, m, n, k, v, a, r, svn]

/-- Where the fuses hold the root key and its floor, the image passes; in module flash, or as the host gives it. -/
theorem witness_RangerCommands_firmware (r : Config.rootHash = sha256 vkey) (svn : Config.minSvn ≤ 9) : fwCheck fw0 = 0 ∧ fwImage 0 fw0 = fw0 :=
  have signed : verifySig vkey (fw0.take 192) (fw0.drop 192) = true := by decide +kernel
  ⟨firmware_of fw0 (by decide +kernel) signed r svn, by decide +kernel⟩

/-- The partner of a module whose TWIN section is twin0. -/
def partner0 : TwinIdentity := { role := 1, key := vkey
                                 sig := toBe 32 0x10a490523955cbc2c2d3452458fcdf97c4733469f187905f5cb67347f4244eb8 ++ toBe 32 0x7e7c04fe0c7cfb083da6d38fcfd06dc66a1da5997a0fade1ae3151ddeb299197 }
def twin0 : TwinCfg := { enable := true, digest := sha256 vkey }
/-- demo with that TWIN section and port T in TRAINING. -/
def seeking : State := { demo with
  ctl := { demo.ctl with map := some { map0 with twin := some twin0 } }
  dev := { demo.dev with twin := { state := 1, challenge := toBe 32 5 }, ports := List.replicate 7 { state := .training, trained := true } } }

theorem witness_TwinAndMirror_pairing :
    seeking.ctl.tm.twin = some twin0 ∧ twin0.enable = true ∧ (seeking.dev.port 6).state = .training ∧ (seeking.dev.port 6).trained = true ∧
    pairingFault twin0 seeking.dev.twin.challenge partner0 = 0 ∧ pairingFault twin0 seeking.dev.twin.challenge {} = 2 ∧ seeking.dev.twin.state ≠ 2 := by
  decide +kernel

/-- A revocation of slot 1, signed by the vendor, for a module whose identity hashes to zeros. -/
def record0 : List Byte := toLe 4 0x454B5847 ++ [2, 1, 0, 0] ++ toLe 8 1 ++ zeros 112 ++
  toBe 32 0x10a490523955cbc2c2d3452458fcdf97c4733469f187905f5cb67347f4244eb8 ++ toBe 32 0x45c8cd0369890d4dc4871417e6571bc0689eb060408bc0001d8b9902f9b1f14b

/-- The fields of a revocation of slot 1 with counter 1, as the key record of R482 places them, for an identity that hashes to zeros. -/
def RevokesSlot1 (b : List Byte) : Prop :=
  (le b 0 4 = 0x454B5847 ∧ slice b 4 4 = [2, 1, 0, 0]) ∧ le b 8 8 = 1 ∧ (slice b 16 16 = zeros 16 ∧ le b 32 64 = 0) ∧ le b 96 4 = 0 ∧ le b 100 28 = 0

theorem record_of (c : Ctl) (b : List Byte) (r : RevokesSlot1 b) (o : byteAt b 4 = 2 ∧ byteAt b 5 = 1 ∧ byteAt b 6 = 0 ∧ byteAt b 7 = 0)
    (v : verifySig c.vendorKey (slice b 0 128) (slice b 128 64) = true) (k : (keySlot c.flash.keys 1).counter = 0)
    (i : (sha256 Config.identityKey).take 16 = zeros 16) : recordCheck c b = none := by
  obtain ⟨⟨m, -⟩, n, ⟨h, z⟩, w, y⟩ := r
  simp [recordCheck, m, o, n, h, z, w, y, v, k, i, enrolKey]

theorem witness_RangerCommands_record (i : (sha256 Config.identityKey).take 16 = zeros 16) : recordCheck (fresh none).ctl (padTo 192 record0) = none := by
  have v : (fresh none).ctl.vendorKey = vkey := by
    show slice (zeros 64 ++ vkey) 64 64 = vkey
    decide +kernel
  have p : padTo 192 record0 = record0 := by decide +kernel
  rw [p]
  have fields : RevokesSlot1 record0 := by unfold RevokesSlot1; decide +kernel
  have signed : verifySig vkey (slice record0 0 128) (slice record0 128 64) = true := by decide +kernel
  exact record_of _ _ fields (by decide) (v ▸ signed) rfl i

end Sys2Proof.Tests
end

