-- ==== Sys2Proof/Tests/Slice0.lean ====
section
/-! SUPPORT. Tests: which commands are well formed, and the specification's own worked examples. -/

namespace Sys2Proof.Tests

set_option Elab.async false

open Sys2Proof Sys2Proof.Machine

set_option maxRecDepth 20000

/-! ### Well-formed commands, and an ill-formed one for each check -/

theorem test_wf_access : (Instr.registerWrite { fn := 0 } 0x1FFFFFC 4 0).wf = true ∧ (Instr.registerWrite { fn := 0 } 0x2000000 4 0).wf = false ∧
    (Instr.controlWindowRead { fn := 0 } 0 8).wf = true ∧ (Instr.controlWindowRead { fn := 0 } 0 3).wf = false := by decide

theorem test_wf_special_reads : (Instr.latchedHalfRead 0 0x10).wf = true ∧ (Instr.latchedHalfRead 0 0).wf = false ∧
    (Instr.rcFieldRead 0 (baseSQ 0 + 0x90)).wf = true ∧ (Instr.rcFieldRead 0 0).wf = false := by decide +kernel

theorem test_wf_slices : (Instr.sliceRead 0 0 .stream {}).wf = true ∧ (Instr.sliceRead 0 (2 ^ 48) .stream {}).wf = false ∧
    (Instr.sliceWrite 0 0 0 (zeros 64) .keep false false).wf = true ∧ (Instr.sliceWrite 0 0 0 (zeros 63) .keep false false).wf = false ∧
    (Instr.pointReadRequest 0 0 .row .last).wf = true ∧ (Instr.pointReadRequest 0 (2 ^ 48) .row .last).wf = false := by decide

theorem test_wf_translation : (Instr.tlbMiss 0 { eng := .ge } 0 false).wf = true ∧ (Instr.tlbMiss 0 { eng := .ge } (2 ^ 52) false).wf = false ∧
    (Instr.hostWindowAccess 0 .dma 0 0 0 2 (some [1, 2]) false false).wf = true ∧ (Instr.hostWindowAccess 0 .dma 0 0 0 2 (some [1]) false false).wf = false ∧
    (Instr.remoteWindowAccess 0 .dma 0 0 1 none false).wf = true ∧ (Instr.remoteWindowAccess 0 .dma 0 0 0 none false).wf = false ∧
    (Instr.apertureAccess { fn := 0 } 0 1 (some [7]) false).wf = true ∧ (Instr.apertureAccess { fn := 0 } 0 1 (some []) false).wf = false := by decide

theorem test_wf_links : (Instr.identityFlitArrival 0 {}).wf = true ∧ (Instr.identityFlitArrival 0 { dim := [] }).wf = false ∧
    (Instr.packetArrival 0 { body := .remote (.writeAck 0) }).wf = true ∧ (Instr.packetArrival 0 { flits := 0, body := .remote (.writeAck 0) }).wf = false ∧
    (Instr.twinPairing { key := zeros 64, sig := zeros 64 }).wf = true ∧ (Instr.twinPairing {}).wf = false ∧
    (Instr.heartbeatArrival (List.replicate 16 0)).wf = true ∧ (Instr.heartbeatArrival []).wf = false ∧
    (Instr.mirrorRecordArrival { total := 64, bytes := zeros 64 }).wf = true ∧ (Instr.mirrorRecordArrival { facet := 16 }).wf = false := by decide

theorem test_wf_ranger : (Instr.bistEnd 0 (List.replicate 132 0)).wf = true ∧ (Instr.bistEnd 0 []).wf = false ∧
    (Instr.measurementEnd (List.replicate 132 0) (List.replicate 512 0)).wf = true ∧ (Instr.measurementEnd [] []).wf = false ∧
    (Instr.keyRecordReadDone false []).wf = true ∧ (Instr.keyRecordReadDone true []).wf = false ∧
    (Instr.attestNonceReadDone (zeros 32)).wf = true ∧ (Instr.attestNonceReadDone []).wf = false ∧
    (Instr.governorSample { estimate := List.replicate 16 0 }).wf = true ∧ (Instr.governorSample {}).wf = false := by decide +kernel

/-- No row of the table has bits. -/
theorem test_no_word_spells_a_command : decodeTableWord 32 0xFFFFFFFF = none := rfl

/-! ### Worked examples of the specification -/

/-- Architecture Overview, after R35: ME scale register 100 of logical core 37. -/
theorem test_scale_register_offset : baseCore 37 + 0x10000 + 4 * 100 = 0x014B0190 := by decide

/-- The example of R41, Table 1.8: a set in the cycle of a clear leaves the flag 1, and the counter counts both sets. -/
theorem test_set_and_clear :
    let d := demo.dev.setReg (baseBU + 0xD4) 4
    let d := d.raise (baseBU + 0xD0) 0 (baseBU + 0xD4)
    let e := writeFields d (baseBU + 0xD0) 1
    let f := (writeFields e (baseBU + 0xD0) 1).raise (baseBU + 0xD0) 0 (baseBU + 0xD4)
    (bit (d.reg (baseBU + 0xD0)) 0, d.reg (baseBU + 0xD4)) = (true, 5) ∧ (bit (e.reg (baseBU + 0xD0)) 0, e.reg (baseBU + 0xD4)) = (false, 5) ∧
    (bit (f.reg (baseBU + 0xD0)) 0, f.reg (baseBU + 0xD4)) = (true, 6) := by decide +kernel

/-- The example of R130: 2^24 and two ones in three blocks of one tile, and in one block. -/
theorem test_three_products :
    Fmt.fp32.narrowFloat (accumulate [([Num.ofInt 16777216], none), ([Num.ofInt 1], none), ([Num.ofInt 1], none)]) =
      Fmt.fp32.narrowFloat (Num.ofInt 16777216) ∧
    Fmt.fp32.narrowFloat (accumulate [([Num.ofInt 16777216, Num.ofInt 1, Num.ofInt 1], none)]) = Fmt.fp32.narrowFloat (Num.ofInt 16777218) := by
  decide +kernel

/-- The example of the third deviation: a signaling NaN plus 1.0, and what narrowing to FP16 makes of it. -/
theorem test_payload_dropped :
    Fmt.fp32.narrowFloat (((Fmt.fp32.decodeIn 0x7FA01234).add (Fmt.fp32.decodeIn 0x3F800000)).r32) = 0x7FC00000 ∧
    Fmt.fp16.narrowFloat (((Fmt.fp32.decodeIn 0xFFC00001).mul (Fmt.fp32.decodeIn 0x40000000)).r32) = 0x7E00 := by decide +kernel

/-- Table 4.9: BF16 0x0001 is read as +0, FP16 0x8001 as −0; E4M3 0x01 is honoured. -/
theorem test_subnormal_operands :
    Fmt.bf16.narrowFloat (Fmt.bf16.decodeIn 0x0001) = 0 ∧ Fmt.fp16.narrowFloat (Fmt.fp16.decodeIn 0x8001) = 0x8000 ∧ Fmt.e4m3.narrowFloat (Fmt.e4m3.decodeIn 0x01) = 0x01 := by
  decide +kernel

/-- The example of R184 and R189: 8 rows of CODE4, k_blocks 8, n_extent 64. -/
theorem test_narrow_head :
    let op := 0x20 + 0x89 * 2 ^ 24 + 8 * 2 ^ 32 + 64 * 2 ^ 48
    mvBuild op = 16 ∧ mvChunks op = 4 ∧ mvSlot op = 16 := by decide

/-- The split module of the memory system's example: channels 0 to 287 are facet 0's; channel 40 mapped out or not. -/
def split (out : Bool) : Ctl := { map := some { map0 with
  chan := (List.range 384).map (fun i => if i = 40 && out then 0x80 else if i < 288 then 0 else 1), hash := [(0, 0x5A17)] } }

/-- One address before the map-out and after it. -/
theorem test_one_address : (split false).place 0 0x12345680 = (127, 0x00102E80) ∧ (split true).place 0 0x12345680 = (49, 0x00103C80) := by decide +kernel

/-- The walk of the example: its indices, and its L2 entry as leaf of 2 MiB that is read-only. -/
theorem test_walk : levelIndex 0 0x00040008BD61 = 0 ∧ levelIndex 1 0x000400000000 = 16 ∧ levelIndex 2 0x00040008BD61 = 0 ∧
    (leafEntry 800 2 0x00040008BD61 0x0000008012400007 false).pa + 0x00040008BD61 % 2 ^ 21 = 0x00801248BD61 ∧
    leafGrants (leafEntry 800 2 0x00040008BD61 0x0000008012400007 false).bits false = true ∧
    leafGrants (leafEntry 800 2 0x00040008BD61 0x0000008012400007 false).bits true = false := by decide +kernel

/-- The doorbell of the example: 256 slots, consumer count 517. -/
theorem test_doorbell : genOf 517 256 = 3 ∧ genOf 519 256 = 3 ∧ doorbellIndex 517 256 0x208 3 = some 520 := by decide +kernel

/-- The torus of the example, at a position. -/
def torus (x y z : Nat) : Ctl := { map := some { map0 with torus := { pos := [x, y, z], dim := [8, 8, 4], dateline := [4, 7, 3], ports := 63 } } }

/-- The ports of the route from (2, 7, 1) to (6, 1, 3), and the virtual channels of its X and Y hops. -/
theorem test_route :
    (torus 2 7 1).nextPort 0x613 = some 0 ∧ (torus 6 7 1).nextPort 0x613 = some 2 ∧ (torus 6 1 1).nextPort 0x613 = some 4 ∧ (torus 6 1 3).nextPort 0x613 = none ∧
    (torus 2 7 1).nextVc none 0 0 = 0 ∧ (torus 3 7 1).nextVc (some 1) 0 0 = 0 ∧ (torus 4 7 1).nextVc (some 1) 0 0 = 1 ∧ (torus 5 7 1).nextVc (some 1) 1 0 = 1 ∧
    (torus 6 7 1).nextVc (some 1) 1 2 = 1 ∧ (torus 6 0 1).nextVc (some 3) 1 2 = 1 ∧ (torus 6 1 1).nextVc (some 3) 1 4 = 0 := by decide +kernel

end Sys2Proof.Tests
end

