-- ==== Sys2Proof/Tests/WitnessA.lean ====
section
/-! SUPPORT. Witnesses: states and operands that meet the hypotheses of the statements on the block, the control window, the Trail Map and task programs. -/

namespace Sys2Proof.Tests

set_option Elab.async false

open Sys2Proof Sys2Proof.Machine Sys2Proof.Claims

set_option maxRecDepth 20000

theorem witness_StepRunsFrontCommand : ∃ (s : State) (i : Instr) (rest : List Instr), s.pending = i :: rest := ⟨{ demo with pending := [.nop 0] }, _, _, rfl⟩

theorem witness_EmptyQueueTicks : (demo.pending = [] ∧ Runs demo) ∧ (held.pending = [] ∧ ¬ Runs held) := by decide

theorem witness_StepKeepsInvariant : demo.Inv ∧ ∃ t, step demo = .next t := by
  refine ⟨?_, _, rfl⟩
  unfold State.Inv Power.legal Ctl.bootLegal
  decide +kernel

theorem witness_ResetHoldsEveryCommand : ¬ Runs held ∧ sideband (.nop 0) = false := by decide

theorem witness_WorkLeavesControl : touchesControl (.nop 0) = false ∧ ∃ t, exec (.nop 0) demo = .next t := ⟨rfl, _, rfl⟩

theorem witness_WriteAdmission :
    ((checkWrite demo.ctl demo.dev 0 (baseBU + 0xC4) 4).2 = true) ∧
    widthOk 2 4 = false ∧ (4 = 4 ∧ inSync baseSY) ∧
    (widthOk baseTR 4 = true ∧ ¬ inSync baseTR ∧ blockCode baseTR ≠ 0x0E ∧ blockReady State.reset.ctl State.reset.dev baseTR = false) ∧
    (widthOk basePW 4 = true ∧ ¬ inSync basePW ∧ blockCode basePW ≠ 0x0E ∧ blockReady demo.ctl demo.dev basePW = true ∧ writeRight demo.ctl 1 basePW = some 2) := by
  decide +kernel

theorem witness_WritesWithoutTrailMap : State.reset.ctl.map = none ∧ (1 : Nat) ≠ 0 := by decide

theorem witness_WritesTurnedAway : writeOf (.load 1 0) = some (1, baseRG + 0x100, 4) ∧ Runs demo ∧ (checkWrite demo.ctl demo.dev 1 (baseRG + 0x100) 4).2 = false ∧
    ridOf (.load 1 0) = none ∧ ridOf (.controlWindowRead { fn := 0, rid := 1 } 0 4) = some 1 ∧ (withDev fun d => { d with hl := { d.hl with armed := true } }).dev.ridRefuses 1 = true := by
  decide +kernel

theorem witness_RegistersHoldWhatIsSet : (5 : Nat) ≠ 4 ∧ Sparse.wf none demo.dev.regs = true := by decide

theorem witness_FlagsCountTheirEvents : baseTR ≠ baseTR + 4 ∧ 31 < 32 ∧ (0 : Nat) ≠ 31 := by decide

theorem witness_WritesFollowAccessTypes :
    (∀ f ∈ fieldsAt 1, f.acc ≠ .rw ∧ f.acc ≠ .w1c) ∧ (∃ f, fieldsAt (baseBU + 0xC4) = [f] ∧ decide (f.acc = .rw) = true) ∧
    (∃ f, fieldsAt (baseBU + 0xD0) = [f] ∧ decide (f.acc = .w1c) = true) := by
  refine ⟨by decide +kernel, ?_, ?_⟩
  · exact one_of _ _ (by decide +kernel)
  · exact one_of _ _ (by decide +kernel)

theorem witness_RegisterWrites :
    Runs demo ∧ demo.dev.ridRefuses 0 = false ∧ (baseBU + 0xC4 < baseRG ∧ baseBU + 0xC4 ≠ baseBU + 0xC0 ∧ Grants demo 0 (baseBU + 0xC4) 4) ∧ Grants demo 0 (baseCore (127 : Fin 128) + 0x10000 + 4 * (4095 : Fin 4096)) 4 ∧
    Grants demo 0 (syncOff (63 : Fin 131072)) 8 := by
  decide +kernel

/-- demo with one record in the ageing history. -/
def aged : State := withCtl fun c => { c with flash := { c.flash with history := [{}] } }

theorem witness_WindowReads :
    Runs demo ∧ demo.dev.ridRefuses 0 = false ∧ widthOk 1 4 = false ∧ (widthOk baseTR 4 = true ∧ blockReady State.reset.ctl State.reset.dev baseTR = false) ∧
    ((baseBU + 0x3FC) % 4 = 0 ∧ ¬ inSync (baseBU + 0x3FC) ∧ blockReady demo.ctl demo.dev (baseBU + 0x3FC) = true ∧ (fieldsAt (baseBU + 0x3FC)).isEmpty = true) ∧
    (let off := baseSQ 0 + 0x90
     off % 4 = 0 ∧ ¬ inSync off ∧ blockReady demo.ctl demo.dev off = true ∧ (fieldsAt off).any (fun f => decide (f.acc = .rc)) = true ∧ isLatched off = false ∧
     viewFree demo.dev off = false ∧ latchTargets off = [] ∧ off ≠ baseAG + 0x44 ∧ off ≠ baseRG + 0x1040) ∧
    (blockReady aged.ctl aged.dev (baseAG + 0x44) = true ∧ (aged.ctl.flash.history.drop aged.ctl.histIndex).head? = some {} ∧ aged.ctl.histWord < 432) := by
  decide +kernel

/-! ### Trail Map and facets -/

/-- demo with a load in a phase. -/
def loading (l : TmLoad) : State := withCtl fun c => { c with load := some l }

theorem witness_TrailMapLoadPhases :
    (Runs demo ∧ Grants demo 0 (baseRG + 0x100) 4 ∧ demo.ctl.load = none) ∧
    (let s := loading {}; ∃ l, s.ctl.load = some l ∧ l.phase = .reading ∧ l.fromHost = true ∧ s.ctl.keyBusy = false) ∧
    (let s : State := { loading { phase := .flashWrite } with ctl := { (loading { phase := .flashWrite }).ctl with mapBank := some 1 } }
     ∃ l b, s.ctl.load = some l ∧ l.phase = .flashWrite ∧ s.ctl.mapBank = some b) ∧
    (∃ l, (loading { phase := .applying }).ctl.load = some l ∧ l.phase = .applying) := by
  refine ⟨by decide +kernel, ⟨_, rfl, rfl, rfl, by decide⟩, ⟨_, _, rfl, rfl, rfl⟩, ⟨_, rfl, rfl⟩⟩

theorem witness_RefusedLoadKeepsTheMap :
    ∃ l e, (loading { phase := .checking }).ctl.load = some l ∧ l.phase = .checking ∧ l.fromHost = true ∧
      imageCheck (loading { phase := .checking }).ctl true l.keys l.image = some e := by
  refine ⟨_, (2, 0), rfl, rfl, rfl, by decide +kernel⟩

/-- demo with facet 0 DRAINING. -/
def draining : State := withCtl fun c => { c with facetState := .draining :: List.replicate 15 .absent }

theorem witness_FacetStates :
    (demo.ctl.facetState.length = 16 ∧ Grants demo 0 (baseRG + 0x128) 4) ∧ (Grants demo 0 (baseRG + 0x12C) 4 ∧ demo.ctl.load = none) ∧
    (draining.ctl.fstate (0 : Fin 16) = .draining ∧ facetBusy draining.ctl draining.dev (0 : Fin 16) = false) := by
  decide +kernel

/-! ### Task programs -/

theorem witness_OpsEnterTheirQueues :
    (Ready (atOp 0x50) 0 0x50 .ge task0 0x50 ∧ Ready (atOp 0x30) 0 0x30 .ve task0 0x30 ∧ Ready (atOp 0x31) 0 0x31 .ve task0 0x31 ∧
     Ready (atOp 0x32) 0 0x32 .ve task0 0x32 ∧ Ready (atOp 0x33) 0 0x33 .ve task0 0x33 ∧ Ready (atOp 0x34) 0 0x34 .ve task0 0x34 ∧
     Ready (atOp 0x60) 0 0x60 .dma task0 0x60 ∧ Ready (atOp 0x61) 0 0x61 .dma task0 0x61 ∧ Ready (atOp 0x62) 0 0x62 .dma task0 0x62) ∧
    8 ≤ ((withCore { ve := { queue := List.replicate 8 {} } }).dev.core 0).ve.queue.length ∧
    8 ≤ ((withCore { dma := { queue := List.replicate 8 {} } }).dev.core 0).dma.queue.length := by
  decide +kernel

theorem witness_CountersAndBranches :
    ((atOp 1).dev.curOp 0 1 = some (task0, 1) ∧ opClean 1 [] = true) ∧
    ((atOp 0x702).dev.curOp 0 2 = some (task0, 0x702) ∧ opClean 0x702 [(1, 2, 0), (4, 31, 0)] = true) ∧
    ((atOp 3).dev.curOp 0 3 = some (task0, 3) ∧ opClean 3 [(1, 2, 0), (4, 31, 0)] = true) ∧
    (let op := 4 + 0x5FFFFC * 2 ^ 32
     (atOp op).dev.curOp 0 4 = some (task0, op) ∧ opClean op [(1, 6, 0), (4, 22, 0)] = true ∧ opf op 4 22 0 % 4 = 0 ∧ opf op 4 22 0 + 4 ≤ storeBytes ∧
     (atOp op).dev.forced (atOp op).ctl task0.own.ch 5 = false ∧ anyPoison (((atOp op).dev.core 0).csRead (opf op 4 22 0) 4) = false) ∧
    ((atOp 0x1F05).dev.curOp 0 5 = some (task0, 0x1F05) ∧ opClean 0x1F05 [(1, 4, 0), (2, 15, 0)] = true) ∧
    ((atOp 0x3706).dev.curOp 0 6 = some (task0, 0x3706) ∧ opClean 0x3706 [(1, 2, 0), (1, 6, 4), (2, 15, 0), (4, 31, 0)] = true ∧ opf 0x3706 1 6 4 ≤ 3) ∧
    ((atOp 7).dev.curOp 0 7 = some (task0, 7) ∧ opClean 7 [(1, 2, 0), (2, 15, 0)] = true) := by
  decide +kernel

theorem witness_ReservedOpBitsAreRefused :
    ((atOp 0x802).dev.curOp 0 2 = some (task0, 0x802) ∧ opClean 0x802 [(1, 2, 0), (4, 31, 0)] = false) ∧
    ((atOp 0x4008).dev.curOp 0 8 = some (task0, 0x4008) ∧ opClean 0x4008 [(1, 5, 0)] = false) ∧
    ((atOp 0x20D).dev.curOp 0 0xD = some (task0, 0x20D) ∧ opClean 0x20D [(1, 0, 0), (4, 31, 0)] = false) := by
  decide +kernel

/-- demo with a task on core 0 that waits, or has deferred a SIGNAL. -/
def waiting (w : SqWait) (l : List Deferred) : State := withCore { seq := { task := some task0, wait := w, deferred := l } }

theorem witness_OrderingOps :
    ((atOp 0x3F08).dev.curOp 0 8 = some (task0, 0x3F08) ∧ opClean 0x3F08 [(1, 5, 0)] = true) ∧
    (let s := waiting (.fence 63 0) []
     (s.dev.seq 0).task = some task0 ∧ (s.dev.seq 0).wait = .fence 63 0 ∧ s.dev.drainedFor 0 task0.own 63 0 = true) ∧
    ((atOp 9).dev.curOp 0 9 = some (task0, 9) ∧ opClean 9 [(1, 4, 0), (4, 16, 0), (8, 63, 0)] = true ∧ demo.ctl.syncFacet (opf 9 4 16 0) = demo.ctl.coreFacet 0) ∧
    (let op := 0xA + 63 * 2 ^ 32
     (atOp op).dev.curOp 0 0xA = some (task0, op) ∧ opClean op [(1, 0, 0), (2, 5, 0), (4, 16, 0), (8, 63, 0)] = true ∧
     demo.ctl.syncFacet (opf op 4 16 0) = demo.ctl.coreFacet 0) ∧
    (let s := waiting .none [{ own := task0.own }]
     (s.dev.seq 0).deferred = { own := task0.own } :: [] ∧ s.dev.drainedFor 0 task0.own 0 0 = true) ∧
    ((atOp 0xB).dev.curOp 0 0xB = some (task0, 0xB) ∧ opClean 0xB [(1, 0, 0), (1, 6, 4), (4, 16, 0)] = true ∧
     demo.ctl.syncFacet (opf 0xB 4 16 0) = demo.ctl.coreFacet 0 ∧ (atOp 0xB).dev.forced (atOp 0xB).ctl task0.own.ch 5 = false) ∧
    ((atOp 0x10D).dev.curOp 0 0xD = some (task0, 0x10D) ∧ opClean 0x10D [(1, 0, 0), (4, 31, 0)] = true ∧ opt 0x10D 1 0 = true) ∧
    ((atOp 0xD).dev.curOp 0 0xD = some (task0, 0xD) ∧ opClean 0xD [(1, 0, 0), (4, 31, 0)] = true ∧ opt 0xD 1 0 = false ∧
     ((atOp 0xD).dev.core 0).freed + opn 0xD 4 4 ≤ ((atOp 0xD).dev.core 0).readPos) := by
  decide +kernel

theorem witness_SyncOperations :
    ownSucceeds { owner := some 1 } true 0 = false ∧ ownSucceeds {} true 0 = true ∧ (ownSucceeds { owner := some 0 } false 0 = true ∧ ({ owner := some 0 } : SyncObj).mirror = false) ∧
    (1 : Nat) ≠ 0 := by
  decide

/-- A core with a task whose first op stands in memory at address 0. -/
def fetching : State := { withCore { tlb := tlb0, seq := { task := some task0 } } with
  dev := Dev.paPut demo.ctl (withCore { tlb := tlb0, seq := { task := some task0 } }).dev (whoCore 0 0 0) 0 (toLe 32 1) }

/-- An ENQUEUE to queue 0, enabled, with an entry reserved. -/
def enqueueing : State :=
  let s := atOp (0xC + 0xFF * 2 ^ 24)
  { s with dev := { s.dev with chans := [(0, { cmds := [{ launch := some { resv := [(0, 1, 0)], nextTask := 1 } }] })] }.setReg (baseQueue 0) (2 ^ 31) }

/-- A task that has ended with nothing outstanding. -/
def ended : State := withCore { seq := { task := some { task0 with ending := true } } }

theorem witness_FetchEnqueueAndEnd :
    (fetching.dev.issuing 0 = some task0 ∧ (fetching.dev.seq 0).buf.any (fun e => e.1 == task0.pc) = false ∧
     ∃ d1 ps, fetching.dev.resolve fetching.ctl 0 0 task0.as task0.pc (32 * min 64 ((65536 - task0.pc % 65536) / 32)) false = (d1, some ps) ∧
      ∃ d2 b, d1.fetchPieces fetching.ctl (whoCore 0 0 (fetching.ctl.facetOfCore 0)) 0 0 task0.as none 0 ps = (d2, some b) ∧
        (ps.head?.map (fun p => p.tr.isNone)).getD false = false ∧ anyPoison (b.take 32) = false ∧ opKnown (leNat (plain (b.take 32)) % 256) = true) ∧
    (let op := 0xC + 0xFF * 2 ^ 24
     enqueueing.dev.curOp 0 0xC = some (task0, op) ∧ opClean op [(1, 2, 0), (2, 7, 0), (3, 7, 0), (8, 51, 0)] = true ∧ opf op 8 51 0 % 32 = 0 ∧
     enqueueing.ctl.queueFacet (opb op 2) = enqueueing.ctl.coreFacet 0 ∧ opb op 3 = 0xFF ∧ enqueueing.dev.forced enqueueing.ctl task0.own.ch 6 = false ∧
     enqueueing.dev.enqueueFails task0 (opb op 2) = none) ∧
    (let t : Task := { task0 with ending := true }
     (ended.dev.seq 0).task = some t ∧ ended.dev.mayEnd 0 t = true ∧
     (ended.dev.cores.map (·.1)).filter (fun n => ended.dev.endedOn ((ended.dev.mergeClose 0 t.own).endTask 0 t t.status) n) = [0]) := by
  refine ⟨⟨by decide, by decide, ?_⟩, by decide +kernel, by decide +kernel⟩
  exact two_of _ (fun (d1 : Dev) (ps : List Piece) => d1.fetchPieces fetching.ctl (whoCore 0 0 (fetching.ctl.facetOfCore 0)) 0 0 task0.as none 0 ps)
    (fun (ps : List Piece) (b : List PByte) => (ps.head?.map (fun p => p.tr.isNone)).getD false = false ∧ anyPoison (b.take 32) = false ∧ opKnown (leNat (plain (b.take 32)) % 256) = true)
    (by decide +kernel)

/-- demo with a ready task of a level. -/
def readyAt (level : Nat) : State := withDev fun d => { d with ready := [{ task := { task0 with level := level } }] }

/-- Core 0 runs a task, with a save area; a task of a higher level is ready for core 0 alone. -/
def contested : State :=
  let s := withCore { seq := { task := some task0 } }
  { s with dev := { s.dev with ready := [{ task := { task0 with level := 3, named := 0 } }] }.setReg (baseSQ 0 + 0x80) (2 ^ 31) }

/-- Core 0 holds a saved task. -/
def resting : State := withCore { saved := [{ task := task0 }] }
/-- Core 0's task has been stopped. -/
def stopped : State := withCore { seq := { task := some task0, stopping := true } }

theorem witness_Dispatcher :
    (coreFree (readyAt 7).ctl (readyAt 7).dev (0 : Fin 128) = true ∧
      nextWork (readyAt 7).ctl (readyAt 7).dev (0 : Fin 128) = .place 0 { task := { task0 with level := 7 } }) ∧
    (coreFree resting.ctl resting.dev (0 : Fin 128) = true ∧ nextWork resting.ctl resting.dev (0 : Fin 128) = .resume { task := task0 }) ∧
    coreFree (atOp 0).ctl (atOp 0).dev (0 : Fin 128) = false ∧
    (let s := contested
     let r : Machine.Ready := { task := { task0 with level := 3, named := 0 } }
     (s.dev.ready.drop 0).head? = some r ∧ r.asked = false ∧
     (s.ctl.facetCores r.facet).any (fun m => r.mayRun s.ctl m && coreFree s.ctl s.dev m) = false ∧
     victimOf s.dev ((s.ctl.facetCores r.facet).filter (fun m => victimOk s.ctl s.dev r m)) = some 0) ∧
    ((stopped.dev.seq 0).task = some task0 ∧ (stopped.dev.seq 0).stopping = true ∧ (stopped.dev.core 0).settled = true ∧
     stopped.dev.coreFaults 0 = false) := by
  decide +kernel

theorem witness_VictimIsTheLowestLevel : victimOf demo.dev [3, 5] = some 5 := by decide +kernel

theorem witness_SequencerRegisterWrites :
    (Grants demo 0 (baseSQ (0 : Fin 128) + 0x30) 4 ∧ (demo.dev.core 0).arrived = (demo.dev.core 0).freed ∧ (demo.dev.core 0).landing = []) ∧
    (let s := withCore { arrived := 1 }; Grants s 0 (baseSQ (0 : Fin 128) + 0x30) 4 ∧ (s.dev.core 0).arrived ≠ (s.dev.core 0).freed) ∧
    (Grants demo 0 (baseSQ (0 : Fin 128) + 0x80) 4 ∧ (demo.dev.core 0).saved = [] ∧ bits (1437 + 2 ^ 31) 10 0 + 99 ≤ 1536) ∧
    (Grants resting 0 (baseSQ (0 : Fin 128) + 0x80) 4 ∧ (resting.dev.core 0).saved ≠ []) ∧
    (bit (1438 + 2 ^ 31) 31 = true ∧ 1536 < bits (1438 + 2 ^ 31) 10 0 + 99) := by
  decide +kernel

end Sys2Proof.Tests
end

