-- ==== Sys2Proof/Tests/WitnessB.lean ====
section
/-! SUPPORT. Witnesses: states and operands that meet the hypotheses of the statements on the Gather Engine, tables, the matrix and vector engines and the Expander. -/

namespace Sys2Proof.Tests

set_option Elab.async false

open Sys2Proof Sys2Proof.Machine Sys2Proof.Claims

set_option maxRecDepth 20000

/-! ### Gather Engine -/

/-- A list that may start a round, and one whose round has nothing left. -/
def list1 : InList := { h := { unpooled := true }, todo := [{}], chain := some ([1], false) }
def list2 : InList := { round := some 0 }
/-- A list with a row whose entry was read poisoned. -/
def list3 : InList := { h := { unpooled := true }, rows := [{ poison := true }] }

/-- A basket op of one sample, bag and position, without entries; a basket whose entries are still to be read. -/
def basketOp : QOp := op0 (0x50 + 2 ^ 16 + 2 ^ 32 + 2 ^ 48)
def reading0 : Basket := { op := basketOp, reading := some {} }

theorem witness_BasketProgress :
    (let s := withGe { queue := [op0 0x50] }
     (s.dev.ge 0).queue = op0 0x50 :: [] ∧ (op0 0x50).op % 256 = 0x50 ∧ s.dev.withheld 0 (op0 0x50) = false ∧
     (s.dev.basketStart s.ctl 0 (op0 0x50)).readsFor 0 = none) ∧
    (let s := withReg (baseGE 0 + 12) (2 ^ 16)
     let d := s.dev.updGe 0 (fun g => { g with queue := [basketOp] })
     (d.ge 0).queue = basketOp :: [] ∧ d.withheld 0 basketOp = false ∧ ((d.basketStart s.ctl 0 basketOp).readsFor 0).isSome = true) ∧
    (let s := withGe { baskets := [reading0] }
     (s.dev.ge 0).queue = [] ∧ s.dev.readsFor 0 = some (reading0, {})) ∧
    (takeMsg (fun m => match m with | .list .. => true | _ => false) ((withMsg (.list {} [] true) {}).dev.ge 0).inbox = some ({ m := .list {} [] true }, [])) ∧
    (let s := withGe { lists := [list1] }
     (s.dev.ge 0).nextList? = some list1 ∧ (∃ d1, s.dev.listChain s.ctl 0 list1 = (d1, list1)) ∧ list1.chain = some ([1], false) ∧ chainUse [1] false ≠ .missing) ∧
    (let s := withGe { lists := [list3] }
     (s.dev.ge 0).rowsOut.head?.map (fun x => x.2.got.isSome) = some false ∧ ((s.dev.ge 0).rowsOut.drop 0).head? = some (list3, { poison := true }) ∧ list3.h.unpooled = true) ∧
    (let s := withGe { lists := [list2] }
     (s.dev.ge 0).lists.find? (fun l => l.round.isSome && (l.rows.isEmpty && l.fwds.isEmpty)) = some list2 ∧
     ∃ d1, s.dev.writeStats s.ctl 0 list2.num list2.h.as list2.stats = (d1, true)) := by
  refine ⟨by decide +kernel, by decide +kernel, by decide +kernel, by decide +kernel, ⟨by decide +kernel, ?_, by decide +kernel⟩, by decide +kernel, by decide +kernel, _, rfl⟩
  exact val_of _ _ (by decide +kernel)

/-- A basket with nothing left to wait for. -/
def basket0 : Basket := { op := op0 0x50, zeroed := true }

/-- demo with 4 KiB of delivery ring, a basket and a message. -/
def receiving (m : GeMsg) : State :=
  let s := withMsg m { baskets := [basket0], lists := [{ fwds := [(0, [])] }] }
  { s with dev := s.dev.setReg (baseGE 0 + 4) (2 ^ 16) }

/-- demo with the basket alone, and pages for its report. -/
def finishing : State := withCore { tlb := tlb0, ge := { baskets := [basket0] } }

theorem witness_BasketMessages :
    (let s := receiving (.forward {} [])
     takeMsg (fun m => match m with | .forward .. => true | _ => false) (s.dev.ge 0).inbox = some ({ m := .forward {} [] }, []) ∧
     ((s.dev.updGe 0 (fun g => { g with inbox := [] })).unusedAs s.ctl 0 none {}).ownerCheck s.ctl 0 0 none = none) ∧
    (let s := receiving (.forwardAck {} 0 0 [1, 0, 0, 0])
     takeMsg (fun m => match m with | .forwardAck .. => true | _ => false) (s.dev.ge 0).inbox = some ({ m := .forwardAck {} 0 0 [1, 0, 0, 0] }, []) ∧
     (s.dev.updGe 0 (fun g => { g with inbox := [] })).list? 0 0 = some { fwds := [(0, [])] } ∧
     ([(0, [])] : List (Nat × List FwdRow)).find? (fun f => f.1 == 0) = some (0, [])) ∧
    (let s := receiving (.partialRec {} {})
     takeMsg (fun m => (match m with | .partialRec bk _ => some bk | _ => none : Option BasketRef).isSome) (s.dev.ge 0).inbox = some ({ m := .partialRec {} {} }, []) ∧
     (s.dev.ge 0).baskets.find? (fun b => b.num == 0) = some basket0 ∧ s.dev.ringRoom 0 0 = true ∧
     (s.dev.ge 0).rowsOut.any (fun x => x.2.got.isSome) = false ∧ ((s.dev.updGe 0 (fun g => { g with inbox := [] })).zeroFill s.ctl 0 basket0).2 = true) ∧
    (let s := receiving (.flagged {} { flags := 8 })
     takeMsg (fun m => (match m with | .flagged bk _ => some bk | .listError bk .. => some bk | _ => none : Option BasketRef).isSome) (s.dev.ge 0).inbox =
       some ({ m := .flagged {} { flags := 8 } }, []) ∧ (s.dev.ge 0).baskets.find? (fun b => b.num == 0) = some basket0 ∧ s.dev.ringRoom 0 0 = true ∧
     (s.dev.ge 0).rowsOut.any (fun x => x.2.got.isSome) = false) ∧
    (let s := receiving (.listEnd {} 0 0 [1, 1, 0, 0])
     takeMsg (fun m => (match m with | .listEnd bk _ _ _ => some bk | _ => none : Option BasketRef).isSome) (s.dev.ge 0).inbox =
       some ({ m := .listEnd {} 0 0 [1, 1, 0, 0] }, []) ∧ (s.dev.ge 0).baskets.find? (fun b => b.num == 0) = some basket0) ∧
    (let s := receiving (.row {} [] [] [] [])
     takeMsg (fun m => (match m with | .row bk .. => some bk | _ => none : Option BasketRef).isSome) (s.dev.ge 0).inbox = some ({ m := .row {} [] [] [] [] }, []) ∧
     ((s.dev.updGe 0 (fun g => { g with inbox := [] })).writePositions s.ctl 0 basket0.op (marked false []) []).2 = true) ∧
    (let s := finishing
     (s.dev.ge 0).baskets = [basket0] ∧ basket0.reading = none ∧ basket0.open_ = [] ∧ (s.dev.ge 0).ring = [] ∧ (s.dev.ge 0).inbox = [] ∧ (s.dev.zeroFill s.ctl 0 basket0).2 = true ∧
     (s.dev.geWrite s.ctl 0 basket0.op.as (some basket0.op.own) (opOutVa basket0.op.op) (marked false basket0.report)).2 = true) := by
  decide +kernel

/-- An accumulator's list, and a basket whose merge chain is missing. -/
def pooling : InList := { chain := some ([1], false), accs := [{}] }
def merging : Basket := { basket0 with chain := some ([], false) }

theorem witness_PoolAndMerge :
    (let s : State := { demo with dev := (withGe { ring := [{}], lists := [pooling] }).dev.setReg (baseGE 0 + 8) (2 ^ 16) }
     (s.dev.ge 0).ring = {} :: [] ∧ (s.dev.core 0).ve.running = false ∧ ({} : RingRec).ofList = true ∧ (s.dev.ringGetRec 0 {}).sample = 0 ∧ (s.dev.ringGetRec 0 {}).bag = 0 ∧
     (let e := (rowElems (inSize [1]) (s.dev.ringGetRec 0 {}).data).length
      pooling.accBytes + 4 * (e - 0) ≤ ((s.dev.updGe 0 (fun g => { g with ring := [] })).countPass 0
        (passCycles e (parseChain [1]).cost (s.dev.ringGetRec 0 {}).data.length)).geArea 0 2) ∧
     (s.dev.updGe 0 (fun g => { g with ring := [] })).list? 0 0 = some pooling ∧
     pooling.chain = some ([1], false) ∧ pooling.accs = [{}]) ∧
    (let s := withGe { ring := [{ ofList := false, len := 4 }], baskets := [merging] }
     (s.dev.ge 0).ring = { ofList := false, len := 4 } :: [] ∧ (s.dev.core 0).ve.running = false ∧ (s.dev.ge 0).baskets.find? (fun b => b.num == 0) = some merging ∧ merging.chain = some ([], false) ∧
     ∃ d1 b1, s.dev.mergePass s.ctl 0 { merging with chain := some ([], false) } ([], false) (s.dev.ringGetRec 0 { ofList := false, len := 4 }) = (d1, some b1)) := by
  refine ⟨by decide +kernel, by decide +kernel, by decide +kernel, by decide +kernel, rfl, ?_⟩
  exact some_of _ (by decide +kernel)

/-- demo with a maintenance op at the head of the queue. -/
def maintaining (o : Nat) : State := withGe { queue := [op0 o] }

theorem witness_MaintenanceOps : ∀ o ∈ [0x51, 0x52, 0x53, 0x54, 0x55, 0x56],
    let s := maintaining o
    let d := (s.dev.issue 0 o .ge).1
    (d.ge 0).queue = op0 o :: [] ∧ (op0 o).op % 256 = o ∧ d.withheld 0 (op0 o) = false ∧ ((d.ge 0).maint.filter (fun m => m.mirror.isNone)).length < 16 ∧ d.forced s.ctl (op0 o).own.ch 8 = false ∧
    (d.maintDo s.ctl 0 { op := op0 o, facet := s.ctl.facetOfCore 0 } none).2 ≠ .wait := by
  decide +kernel

/-- Registry entries with slot A STAGED at epoch 5: slot B EMPTY, and slot B RETIRING. -/
def entryA : List Byte := overlay (setSlot (zeros 128) 0 1) 0x2C (toLe 4 5)
def entryB : List Byte := setSlot entryA 1 3

theorem witness_CutoverStatus :
    slotIn (zeros 128) 1 = none ∧ (slotIn entryA 1 = some 0 ∧ (slotVer entryA 0).epoch ≠ mtEpoch 0) ∧
    (slotIn entryB 1 = some 0 ∧ (slotVer entryB 0).epoch = mtEpoch (5 * 2 ^ 32) ∧ slotState entryB (1 - 0) = 3) ∧
    (slotIn entryA 1 = some 0 ∧ (slotVer entryA 0).epoch = mtEpoch (5 * 2 ^ 32) ∧ slotState entryA (1 - 0) ≠ 3) := by
  decide +kernel

/-- A put that waits for its row, one that is swapped, and one of another module that is swapped. -/
def put1 : PutJob := { phase := 1, acked := some true }
def put2 : PutJob := { phase := 2, origin := { coord := 0x100 } }

/-- A registry entry with slot A ACTIVE at epoch 1, of one shard and one row; one with slot A RETIRING. -/
def entryC (st : Nat) : List Byte :=
  overlay (setSlot (zeros 128) 0 st) 0x20 (toLe 2 0 ++ toLe 3 1 ++ toLe 5 1 ++ zeros 2 ++ toLe 4 1 ++ toLe 8 0x400000 ++ toLe 8 0x2000000 ++ toLe 8 0x500000)

/-- A core that holds pages, registry and shard map of table 0. -/
def owning (g : Ge) (st : Nat) : State :=
  let s := withCore { tlb := tlb0, ge := g }
  let d := (((s.dev.setReg (baseTreg 0) 0x100000).setReg (baseCtx 0) (2 ^ 31)).setReg (baseCtx 0 + 4) 0x200000)
  let d := Dev.paPut s.ctl d (whoCore 0 0 0) 0x100000 (entryC st)
  let d := Dev.paPut s.ctl d (whoCore 0 0 0) 0x200000 (toLe 8 0x300001)
  let d := Dev.paPut s.ctl d (whoCore 0 0 0) 0x300000 (toLe 8 15)
  { s with dev := { d with rd := [{ value := 2 ^ 62 }], retiring := [{ epoch := 1 }] } }

theorem witness_PutsAtTheHomeOwner :
    (let s := withGe { puts := [put1] }
     (s.dev.ge 0).inbox = [] ∧ (s.dev.ge 0).puts = [put1] ∧ put1.phase = 1 ∧ put1.acked = some true) ∧
    (let s := withGe { puts := [put2] }
     (s.dev.ge 0).lists = [] ∧ (s.dev.ge 0).puts = [put2] ∧ put2.phase = 2 ∧ ((s.dev.putEnd s.ctl 0 put2 put2.old 0 false).ge 0).inbox = []) ∧
    (let s := withMsg (.put put1) {}
     takeMsg (fun m => match m with | .put _ => true | _ => false) (s.dev.ge 0).inbox = some ({ m := .put put1 }, []) ∧
     ((s.dev.updGe 0 (fun g => { g with inbox := [] })).unusedAs s.ctl put1.as none {}).ownerCheck s.ctl 0 put1.as none = none) ∧
    (let s := owning { inbox := [{ m := .rowData {} 0 0 1 0 0 (zeros 16) }] } 2
     takeMsg (fun m => match m with | .rowData .. => true | _ => false) (s.dev.ge 0).inbox = some ({ m := .rowData {} 0 0 1 0 0 (zeros 16) }, []) ∧
     s.dev.ownerCheck s.ctl 0 0 none = none ∧ (s.dev.rowDataWrite s.ctl 0 0 0 1 0 0 (zeros 16)).2 = some true) ∧
    (let s := owning {} 3
     let d := s.dev.writeRefs s.ctl
     let x := d.geEntry s.ctl (d.keeper s.ctl 0) 0 0
     d.treg 0 ≠ 0 ∧ x.2 = some (entryC 3, false) ∧ x.1.retiringOf s.ctl 0 0 (entryC 3) = some { epoch := 1 } ∧ x.1.mayRetire { epoch := 1 } = true) := by
  decide +kernel

theorem witness_DirectoryAndRegistryWrites :
    (Grants demo 0 baseRD 4 ∧ (demo.ctl.asFacet (demo.dev.fld (baseRD + 4) 9 0)).isSome = true ∧
      ((withReg (baseRD + 4) 9).ctl.asFacet ((withReg (baseRD + 4) 9).dev.fld (baseRD + 4) 9 0)).isSome = false) ∧ (Grants demo 0 (baseTreg (3 : Fin 1024) + 4) 4 ∧ demo.dev.registryUsed demo.ctl (3 : Fin 1024) = false ∧ demo.dev.launches = []) ∧
    (let s := owning {} 2
     Grants s 0 (baseTreg (0 : Fin 1024) + 0) 4 ∧ s.dev.registryUsed s.ctl (0 : Fin 1024) = true) ∧
    (Grants demo 0 (baseGE (0 : Fin 128) + 4 * (3 : Fin 4)) 4 ∧ (demo.dev.ge 0).baskets = [] ∧ (demo.dev.ge 0).lists = [] ∧
     (bits (1535 + 2 ^ 16) 10 0 + bits (1535 + 2 ^ 16) 26 16) * 4096 ≤ storeBytes ∧ storeBytes < (bits (1535 + 2 ^ 17) 10 0 + bits (1535 + 2 ^ 17) 26 16) * 4096) ∧
    (Grants demo 0 (baseGreg (3 : Fin 1024) + 0) 4 ∧ (demo.dev.registryHeld demo.ctl (3 : Fin 1024)).2 = false ∧
     (writeFields (demo.dev.registryHeld demo.ctl (3 : Fin 1024)).1 (baseGreg (3 : Fin 1024) + 0) 0).greg (3 : Fin 1024) = 0) := by
  decide +kernel

/-! ### Matrix and vector engines, Expander -/

/-- The bytes of a descriptor of a plain tensor without levels. -/
def descBytes (base fmt rows cols : Nat) : List Byte := toLe 8 base ++ [0, BitVec.ofNat 8 fmt, 0, 0] ++ zeros 4 ++ toLe 4 rows ++ toLe 4 cols ++ zeros 104

/-- A core with three descriptors at 0, 128 and 256. -/
def described (a o w : List Byte) : Core := ((({} : Core).csWrite 0 (marked false a)).csWrite 128 (marked false o)).csWrite 256 (marked false w)

theorem witness_MatrixOpsEnter :
    ∀ o ∈ [0x10, 0x11, 0x12, 0x13, 0x14], Ready (atOp o) 0 o .me task0 o := by
  decide +kernel

theorem witness_WeightSets : ∀ o ∈ [0x11, 0x13], ∀ l ∈ [7, 8],
    let d := (withCore { me := { queue := [op0 o], level := l } }).dev
    (d.me 0).queue = op0 o :: [] ∧ (d.me 0).reload = none ∧ (d.me 0).started = [] ∧ (d.me 0).groups = [] ∧ openRun [] [op0 o] = none ∧
    (([op0 o].takeWhile (fun x => !isSwap x && !isInval x)).find? isLoad = none) ∧ opClean (op0 o).op [] = true ∧ isSwap (op0 o) = (o == 0x11) ∧
    isInval (op0 o) = (o == 0x13) ∧ (d.me 0).level = l := by
  decide +kernel

/-- An ME_MM without rows, with its descriptors and a sub-array. -/
def mm0 : QOp := op0 (0x12 + 0x11 * 2 ^ 16 + 128 * 2 ^ 96)
def emptyTile : State := withCore { described (descBytes 0x1000 1 1 1) (descBytes 0x2000 1 1 1) [] with
  me := { queue := [mm0], active := { shape := some 0, subs := [(0, some { k := 1, n := 1, wfmt := 1 })] } } }

/-- Two ME_MM of one group with a row each, and a core in which that group may issue. -/
def mm1 : List QOp := [op0 (0x12 + 0x400 + 0x11 * 2 ^ 16 + 2 ^ 32 + 128 * 2 ^ 96), { op0 (0x12 + 0x11 * 2 ^ 16 + 2 ^ 24 + 2 ^ 32 + 128 * 2 ^ 96) with id := 1 }]
def groupReady : State := withCore { described (descBytes 0x1000 1 1 1) (descBytes 0x2000 1 1 1) [] with
  me := { queue := mm1, active := { shape := some 1, subs := [(0, some { k := 1, n := 1, wfmt := 1 }), (1, some { k := 1, n := 1, wfmt := 1 })] }, level := 8 } }

/-- A member with two rows, of which one has issued and none is written. -/
def member0 : MeMember := { op := op0 (0x12 + 2 * 2 ^ 32), out := 1 }

theorem witness_MatrixEngineEvents :
    (((withCore { me := { started := [{}] } }).dev.core 0).me.started = {} :: [] ∧ ({} : MeLoadRun).desc.coding = 0) ∧
    headGroup ((demo.dev.meDrain demo.ctl 0 64).me 0).queue = none ∧
    (let d := emptyTile.dev.meDrain emptyTile.ctl 0 64
     headGroup (d.me 0).queue = some [mm0] ∧ opn mm0.op 4 2 = 0 ∧ ((d.core 0).mmDescs mm0.op).isLeft = true ∧ (d.me 0).issuing = false ∧ d.withheld 0 mm0 = false) ∧
    (let s := groupReady
     let m := s.dev.me 0
     m.queue = mm1 ∧ headGroup mm1 = some mm1 ∧ openRun [] mm1 = none ∧ groupFault m mm1 = none ∧ m.reload = none ∧ m.started = [] ∧ m.groups = [] ∧ m.level = 8 ∧
     s.dev.permits (s.ctl.facetOfCore 0) = true ∧ (∀ q ∈ mm1, s.dev.withheld 0 q = false) ∧
     (∀ q ∈ mm1, ((s.dev.core 0).mmDescs q.op).isLeft = true ∧ opn q.op 4 2 ≠ 0)) ∧
    (let s := withCore { me := { groups := [[member0]] } }
     (s.dev.me 0).groups = [member0] :: [] ∧ member0.row < member0.out ∧ member0.row + 1 < opn member0.op.op 4 2) ∧
    ((demo.dev.me 0).queue = [] ∧ (demo.dev.me 0).groups = [] ∧ (demo.dev.me 0).level = 0 ∧ (demo.dev.me 0).held < 16) ∧
    (let s := withCore { me := { level := 8, gap := 64 } }
     (s.dev.me 0).queue = [] ∧ (s.dev.me 0).groups = [] ∧ (s.dev.me 0).level = 8 ∧ 64 ≤ (s.dev.me 0).gap) := by
  decide +kernel

theorem witness_LevelRamp :
    (∃ (m : Me) (r : Bool), m.level ≤ 8 ∧ m.level < (m.nextLevel r).1) ∧ (∃ (m : Me) (r : Bool), m.level = 8 ∧ (m.nextLevel r).1 < 8) ∧ (∃ m : Me, m.level < 8 ∧ m.held < 16) :=
  ⟨⟨{ level := 7, held := 16 }, true, by decide, by decide⟩, ⟨{ level := 8, gap := 64 }, false, rfl, by decide⟩, ⟨{}, by decide, by decide⟩⟩

/-- An MV_MM of one row, 32 positions and one column. -/
def mv0 : QOp := op0 (0x20 + 0x02 * 2 ^ 16 + 0x17 * 2 ^ 24 + 1 * 2 ^ 32 + 1 * 2 ^ 48 + 128 * 2 ^ 96 + 256 * 2 ^ 160)
def mvCore : Core := described (descBytes 0x1000 2 (mvRows mv0.op) 32) (descBytes 0x2000 0 (mvRows mv0.op) 1) (descBytes 0x3000 7 32 1)
/-- The same under way, with a number of chunks built and looked up; the same with its lookups done. -/
def mvAt (n : Nat) : MvRun := { op := mv0, wdesc := { space := 0, fmtCode := 7, rows := 32, cols := 1 }, built := n, looked := n }
def mvRunning (n : Nat) : State := withCore { mvCore with mv := { run := some (mvAt n) } }
def mvDraining : State := withCore { mvCore with mv := { drain := some (mvAt 1) } }

theorem witness_MatrixVectorOps :
    (Ready (atOp 0x20) 0 0x20 .mv task0 0x20 ∧ Ready (atOp 0x21) 0 0x21 .mv task0 0x21) ∧
    (let s := withCore { mvCore with mv := { queue := [mv0] } }
     (s.dev.core 0).mv.queue = mv0 :: [] ∧ (s.dev.core 0).mv.run = none ∧ mv0.op % 256 = 0x20 ∧ s.dev.permits (s.ctl.facetOfCore 0) = true ∧ s.dev.withheld 0 mv0 = false ∧ mvFault mv0.op = 0 ∧
     (∃ a o w, (s.dev.core 0).mvDescs mv0.op = .inl (a, o, w) ∧ w.coding = 0) ∧ mvRows mv0.op ≠ 0 ∧ opt mv0.op 1 1 = false) ∧
    (((mvRunning 0).dev.core 0).mv.run = some (mvAt 0) ∧ (mvAt 0).built < mvChunks (mvAt 0).op.op ∧ (mvAt 0).banks = [] ∧ (mvAt 0).looked = (mvAt 0).built ∧
      ((mvRunning 0).dev.core 0).mv.drain = none) ∧
    ((mvDraining.dev.core 0).mv.run = none ∧ (mvDraining.dev.core 0).mv.drain = some (mvAt 1)) := by
  refine ⟨by decide +kernel, ⟨by decide +kernel, by decide +kernel, by decide +kernel, by decide +kernel, by decide +kernel, by decide +kernel, ⟨_, _, _, rfl, by decide +kernel⟩,
    by decide +kernel, by decide +kernel⟩, by decide +kernel, by decide +kernel⟩

theorem witness_VectorOpsComplete : ∀ o ∈ [0x30, 0x31, 0x32, 0x33, 0x34], ∀ on ∈ [true, false],
    let s := withCore { ve := { queue := [op0 o], running := on } }
    (s.dev.core 0).ve.queue = op0 o :: [] ∧ (s.dev.core 0).ve.running = on ∧ (op0 o).op % 256 = o ∧
    ({ s.dev with gov := [{ effective := 16 }] }).permits (s.ctl.facetOfCore 0) = false := by
  decide +kernel

/-- A decode table image of two symbols of one bit each. -/
def tableImage : List Byte := toLe 4 0x42545847 ++ toLe 2 1 ++ [1] ++ zeros 9 ++ [0x11] ++ zeros 239
/-- An XP_TLOAD of slot 15 at the program counter, its image at 0. -/
def loadingTable : State :=
  { demo with dev := (atOp (0x40 + 15 * 2 ^ 8)).dev.updCore 0 (fun k => k.csWrite 0 (marked false tableImage)) }
/-- A stored stream in Core Store: the index at 64, its one block's header at 128; and the Expander before and after it reads that block for the ME. -/
def hdr0 : StreamHdr := { wfmt := 1, blocks := 1, elementBytes := 2, index := 64 }
def streaming : XpSess := { desc := { fmtCode := 1 }, hdr := some hdr0, todo := [0] }
def block0 : XpBlock := { coding := 2, span := 2, payload := [7, 8], at_ := 128 }
def expanding (x : XpSess) (cur : Option Bool) : State := withCore { (({} : Core).csWrite 64 (marked false (toLe 8 (2 * 65536)))).csWrite 128
    (marked false ([2, 0] ++ zeros 6 ++ List.replicate 4 0xFF ++ toLe 2 2 ++ toLe 2 2 ++ zeros 16 ++ [7, 8])) with xp := { me := some x, cur := cur } }

theorem witness_ExpanderOps :
    (Ready (atOp 0x41) 0 0x41 .xp task0 0x41 ∧ ((atOp 0x41).dev.core 0).xp.queue = [] ∧ opClean 0x41 [(1, 3, 0)] = true ∧
      (((atOp 0x41).dev.core 0).slot (opf 0x41 1 3 0)).refs = 0) ∧
    (let op := 0x40 + 15 * 2 ^ 8
     let k := loadingTable.dev.core 0
     Ready loadingTable 0 0x40 .xp task0 op ∧ k.xp.queue = [] ∧ opClean op [(1, 4, 0), (4, 22, 0), (8, 16, 0)] = true ∧ offOk (opn op 4 4) 256 = true ∧
     opt op 1 4 = false ∧ opn op 8 4 = 0 ∧ (k.slot (opf op 1 3 0)).refs = 0 ∧ anyPoison (k.csRead (opn op 4 4) 256) = false ∧
     tableOk (plain (k.csRead (opn op 4 4) 256)) = true) ∧
    (let k := (expanding streaming none).dev.core 0
     let e := k.csRead (hdr0.index + 8 * 0) 8
     let a := hdr0.origin + 64 * (leNat (plain e) / 65536)
     let x := k.csRead a 32
     k.sess .me = some streaming ∧ streaming.hdr = some hdr0 ∧ streaming.baseHdr = none ∧ streaming.todo = 0 :: [] ∧ streaming.ahead.length < 4 ∧
     streaming.desc.space = 0 ∧ hdr0.index + 8 * 0 + 8 ≤ storeBytes ∧ anyPoison e = false ∧ le (plain e) 0 2 = 0 ∧
     a + 32 + (le (plain x) 0xC 2 + le (plain x) 0x10 2) ≤ storeBytes ∧ anyPoison x = false ∧ blockBad hdr0 streaming.desc.fmt 0 (plain x) = false ∧
     k.mismatch (plain x) = false) ∧
    (let s := expanding { streaming with todo := [], ahead := [block0] } (some true)
     (s.dev.core 0).xp.cur = some (decide (XpClient.me = .me)) ∧ (s.dev.core 0).sess .me = some { streaming with todo := [], ahead := [block0] } ∧
     block0.poison = false ∧ (s.dev.core 0).rebuild block0 = .inl ([7, 8], [])) := by
  decide +kernel

end Sys2Proof.Tests
end

