-- ==== Sys2Proof/Tests/WitnessC.lean ====
section
/-! SUPPORT. Witnesses: states and operands that meet the hypotheses of the statements on memory, translation, channels and host commands. -/

namespace Sys2Proof.Tests

set_option Elab.async false

open Sys2Proof Sys2Proof.Machine Sys2Proof.Claims

set_option maxRecDepth 20000

/-! ### Memory system and translation -/

theorem pair_of {α β : Type} (x : α × β) : ∃ a b, x = (a, b) := ⟨x.1, x.2, rfl⟩
theorem four_of {α β γ δ : Type} (x : α × β × γ × δ) : ∃ a b c d, x = (a, b, c, d) := ⟨x.1, x.2.1, x.2.2.1, x.2.2.2, rfl⟩

/-- demo with a request in channel 0's point queue. -/
def requested : State := withDev fun d => d.setMchan 0 { state := .ready, queue := [{}] }
/-- demo with bit 0 of the flush and unkeep registers of slice 0 set, and scrub enabled on channel 0. -/
def flushing : State := withDev fun d => ((d.setReg (baseMs 0 + 4) 1).setReg (baseMs 0 + 8) 1).setReg (baseMc 0 + 0x14) (2 ^ 16)
/-- demo with channel 0 DOWN. -/
def untrained : State := withDev fun d => d.setMchan 0 {}

theorem witness_MemorySystemCommands :
    (demo.dev.permits 0 = true ∧ ∃ d b p e, Dev.sliceRead demo.ctl demo.dev (anyWho demo.ctl 0) 0 0 false .stream true = (d, b, p, e)) ∧
    ((anyWho demo.ctl 0).facet = 0 ∧ demo.ctl.inHbm 0 (2 ^ 45 / 64 * 64) 64 = false) ∧
    (∃ d e, Dev.sliceWrite demo.ctl demo.dev (anyWho demo.ctl 0) 0 ((padTo 64 []).map some) false 0 false true = (d, e)) ∧
    (demo.ctl.inHbm 0 (128 / 64 * 64) 64 = true ∧ demo.dev.findLine (demo.ctl.place 0 (128 / 64 * 64)).1 (demo.ctl.place 0 (128 / 64 * 64)).2 = none ∧
     (demo.dev.mchan (demo.ctl.place 0 (128 / 64 * 64)).1).queue.length < 64 ∧ (demo.dev.mchan (demo.ctl.place 0 (128 / 64 * 64)).1).waiting = []) ∧
    (nextPoint (requested.dev.mchan 0).queue = some {} ∧
     ∀ x ∈ [{}, { cls := 3 }, { snap := some (zeros 64, false) }], let s := withDev fun d => d.setMchan 0 { state := .ready, queue := [x] }
      nextPoint (s.dev.mchan 0).queue = some x ∧ x.merged = false ∧ (({ s.dev.mchan 0 with queue := [] }).accept).state = .ready ∧
      (((s.dev.setMchan 0 { s.dev.mchan 0 with queue := [] }).countRead 0 .point).mchan 0).state = .ready) ∧
    (Grants demo 0 (baseMs 0 + 4) 4 ∧ Grants demo 0 (baseMs 15 + 8) 4) ∧
    (bit (flushing.dev.reg (baseMs 0 + 4)) 0 = true ∧ bit (flushing.dev.reg (baseMs 0 + 8)) 0 = true) ∧
    ((flushing.dev.mchan 0).state = .ready ∧ flushing.dev.flag (baseMc 0 + 0x14) 16 = true) ∧
    ((untrained.dev.mchan 0).state = .down ∧ untrained.ctl.map.isSome = true ∧ (chanOwner (nth 0x80 untrained.ctl.tm.chan 0)).isEmpty = false) := by
  refine ⟨⟨by decide +kernel, four_of _⟩, by decide +kernel, pair_of _, by decide +kernel, by decide +kernel, by decide +kernel, by decide +kernel, by decide +kernel,
    by decide +kernel⟩

theorem witness_LeafPermissions : bit 3 2 = false ∧ bit 3 3 = false ∧ bit 3 0 = true ∧ bit 3 1 = true ∧ badEntry demo.ctl 0 1 3 = false := by decide +kernel

/-- demo with the context of address space 0 enabled and a root table at 16 KiB that holds an entry. -/
def paged (e : Nat) : State :=
  let s := withDev fun d => (d.setReg (baseCtx 0) (2 ^ 31)).setReg (baseCtx 0 + 4) 0
  { s with dev := { Dev.paPut s.ctl s.dev (whoCore 0 0 0) 0x4000 (toLe 8 e) with xl := { walks := [{ level := 1, table := 0x4000 }] } } }
/-- demo with a DMA_COPY from the second page of address space 0 at the head of core 0's queue. -/
def scouting : State := withCore { dma := { queue := [op0 (0x60 + 2 ^ 8 + 64 * 2 ^ 32 + 0x10000 * 2 ^ 64)] } }
/-- demo with a fault entry. -/
def faulted : State := withDev fun d => { d with xl := { d.xl with faults := [(255, some {})] } }
/-- demo with an invalidation in BLOCK, or after it; of a register write, or of a command. -/
def invalidating (b : Bool) (o : Option Owner) : State := withDev fun d => { d with xl := { invs := [{ block := b, cmd := o }] } }

theorem witness_TranslationCommands :
    (demo.dev.stopped 0 = false ∧ tlbFind (demo.dev.core 0).tlb 0 0 = none ∧ demo.dev.xl.faults = [] ∧ demo.dev.xl.walks = [] ∧ demo.dev.ctxOn 0 = true) ∧
    (let x := scouting.dev.scoutTiles scouting.ctl 0 .dma
     x.2.flatMap (fun t => t.pages.map (fun p => (t.as, p))) = [(0, 1)] ∧ x.1.scoutMay 0 = true ∧ x.1.scoutWants 0 TrEngine.dma.num 0 1 = true ∧ x.1.xl.walks = [] ∧ x.1.xl.scouted = []) ∧
    (let l := (List.range 128).map (fun p => ({ page := p, scout := true } : TlbEntry))
     (withCore { tlb := l }).dev.scoutMay 0 = false) ∧
    ({} : Dev).xl.tableWait = [] ∧
    (((paged 0x800001).dev.xl.walks.drop 0).head? = some { level := 1, table := 0x4000 } ∧ (paged 0).dev.ctxOn 0 = true ∧
     (paged 0).dev.permits (((paged 0).ctl.asFacet 0).getD 0) = true ∧
     ((paged 0x800001).dev.walkLevel (paged 0x800001).ctl (whoCore 0 0 (((paged 0x800001).ctl.asFacet 0).getD 0)) 1 0x4000 0).2 = .next 0x800000 ∧
     ((paged 0xF).dev.walkLevel (paged 0xF).ctl (whoCore 0 0 (((paged 0xF).ctl.asFacet 0).getD 0)) 1 0x4000 0).2 = .leaf 0xF ∧
     ((paged 0xE).dev.walkLevel (paged 0xE).ctl (whoCore 0 0 (((paged 0xE).ctl.asFacet 0).getD 0)) 1 0x4000 0).2 = .fault 1 0xE) ∧
    (Grants faulted 0 (baseTR + 0x400) 4 ∧ Sparse.get none faulted.dev.xl.faults 255 = some {}) ∧
    (Grants demo 0 (baseTR + 0x110) 4 ∧ demo.dev.invRefusal demo.ctl { kind := 1 } = none ∧ demo.dev.invRefusal demo.ctl { kind := 0 } = some 3) ∧
    ((invalidating true none).dev.xl.invs = [{ block := true }] ∧
     (invalidating false none).dev.xl.invs = [{ block := false }] ∧ (invalidating false none).dev.hl.ext.any (fun e => ([] : NatSet).contains e.id && (e.write || e.answer.isNone)) = false ∧
     (invalidating false (some {})).dev.xl.invs = [{ block := false, cmd := some {} }]) ∧
    Grants demo 0 (baseTC 127 + 8) 4 ∧ Grants demo 0 (baseTR + 0x20C + 0x20 * 15) 4 := by
  decide +kernel

theorem witness_WindowsAndTheirTables :
    ((demo.ctl.asFacet 3).isSome = true ∧ 2 ^ 46 ≤ 2 ^ 47 - 64 ∧ 2 ^ 47 - 64 + 64 ≤ 2 ^ 47) ∧ (2 ^ 47 ≤ 2 ^ 48 - 64 ∧ 2 ^ 48 - 64 + 64 ≤ 2 ^ 48) ∧
    (let s := withDev fun d => { d with inbox := [(0, 0, .read 0 0 0 64 0)] }
     s.dev.inbox = [(0, 0, .read 0 0 0 64 0)] ∧ (RemoteBody.read 0 0 0 64 0).isRequest = true) ∧
    (∀ k ∈ [0, 4095], demo.dev.flag (baseImport k) 31 = false) ∧
    (∀ b ∈ [baseCtx 1, baseTR + 0x20000, baseImport 4095], ∀ n ∈ [0, 1], Grants demo 0 (b + 4 * n) 4 ∧ demo.dev.flag b 31 = false ∧ Grants (withReg b (2 ^ 31)) 0 (b + 4 * n) 4 ∧
      (withReg b (2 ^ 31)).dev.flag b 31 = true) ∧
    Grants demo 0 (baseCtx 3 + 4 * 4) 4 ∧ Grants demo 0 (baseTR + 0x20000 + 0x10 * 1023 + 4 * 3) 4 := by
  decide +kernel

/-! ### Commands, completions, transfers -/

/-- demo without replay, and with a command of channel 0 of the given bytes. -/
def withCmd (k : Cmd) : State := withDev fun d => { d with replay := [], chans := [(0, { cmds := [k] })] }
/-- The bytes of a command: its type and flags, then its operands from byte 16. -/
def raw (o flags : Nat) (b : List Byte) : List Byte := padTo 64 (zeros 2 ++ [BitVec.ofNat 8 o, BitVec.ofNat 8 flags] ++ zeros 12 ++ b)
/-- The same, accepted or started. -/
def accepted (o : Nat) (b : List Byte) : Cmd := { raw := raw o 1 b }
def begun (o : Nat) (b : List Byte) : Cmd := { raw := raw o 1 b, phase := .started }

theorem noReplay (d : Dev) (h : d.replay = []) (f : Nat) : (d.replayOf f).state ≠ 1 := by
  simp [Dev.replayOf, h, nth]
theorem noTasks (d : Dev) (h : d.cores = []) (n : Nat) : (d.core n).saved = [] ∧ (d.seq n).task = none := by
  simp [Dev.core, Dev.seq, h, Sparse.get]

/-- demo with channel 0 enabled, its rings at 1 MiB and 2 MiB, client 0 and address space 0, and as channel 0 what is given. -/
def enabled (h : Channel) : State := withDev fun d =>
  { (((d.setReg (baseCh 0) (2 ^ 31)).setReg (baseCh 0 + 4) 0x100000).setReg (baseCh 0 + 0xC) 0x200000) with replay := [], chans := [(0, h)] }
/-- demo with device queue 1 enabled. -/
def queueEnabled : State := withReg (baseQueue 1) (2 ^ 31)

theorem witness_ChannelCommands :
    (let s := withDev fun d => (d.setReg (baseCh 0 + 4) 0x100000).setReg (baseCh 0 + 0xC) 0x200000
     Grants s 0 (baseCh 0 + 4 * 0) 4 ∧ s.dev.chOn 0 = false ∧ bit (2 ^ 31) 31 = true ∧
     (writeFields s.dev (baseCh 0 + 4 * 0) (2 ^ 31)).enableRefused s.ctl 0 = none ∧ (writeFields s.dev (baseCh 0 + 4 * 0) (2 ^ 31 + 1023)).enableRefused s.ctl 0 = some 5) ∧
    (let s := enabled {}
     Grants s 0 (baseCh 0 + 4 * 4) 4 ∧ s.dev.chOn 0 = true ∧ (s.dev.chan 0).held = false ∧ Grants s 0 (baseCh 0 + 0x14) 4 ∧
     doorbellIndex (s.dev.chan 0).cons (s.dev.ringSlots 0) 1 1 = some 1 ∧ doorbellIndex (s.dev.chan 0).cons (s.dev.ringSlots 0) 33 1 = none) ∧
    (∀ f, ((enabled {}).dev.replayOf f).state ≠ 1) ∧
    (Grants demo 0 (baseCh 0 + 0x14) 4 ∧ demo.dev.chOn 0 = false ∧ Grants demo 0 (baseCh 0 + 0x1C) 4) ∧
    (∀ n, ((((enabled {}).dev.updChan 0 (fun h => { h with aborting := true })).abortReady 0).core n).saved = [] ∧
      ((((enabled {}).dev.updChan 0 (fun h => { h with aborting := true })).abortReady 0).seq n).task = none) ∧
    (Grants demo 0 (baseQueue 1 + 4 * 2) 4 ∧ demo.dev.queueOn 1 = false ∧ Grants queueEnabled 0 (baseQueue 1 + 4 * 2) 4 ∧ queueEnabled.dev.queueOn 1 = true) ∧
    (demo.ctl.chFacet 0 = some 0 ∧ (demo.dev.replayOf 0).state ≠ 1 ∧ (enabled { prod := 1 }).dev.mayRead 0 = true ∧
      (enabled { prod := 1, retrying := true }).dev.mayRead 0 = true) ∧
    (let s := enabled { cmds := [accepted 9 []] }
     (s.dev.chan 0).nextCmd = some (accepted 9 []) ∧ (s.dev.chan 0).launchWaits = false ∧ s.dev.startsOpen s.ctl 0 = true ∧
     (s.dev.chan 0).serialHolds (accepted 9 []) = false ∧ s.dev.replayLets s.ctl 0 = true ∧ (accepted 9 []).bad = none ∧ byteAt (accepted 9 []).raw 2 ≠ 1) ∧
    (let k := { accepted 9 [] with bad := some {} }
     let s := enabled { cmds := [k] }
     (s.dev.chan 0).nextCmd = some k ∧ (s.dev.chan 0).launchWaits = false ∧ s.dev.startsOpen s.ctl 0 = true ∧
     (s.dev.chan 0).serialHolds k = false ∧ s.dev.replayLets s.ctl 0 = true ∧ k.bad = some {}) ∧
    (let k := { accepted 9 [] with phase := .done }
     let s := enabled { cmds := [k], fin := [0] }
     (s.dev.chan 0).record = none ∧ (s.dev.chan 0).fin = 0 :: [] ∧ s.dev.cmd? 0 0 = some k ∧ bit (byteAt k.raw 3) 2 = false ∧ bit (byteAt k.raw 3) 0 = true ∧ k.lostRec = false) ∧
    (let s := enabled { record := some {}, readback := true }
     (s.dev.chan 0).record = some {} ∧ (s.dev.chan 0).readback = true ∧ s.dev.attached = true) := by
  refine ⟨by decide +kernel, by decide +kernel, fun f => noReplay _ (by decide +kernel) f, by decide +kernel, fun n => noTasks _ (by decide +kernel) n,
    by decide +kernel, by decide +kernel, by decide +kernel, by decide +kernel, by decide +kernel, by decide +kernel⟩

/-- An image of one task with its program at 0. -/
def graphImage : List Byte := padTo 160 (toLe 4 0x48505247 ++ toLe 2 1 ++ toLe 2 0 ++ toLe 4 160 ++ zeros 116 ++ toLe 8 0 ++ [0xFF])
/-- demo with a command of channel 0, pages in core 0, a DMA op at 16 KiB, the graph registry of address space 0 at 64 KiB with graph 0 of revision 1, and its image. -/
def launching (k : Cmd) : State :=
  let s := withCmd k
  let d := { s.dev with cores := [(0, { tlb := tlb0 })] }.setReg (baseGreg 0) 0x10000
  let d := Dev.paPut s.ctl d (whoCore 0 0 0) 0x4000 (toLe 32 0x60)
  let d := Dev.paPut s.ctl d (whoCore 0 0 0) 0x10000 (toLe 4 1 ++ zeros 12 ++ toLe 4 1 ++ toLe 4 0 ++ toLe 8 0x20000)
  { s with dev := Dev.paPut s.ctl d (whoCore 0 0 0) 0x20000 graphImage }

/-- Operands of SYNC, BATCH, INVALIDATE, GRAPH_STORE, GRAPH_PATCH. -/
def syncArgs (m v : Nat) : List Byte := toLe 4 m ++ toLe 4 0 ++ toLe 8 v
def batchCmd : Cmd := begun 3 ([0xFF, 0] ++ toLe 2 1 ++ toLe 4 0 ++ toLe 8 0x4000)
def storeCmd : Cmd := begun 6 (toLe 8 0 ++ toLe 8 0x20000)
def patchCmd (inPlace : Nat) : Cmd := begun 7 ([0, BitVec.ofNat 8 inPlace] ++ toLe 2 0 ++ toLe 4 1 ++ toLe 8 0x30000)

theorem witness_HostCommands_simple :
    Started (withCmd (begun 9 [])) 0 9 (begun 9 []) ∧
    (∀ m ∈ [0, 1, 2, 3], Started (withCmd (begun 4 (syncArgs m 0))) 0 4 (begun 4 (syncArgs m 0)) ∧ byteAt (begun 4 (syncArgs m 0)).raw 0x10 = m) ∧
    ((demo.dev.syncObj 0).poison = false ∧ waitMet false 0 (demo.dev.syncObj 0).value = true ∧ waitMet false 5 (demo.dev.syncObj 0).value = false ∧
      le (begun 4 (syncArgs 2 5)).raw 0x18 8 = 5) ∧
    (({ demo.dev with sync := [(0, { poison := true })] }).syncObj 0).poison = true ∧
    (let k := begun 2 [0xFF]
     Started (withCmd k) 0 2 k ∧ (withCmd k).dev.copyCore (withCmd k).ctl 0 k 0 = some 0) ∧
    (Started (withCmd (begun 5 [1])) 0 5 (begun 5 [1]) ∧ (withCmd (begun 5 [1])).dev.xl.invs.length < 16) := by
  decide +kernel

theorem witness_HostCommands_batch :
    let s := launching batchCmd
    let x := s.dev.resolve s.ctl 0 0 (s.dev.chAs 0) 0x4000 32 false
    let y := x.1.fetchPieces s.ctl (whoCore 0 0 (s.ctl.facetOfCore 0)) 0 0 (s.dev.chAs 0) none 0 (x.2.getD [])
    (s.dev.chan 0).cmds.find? (fun k => (k.phase == .started || k.phase == .running) && byteAt k.raw 2 == 3) = some batchCmd ∧
    (batchCmd.core = 0xFF ∧ s.dev.copyCore s.ctl 0 batchCmd 0 = some 0 ∧ batchCmd.next = 0 ∧ batchCmd.status = 0 ∧ le batchCmd.raw 0x12 2 = 1 ∧ le batchCmd.raw 0x18 8 = 0x4000 ∧
     (s.dev.core 0).dma.queue.length = 0) ∧
    x.2.isSome = true ∧ y.2.isSome = true ∧ (batchOps 0x4000 [(y.2.getD []).take 32]).length = 1 ∧ x.1.chAs 0 = s.dev.chAs 0 ∧
    ((y.1.doneOutside 0 0).updCmd 0 0 (fun k => { k with core := 0, phase := .running })).chAs 0 = s.dev.chAs 0 := by
  decide +kernel

theorem witness_HostCommands_graphs :
    (let s := launching (begun 8 [])
     Started s 0 8 (begun 8 []) ∧ s.dev.greg (s.dev.chAs 0) ≠ 0 ∧ (s.dev.graphEntry s.ctl (whoChan 0 0) (s.dev.chAs 0) 0).2.2.2 = false) ∧
    (let s := launching storeCmd
     let g := s.dev.graphEntry s.ctl (whoChan 0 0) (s.dev.chAs 0) 0
     Started s 0 6 storeCmd ∧ g.2.2.2 = false ∧ (g.1.readImage s.ctl (whoChan 0 0) 0x20000).2 = .ok graphImage ∧ imageOk s.ctl 0 graphImage = true ∧
     (g.2.2.1.store (le storeCmd.raw 0x18 8)).isSome = true) ∧
    (∀ p ∈ [0, 1], let s := launching (patchCmd p)
     let g := s.dev.graphEntry s.ctl (whoChan 0 0) (s.dev.chAs 0) 0
     Started s 0 7 (patchCmd p) ∧ g.2.2.2 = false ∧ g.2.2.1.find (le (patchCmd p).raw 0x14 4) = some 0 ∧ (nth {} g.2.2.1.revs 0).live = 0 ∧
     (g.1.readImage s.ctl (whoChan 0 0) (nth {} g.2.2.1.revs 0).image).2 = .ok graphImage ∧ applyPatch 1024 (patchCmd p).inlined graphImage = some graphImage ∧
     imageOk s.ctl 0 graphImage = true ∧ bit (byteAt (patchCmd p).raw 0x11) 0 = (p == 1) ∧ s.ctl.inHbm 0 (le (patchCmd p).raw 0x18 8) (le graphImage 8 4) = true ∧
     (g.2.2.1.store (le (patchCmd p).raw 0x18 8)).isSome = true) := by
  decide +kernel

/-- A LAUNCH whose graph is named, and one that runs and has no task left. -/
def launched : Cmd := { begun 1 [] with launch := some {} }
def ending : Cmd := { raw := raw 1 0 [], phase := .running, launch := some { begun := true } }

theorem witness_HostCommands_launch :
    (let s := launching launched
     Started s 0 1 launched ∧ (match (s.dev.launchCheck s.ctl 0 launched).2 with | .go _ _ _ _ none => true | _ => false) = true ∧ launched.launch.isSome = true ∧
     s.dev.startsOpen s.ctl 0 = true ∧ (s.dev.chan 0).serialHolds launched = false) ∧
    (let s := launching ending
     (s.dev.chan 0).cmds.find? (fun k => k.phase == .running && (k.launch.map (fun l => l.begun && (l.live = 0 && l.roots.isEmpty))).getD false) = some ending ∧
     (s.dev.endLaunch s.ctl 0 0).replay = []) := by
  decide +kernel

theorem witness_HostCommands_end : ∀ f, (((launching ending).dev.endLaunch (launching ending).ctl 0 0).replayOf f).state ≠ 1 :=
  fun f => noReplay _ witness_HostCommands_launch.2.2 f

/-- The write of a launch's arguments at the head of core 0's DMA queue. -/
def argsOp : QOp := op0 inlineOp
def writingArgs (b : Bool) : State :=
  let s := withCmd launched
  { s with dev := { s.dev with cores := [(0, { dma := { queue := [argsOp], runs := [{ issued := true, aborted := b }] } })] } }

theorem witness_HostCommands_arguments : ∀ b ∈ [false, true],
    let s := writingArgs b
    let m := s.dev.dmaMove s.ctl 0 argsOp
    (s.dev.core 0).dma.queue = argsOp :: [] ∧ s.dev.cmd? argsOp.own.ch argsOp.own.seq = some launched ∧ argsOp.op % 256 = inlineOp ∧ byteAt launched.raw 2 = 1 ∧
    m.dmaComplete 0 argsOp = true ∧ (m.core 0).dmaRun argsOp = some { issued := true, aborted := b } := by
  decide +kernel

/-- demo with bytes of core 5 that come over the relay, and 4 KiB of landing ring. -/
def landing0 : Landing := { src := 5, data := marked false (zeros 64), left := 1 }
def relaying : State :=
  let s := withCore { landing := [landing0] }
  { s with dev := s.dev.setReg (baseSQ 0 + 0x30) (2 ^ 16) }

theorem witness_TransfersComplete :
    (∀ l ∈ [[], [7]], let s := withCore { dma := { queue := [op0 0x60], runs := [{ issued := true, relay := l }] } }
     (s.dev.core 0).dma.queue = op0 0x60 :: [] ∧ (op0 0x60).op % 256 ≠ inlineOp ∧ (s.dev.dmaMove s.ctl 0 (op0 0x60)).dmaComplete 0 (op0 0x60) = (l == []) ∧
     (s.dev.core 0).dmaRun (op0 0x60) = some { issued := true, relay := l }) ∧
    (let op := 0x60 + 64 * 2 ^ 32 + 64 * 2 ^ 128
     let q := op0 op
     let s := withCore { dma := { queue := [q] } }
     (s.dev.core 0).dma.queue = q :: [] ∧ (s.dev.core 0).dmaRun q = none ∧ s.dev.withheld 0 q = false ∧ op % 256 = 0x60 ∧
     opClean op [(1, 3, 0), (4, 31, 0), (8, 63, 0), (16, 63, 0), (24, 16, 0), (27, 7, 7)] = true ∧ opf op 1 3 2 ≠ 3 ∧ opt op 27 7 = false ∧ opt op 1 0 = false ∧ opt op 1 1 = false ∧
     s.dev.hl.ext = [] ∧ opn op 4 4 = 64 ∧ opn op 8 8 + 64 ≤ storeBytes ∧ opn op 16 8 + 64 ≤ storeBytes ∧ anyPoison ((s.dev.core 0).csRead (opn op 8 8) 64) = false) ∧
    ((relaying.dev.core 0).landing = landing0 :: [] ∧ landing0.src ≠ 0 ∧
     0 < min 64 (min (landing0.data.length / 64) ((relaying.dev.ringArea 0).2 / 64 - ((relaying.dev.core 0).arrived - (relaying.dev.core 0).freed)))) := by
  decide +kernel

theorem witness_StoresAreLocal :
    ¬ (hbmKey 383 (64 / 64 * 64) ≤ 0 ∧ 0 < hbmKey 383 (64 / 64 * 64) + 64) ∧ (∃ t, exec (.relayLand 0) relaying = .next t) ∧ (1 : Nat) ≠ (0 : Fin 128).val ∧
    (∀ i < min 64 (min (landing0.data.length / 64) ((relaying.dev.ringArea 0).2 / 64 - ((relaying.dev.core 0).arrived - (relaying.dev.core 0).freed))),
      let lo := (relaying.dev.ringArea 0).1 + (64 * (relaying.dev.core 0).arrived + 64 * i) % (relaying.dev.ringArea 0).2
      ¬ (lo ≤ 64 ∧ 64 < lo + 64)) := by
  refine ⟨by decide +kernel, ⟨_, rfl⟩, by decide, by decide +kernel⟩

theorem witness_ControlLeavesMemory : leavesMemory (.syncObjectWrite 0 0 0) = true ∧ ∃ t, exec (.syncObjectWrite 0 0 0) demo = .next t := ⟨rfl, _, rfl⟩

end Sys2Proof.Tests
end

