-- ==== Sys2Proof/Tests/WitnessD.lean ====
section
/-! SUPPORT. Witnesses: states and operands that meet the hypotheses of the statements on the fabric, the twin, the host link, supply, Ranger, quarantine and the governor. -/

namespace Sys2Proof.Tests

set_option Elab.async false

open Sys2Proof Sys2Proof.Machine Sys2Proof.Claims

set_option maxRecDepth 20000

/-! ### Fabric, twin, host link -/

/-- demo with every port in a state. -/
def ported (x : PortState) : State := withDev fun d => { d with ports := List.replicate 7 { state := x } }
/-- demo with ports UP and a write acknowledgement that has arrived; the access that it answers. -/
def acked : ExtAccess := { host := false, write := true }
def answered (l : List ExtAccess) : State := withDev fun d => { d with inbox := [(0, 0, .writeAck 0)], hl := { d.hl with ext := l } }
/-- The neighbour of demo over M0. -/
def peer0 : Identity := { coord := 0x100, dim := [2, 1, 1], port := 1 }
/-- demo with every port in a state, its lanes trained. -/
def trained (x : PortState) : State := withDev fun d => { d with ports := List.replicate 7 { state := x, trained := true } }
/-- A packet to a coordinate. -/
def packetTo (n : Nat) : Packet := { dst := n, body := .remote (.writeAck 0) }
/-- Packets of demo's own that have filled the buffer of M0 in the next router. -/
def filled : State := withDev fun d => { d with ports := List.replicate 7 { state := .up, flight := [({ body := .remote (.writeAck 0) }, 512), ({ vc := 1, body := .remote (.writeAck 0) }, 512)] } }

theorem witness_FabricEvents :
    (((ported .training).dev.port 0).state = .training ∧ ((ported .training).dev.port 6).trained = false) ∧
    (((trained .training).dev.port 0).state = .training ∧ ((trained .training).dev.port 0).trained = true ∧
      (trained .training).ctl.identityFault (0 : Fin 6) peer0 = 0 ∧ (trained .training).ctl.identityFault (0 : Fin 6) {} = 1) ∧
    ((ported .up).dev.port 0).state = .up ∧ (((ported .down).dev.port 0).state = .down ∧ ((ported .mismatch).dev.port 0).state = .mismatch) ∧
    Grants (ported .down) 0 (basePort 5 + 8) 4 ∧
    ((ported .up).dev.portUp 0 = true ∧ (ported .up).ctl.inTorus (packetTo 0x200).dst = false ∧ (ported .up).ctl.inTorus (packetTo 0).dst = true ∧
      (ported .up).dev.waiting = [] ∧ (ported .up).ctl.nextPort (packetTo 0).dst = none ∧ (ported .up).ctl.inTorus (packetTo 0x100).dst = true ∧ (ported .up).ctl.nextPort (packetTo 0x100).dst = some 0 ∧
      (let d := (ported .up).dev.count (basePort 0 + 0x44) 1
       (packetTo 0x100).flits ≤ d.credits 0 .request ((ported .up).ctl.leaving 0 { inp := 0, since := 0, pkt := packetTo 0x100 } 0).vc) ∧
      (let d := filled.dev.count (basePort 0 + 0x44) 1
       d.credits 0 .request (filled.ctl.leaving 0 { inp := 0, since := 0, pkt := packetTo 0x100 } 0).vc < (packetTo 0x100).flits)) ∧
    ((answered [acked]).dev.inbox = [(0, 0, .writeAck 0)] ∧ (answered [acked]).dev.extOpen 0 false = some acked ∧ acked.write = true ∧
      (answered [acked]).dev.extQuarantined acked = false ∧ (answered []).dev.extOpen 0 false = none) := by
  decide +kernel

/-- demo paired, with facet 0 mirrored and one record to send. -/
def mirroring (cfg : Nat) : State := withDev fun d =>
  { d.setReg (baseMirror 0) cfg with ports := List.replicate 7 { state := .up }, twin := { state := 2, heard := true, mirrors := [{ recs := [{ seq := 1, room := 64 }], next := 2 }] } }

theorem witness_TwinAndMirror :
    (mirroring 0).dev.twin.state = 2 ∧ (mirroring 0).dev.paired = true ∧ (mirroring 0).dev.twin.heard = true ∧
    (((mirroring 0).dev.mirror 0).restartDue = false ∧
      ((mirroring 0).dev.mirror 0).recs.find? (fun r => ((mirroring 0).dev.mirror 0).sent < r.seq) = some { seq := 1, room := 64 }) ∧
    ({} : MirrorPart).facet < 16 ∧ (((mirroring 0).dev.mirror 0).acks 1 = true ∧ ((mirroring 0).dev.twinTakes .control 11).flag (baseMirror 0) 30 = false ∧
      ((mirroring 0).dev.mirror 0).acks 0 = false) ∧
    (Grants (mirroring 0) 0 (baseMirror 0 + 4 * 3) 4 ∧ Grants (mirroring 0) 0 (baseMirror 0 + 4 * 2) 4 ∧ (mirroring (2 ^ 31)).dev.flag (baseMirror 0) 31 = true ∧
      Grants (mirroring (2 ^ 31)) 0 (baseMirror 0 + 4 * 1) 4 ∧ (mirroring 0).dev.flag (baseMirror 0) 31 = false) ∧
    Grants (mirroring 0) 0 (baseMirror 15 + 0x10) 4 := by
  decide +kernel

/-- demo with the host port changed. -/
def withHl (f : HostPort → HostPort) : State := withDev fun d => { d with hl := f d.hl }

theorem witness_HostLinkCommands :
    (let s := withHl fun h => { h with state := 0 }
     s.dev.hl.ext = [] ∧ s.dev.attached = false ∧ s.dev.hl.flush = none ∧ (∀ x ∈ s.dev.chans, x.2.readback = false) ∧ s.dev.hl.eklUp = true ∧ s.dev.ridRefuses 0 = false) ∧
    (Grants demo 0 (baseHL + 8) 4 ∧ demo.dev.hl.state ≠ 1) ∧ ((withHl fun h => { h with state := 1 }).dev.hl.state = 1 ∧ (withHl fun h => { h with state := 1 }).dev.hl.fn = 0) ∧
    Grants demo 0 (baseHL + 0x10) 4 ∧
    (let r := baseHL + 0x100 + 4 * (0 : Fin 16).val
     demo.ctl.tm.access.find? (fun e => e.fn == 0) = some { fn := 0, facets := 1, blocks := 0x7FFF } ∧ (withReg r (2 ^ 31)).dev.flag r 31 = true ∧
     bit ({ fn := 0, facets := 1, blocks := 0x7FFF } : HostAccess).facets ((withReg r (2 ^ 31)).dev.fld r 19 16) = true ∧ demo.ctl.inHbm 0 4096 64 = true ∧
     4096 % 64 + 64 ≤ 64 ∧ demo.dev.flag r 31 = false) ∧
    (let s := withHl fun h => { h with ext := [{ write := true }] }
     s.dev.attached = true ∧ s.dev.hl.flush = none ∧ s.dev.unflushed = true) ∧
    (withHl fun h => { h with flush := some 7 }).dev.hl.flush = some 7 ∧
    (let s := withHl fun h => { h with ext := [{}] }
     s.dev.extOpen 0 true = some {} ∧ ({} : ExtAccess).write = false ∧ s.dev.extQuarantined {} = false) ∧
    (∀ src ∈ [0, 4159],
     let s := withDev fun d => { d.setReg (baseHL + 0x8000 + 4 * src) (2 ^ 31) with hl := { d.hl with pend := [src] } }
     NatSet.has s.dev.hl.pend src = true ∧ s.dev.flag (baseHL + 0x8000 + 4 * src) 31 = true ∧ s.dev.attached = true) := by
  decide +kernel

/-! ### Supply, Ranger, recovery, governor -/

/-- A module whose rails came up as far as rail a. -/
def rising (a : Nat) : State := { held with ctl := { held.ctl with power := { held.ctl.power with rails := List.replicate a true ++ List.replicate (6 - a) false } } }

theorem witness_SupplyAndReset :
    (∀ a ∈ [0, 5], (rising a).ctl.power.rails = List.replicate a true ++ false :: List.replicate (5 - a) false ∧ (rising a).ctl.power.inputOk = true ∧
      (rising a).ctl.power.trip = 0) ∧
    demo.ctl.power.legal ∧ (∀ c ∈ [TripCause.thermal, .overPower, .overCurrent, .railFault 0, .railFault 5], tripCan c demo.ctl.power = true) ∧
    (held.ctl.power.allGood = true ∧ held.ctl.power.trip = 0 ∧ held.ctl.power.tap.holds = false ∧ held.ctl.power.running = false) := by
  refine ⟨by decide, ?_, by decide, by decide⟩
  unfold Power.legal
  decide

theorem witness_SidebandAndTestPort :
    demo.ctl.power.aux = true ∧ Runs demo ∧ demo.ctl.power.rstN = true ∧
    (let s : State := { held with ctl := { held.ctl with power := { held.ctl.power with rstN := false } } }
     s.ctl.power.aux = true ∧ ¬ Runs s ∧ s.ctl.power.rstN = false) := by
  decide

/-- demo in boot ROM, waiting there, or before self test. -/
def booting (x : BootStage) : State := { demo with ctl := { power := demo.ctl.power, stage := x } }
/-- demo with what Ranger does changed. -/
def ranging (m : Option Measure) (k : KeyPhase) : State := withCtl fun c => { c with measure := m, keyPhase := k, attesting := true }

theorem witness_RangerCommands :
    demo.ctl.power.inputOk = true ∧
    (Runs (booting .rom) ∧ (booting .rom).ctl.stage = .rom ∧ (booting .rom).ctl.flash.fwFault 0 ≠ 0 ∧ (booting .rom).ctl.flash.fwFault 1 ≠ 0) ∧
    ((booting .romWait).ctl.stage = .romWait ∧ Grants (booting .romWait) 0 (baseBU + 0xC0) 4 ∧ (booting .romWait).ctl.fwLoad = false ∧
      fwCheck (fwImage 0 []) ≠ 0) ∧ (withCtl fun c => { c with fwLoad := true }).ctl.fwLoad = true ∧
    ((booting .firmware).ctl.stage = .firmware ∧ (booting .firmware).ctl.bistDone = false) ∧
    (demo.ctl.measure = none ∧ demo.ctl.stage = .firmware ∧ demo.ctl.bistDone = true ∧ (withReg (baseAG + 8) 1).dev.fld (baseAG + 8) 15 0 ≠ 0 ∧ Grants demo 0 (baseAG + 4) 4) ∧
    ((ranging (some {}) .idle).ctl.measure = some {} ∧ ({} : Measure).cause ≠ .step) ∧ Grants demo 0 (baseAG + 0x40) 4 ∧
    (Grants demo 0 (baseRG + 0x1010) 4 ∧ demo.ctl.keyPhase = .idle) ∧
    ((ranging none .reading).ctl.keyPhase = .reading ∧ recordCheck (ranging none .reading).ctl (padTo 192 []) = some 2) ∧
    (ranging none (.writing 8 {})).ctl.keyPhase = .writing 8 {} ∧ Grants demo 0 (baseRG + 0x1040) 4 ∧ (ranging none .idle).ctl.attesting = true ∧ Grants (ranging none .idle) 0 (baseRG + 0x1040) 4 ∧
    demo.ctl.attesting = false := by
  decide +kernel

theorem witness_MarginsNeverFall : ∃ t, exec (.measurementEnd [] []) (ranging (some {}) .idle) = .next t := ⟨_, rfl⟩

/-- demo with core 0 in a phase of quarantine. -/
def quarantined (x : QuarPhase) : State := withCore { quar := { cause := 1, phase := x } }

theorem witness_ViolationsQuarantineReplay :
    (withDev fun d => { d with vqueue := [{}] }).dev.vqueue = {} :: [] ∧ Grants demo 0 (baseRG + 0x200) 4 ∧
    (((quarantined .quarantined).dev.core 0).quar.phase = .quarantined ∧ Grants (quarantined .quarantined) 0 (baseRG + 0x200) 4) ∧
    ((quarantined .testing).dev.core 0).quar.phase = .testing ∧
    (∀ b ∈ [baseTlCh 0, baseTlCh 0 + 4], Grants demo 0 b 4 ∧ Grants (withReg (baseTlCh 0) (2 ^ 30)) 0 b 4) ∧
    (demo.dev.tripMode 0 = 0 ∧ (withReg (baseTlCh 0) (2 ^ 30)).dev.tripMode 0 ≠ 0) ∧
    (let s := withCtl fun c => { c with facetState := .drained :: List.replicate 15 .absent }
     Grants s 0 (baseReplay 0) 4 ∧ s.dev.goRefusal s.ctl 0 = 0) ∧ demo.dev.goRefusal demo.ctl 0 = 1 := by
  decide +kernel

theorem witness_GovernorSamplesAndWindows :
    Runs demo ∧ (let d := (withDev fun d => { d with gov := [{ effective := 16 }] }).dev; 0 < d.gov.length ∧ 16 ≤ (nth ({} : GovFacet) d.gov 0).effective) := by
  decide

theorem witness_ThermalHold :
    (Runs demo ∧ demo.ctl.power.thermalHold = false ∧ (withCtl fun c => { c with power := { c.power with thermalHold := true } }).ctl.power.thermalHold = true) ∧
    (100 ≤ sext 8 (100 : BitVec 8).toNat ∧ 82 ≤ sext 8 (82 : BitVec 8).toNat ∧ ¬ (100 ≤ sext 8 (99 : BitVec 8).toNat ∨ 82 ≤ sext 8 (81 : BitVec 8).toNat)) ∧
    (sext 8 (97 : BitVec 8).toNat ≤ 97 ∧ sext 8 (79 : BitVec 8).toNat ≤ 79 ∧ ¬ (sext 8 (98 : BitVec 8).toNat ≤ 97 ∧ sext 8 (80 : BitVec 8).toNat ≤ 79)) ∧
    (15 : Nat) < demo.dev.gov.length := by
  decide

end Sys2Proof.Tests
end

section
/-! SUPPORT. Register bits and flags: what a hardware set of a flag leaves (R41), and a word of a register as a read computes it. -/

namespace Sys2Proof.Machine

theorem bit_eq_testBit (w i : Nat) : bit w i = w.testBit i := by
  rw [bit, Nat.testBit_eq_decide_div_mod_eq, Nat.shiftRight_eq_div_pow]
  rfl

/-- The number split at the bit that is set: the bits from i up get bit i, those below stay. -/
theorem setBit_true_eq (w i : Nat) : setBit w i true = 2 ^ i * (w / 2 ^ i - w / 2 ^ i % 2 + 1) + w % 2 ^ i := by
  have hw : w = 2 ^ i * (w / 2 ^ i - w / 2 ^ i % 2) + w / 2 ^ i % 2 * 2 ^ i + w % 2 ^ i := by
    rw [Nat.mul_comm (_ % 2), ← Nat.mul_add, Nat.sub_add_cancel (Nat.mod_le _ _), Nat.div_add_mod]
  simp only [setBit, setBits, bits, Nat.shiftRight_eq_div_pow, Nat.add_sub_cancel_left, if_true, Nat.mul_add, Nat.pow_one, Nat.one_mod, Nat.one_mul,
    Nat.mul_one]
  omega

theorem bit_setBit_self (w i : Nat) : bit (setBit w i true) i = true := by
  rw [bit_eq_testBit, setBit_true_eq, Nat.testBit_two_pow_mul_add _ (Nat.mod_lt _ (Nat.two_pow_pos i))]
  simp only [Nat.lt_irrefl, if_false, Nat.sub_self, Nat.testBit_zero, decide_eq_true_eq]
  omega

theorem bit_setBit_ne (w i j : Nat) (hj : j ≠ i) : bit (setBit w i true) j = bit w j := by
  have hr := Nat.mod_lt w (Nat.two_pow_pos i)
  have hhalf (u : Nat) : (u - u % 2 + 1) / 2 = u / 2 := by omega
  rw [bit_eq_testBit, bit_eq_testBit, setBit_true_eq, Nat.testBit_two_pow_mul_add _ hr]
  conv_rhs => rw [← Nat.div_add_mod w (2 ^ i), Nat.testBit_two_pow_mul_add _ hr]
  split
  · rfl
  · obtain ⟨k, hk⟩ : ∃ k, j - i = k + 1 := ⟨j - i - 1, by omega⟩
    rw [hk, Nat.testBit_succ, Nat.testBit_succ, hhalf]

/-- A field of a whole word takes the value's low word. -/
theorem setBits_word_mod (w v : Nat) : setBits w 31 0 v % 2 ^ 32 = v % 2 ^ 32 := by
  simp only [setBits, bits, Nat.shiftRight_zero]
  omega

theorem Dev.reg_raise_flag (d : Dev) (off i cnt : Nat) (h : off ≠ cnt) : (d.raise off i cnt).reg off = setBit (d.reg off) i true := by
  rw [Dev.raise, Dev.count, Dev.reg_setReg_ne _ _ _ _ h, Dev.reg_setReg_self]

theorem Dev.reg_raise_counter (d : Dev) (off i cnt : Nat) (h : off ≠ cnt) : (d.raise off i cnt).reg cnt = (d.reg cnt + 1) % 2 ^ 32 := by
  rw [Dev.raise, Dev.count, Dev.reg_setReg_self, Dev.reg_setReg_ne _ _ _ _ h.symm, w32]

theorem Dev.reg_raise_other (d : Dev) (off i cnt x : Nat) (ho : x ≠ off) (hc : x ≠ cnt) : (d.raise off i cnt).reg x = d.reg x := by
  rw [Dev.raise, Dev.count, Dev.reg_setReg_ne _ _ _ _ hc, Dev.reg_setReg_ne _ _ _ _ ho]

/-- A violation joins the logger's queue while it has room (R458). -/
theorem Dev.violate_vqueue (d : Dev) (v : Violation) (h : d.vqueue.length < 64) : (d.violate v).vqueue = d.vqueue ++ [v] := by
  simp only [Dev.violate, Dev.raise_vqueue, h, if_true]

/-- Settles O11: the laws of the register file. -/
theorem registersHoldWhatIsSet : Obligations.RegistersHoldWhatIsSet :=
  ⟨rfl, fun d off v x => ⟨d.reg_setReg_self off v, d.reg_setReg_ne off v x, d.setReg_wf off v⟩⟩

/-- Settles O12: a raise sets one bit of the flag's register and adds 1 to the counter's. -/
theorem flagsCountTheirEvents : Obligations.FlagsCountTheirEvents := by
  intro d off i cnt hne _
  rw [d.reg_raise_flag off i cnt hne]
  exact ⟨bit_setBit_self _ i, d.reg_raise_counter off i cnt hne, d.reg_raise_other off i cnt, fun j _ hj => bit_setBit_ne _ i j hj⟩

end Sys2Proof.Machine
end

section
/-! SUPPORT. A tick, and the state after reset. -/

namespace Sys2Proof.Machine

/-- An upset of the flash reaches no more than which banks can be read. -/
theorem Flash.upset_unread (f : Flash) (v : Nat) : ∃ u w, f.upset v = { f with unread := u, fwUnread := w } := by
  unfold Flash.upset
  split
  · exact ⟨_, _, rfl⟩
  · exact ⟨f.unread, f.fwUnread, rfl⟩

theorem State.tick_running (s : State) (h : s.ctl.power.running = true) :
    s.tick.dev.ltc = s.dev.ltc + 1 ∧ s.tick.pending = s.pending ∧ ∃ v, s.tick.ctl = { s.ctl with flash := s.ctl.flash.upset v } := by
  rw [State.tick, if_pos h]
  exact ⟨rfl, rfl, _, rfl⟩

theorem State.tick_reset (s : State) (h : ¬ s.ctl.power.running = true) : s.tick = s := by rw [State.tick, if_neg h]

theorem step_of_pending_nil (s : State) (h : s.pending = []) : step s = .next s.tick := by rw [step, h]

theorem Power.legal_reset : State.reset.ctl.power.legal := by
  unfold Power.legal
  decide

theorem Ctl.bootLegal_reset : State.reset.ctl.bootLegal := by
  unfold Ctl.bootLegal
  decide

/-- Settles O2: a step on an empty queue is a tick. -/
theorem emptyQueueTicks : Obligations.EmptyQueueTicks := by
  intro s hq
  rw [step_of_pending_nil s hq]
  refine ⟨fun hr => ?_, fun hr => by rw [s.tick_reset hr]⟩
  obtain ⟨hltc, hp, v, hctl⟩ := s.tick_running hr
  obtain ⟨u, w, hf⟩ := s.ctl.flash.upset_unread v
  exact ⟨s.tick, rfl, hltc, hp.trans hq, u, w, by rw [hctl, hf]⟩

/-- Settles O3: the supply part and the boot part of the invariant hold at reset; nothing is listed in the sparse tables. -/
theorem resetIsLegal : Obligations.ResetIsLegal :=
  ⟨⟨Power.legal_reset, Ctl.bootLegal_reset⟩, rfl, rfl, rfl, fun _ => ⟨rfl, rfl, rfl⟩, rfl, fun _ => rfl, fun _ => rfl⟩

end Sys2Proof.Machine
end

section
/-! SUPPORT. What the check of a host write answers, one equation per outcome (R33, R36, R37, R54, R64, R65, R440). -/

namespace Sys2Proof.Machine
open Sys2Proof.Claims

section CheckWrite
variable (c : Ctl) (d : Dev) (fn : Nat)

theorem checkWrite_badWidth (off width : Nat) (hw : widthOk off width = false ∨ (width = 4 ∧ inSync off)) :
    checkWrite c d fn off width = (d.violate (hostViolation 6 (blockCode off) 0 fn off), false) := by
  have hbad : (!widthOk off width || (width = 4 && (baseSY ≤ off && off < 0x500000))) = true := by
    simpa [inSync] using hw
  rw [checkWrite, if_pos hbad]

variable {off width : Nat} (hw : widthOk off width = true) (hs : width = 4 → ¬ inSync off)
include hw hs

/-- The width test of the check, for a width that R36 admits for a write. -/
theorem widthTest_eq_false : (!widthOk off width || (width = 4 && (baseSY ≤ off && off < 0x500000))) = false := by
  simpa [hw, inSync] using hs

theorem checkWrite_reserved (hb : blockCode off = 0x0E) :
    checkWrite c d fn off width = (d.violate (hostViolation 6 (blockCode off) 0 fn off), false) := by
  simp only [checkWrite, widthTest_eq_false hw hs, hb, if_true, Bool.false_eq_true, if_false]

theorem checkWrite_notReady (hb : blockCode off ≠ 0x0E) (hr : blockReady c d off = false) :
    checkWrite c d fn off width = (d.count (baseBU + 0xD8) 1, false) := by
  simp only [checkWrite, widthTest_eq_false hw hs, hb, hr, Bool.not_false, if_true, Bool.false_eq_true, if_false]

theorem checkWrite_denied (hb : blockCode off ≠ 0x0E) (hr : blockReady c d off = true) {kind : Nat} (hk : writeRight c fn off = some kind) :
    checkWrite c d fn off width = (d.violate (hostViolation kind (blockCode off) 0 fn off), false) := by
  simp only [checkWrite, widthTest_eq_false hw hs, hb, hr, hk, Bool.not_true, Bool.false_eq_true, if_false]

theorem checkWrite_granted (hb : blockCode off ≠ 0x0E) (hr : blockReady c d off = true) (hk : writeRight c fn off = none) :
    checkWrite c d fn off width = if isRegister off then (d, true) else (d.violate (hostViolation 6 (blockCode off) 0 fn off), false) := by
  simp only [checkWrite, widthTest_eq_false hw hs, hb, hr, hk, Bool.not_true, Bool.false_eq_true, if_false]

omit hw hs

theorem checkWrite_admits_iff : (checkWrite c d fn off width).2 = true ↔
    (widthOk off width = true ∧ (width = 4 → ¬ inSync off)) ∧ blockCode off ≠ 0x0E ∧ blockReady c d off = true ∧
      writeRight c fn off = none ∧ isRegister off = true := by
  by_cases hbad : widthOk off width = false ∨ (width = 4 ∧ inSync off)
  · rw [checkWrite_badWidth c d fn off width hbad]
    grind
  · obtain ⟨hw, hs⟩ : widthOk off width = true ∧ (width = 4 → ¬ inSync off) := by grind
    by_cases hb : blockCode off = 0x0E
    · simp [checkWrite_reserved c d fn hw hs hb, hb]
    cases hr : blockReady c d off with
    | false => simp [checkWrite_notReady c d fn hw hs hb hr]
    | true =>
      cases hk : writeRight c fn off with
      | some kind => simp [checkWrite_denied c d fn hw hs hb hr hk]
      | none =>
        rw [checkWrite_granted c d fn hw hs hb hr hk]
        cases isRegister off with
        | false => simp
        | true => simpa [hw, hb, inSync] using hs

end CheckWrite

/-- Settles O8: each outcome of the check is one of the equations above. -/
theorem writeAdmission : Obligations.WriteAdmission :=
  fun c d fn off width => ⟨checkWrite_admits_iff c d fn, admit_dev c d fn off width, checkWrite_badWidth c d fn off width,
    fun hw hs hb hr => checkWrite_notReady c d fn hw (fun _ => hs) hb hr,
    fun _ hw hs hb hr hk => checkWrite_denied c d fn hw (fun _ => hs) hb hr hk⟩

/-! ### A host write that is turned away -/

/-- The reset state with Ranger in ROM_WAIT, an fw_load pending and its image on the way. -/
def firmwareAwaited : State := { ctl := { stage := .romWait, fwLoad := true } }

/-- An FW_LOAD that brings the image of a pending fw_load takes it, whoever sends it: no write is checked (R442). -/
theorem exec_fwLoad_pending (fn : Fin 16) (ok : Bool) (image : List Byte) (s : State) (hr : Runs s) (hf : s.ctl.fwLoad = true) :
    exec (.fwLoad fn ok image) s = .next { s with ctl := s.ctl.fwLoaded ok image } := by
  simp only [exec, execFwLoad, onAll_running s _ hr, hf, if_true]

/-- Without a Trail Map, function 1 may not write BU_BOOT (R65). -/
theorem checkWrite_firmwareAwaited : checkWrite firmwareAwaited.ctl firmwareAwaited.dev (1 : Fin 16) (baseBU + 0xC0) 4 =
    (firmwareAwaited.dev.violate (hostViolation 2 0 0 1 (baseBU + 0xC0)), false) :=
  checkWrite_denied _ _ _ (by decide) (by decide) (by decide) (by decide) (by decide)

/-- Refutes O10: while an fw_load is pending, FW_LOAD by host function 1 is the arrival of its image. As a write of BU_BOOT by function 1 the check would
turn it away and log a violation; the command logs none. -/
theorem not_writesTurnedAway : ¬ Obligations.WritesTurnedAway := by
  intro h
  have hturned := (h (.fwLoad 1 false []) firmwareAwaited rfl).1 1 (baseBU + 0xC0) 4 rfl (by rintro ⟨_, hrid, _⟩; cases hrid)
    (by rw [checkWrite_firmwareAwaited])
  rw [exec_fwLoad_pending _ _ _ _ rfl rfl, checkWrite_firmwareAwaited] at hturned
  have hdev : firmwareAwaited.dev = firmwareAwaited.dev.violate (hostViolation 2 0 0 1 (baseBU + 0xC0)) := by
    injection hturned with hstate
    injection hstate
  have hlog := congrArg Dev.vqueue hdev
  rw [Dev.violate_vqueue _ _ (by decide)] at hlog
  exact absurd hlog (by decide)

end Sys2Proof.Machine
end

section
/-! SUPPORT. Admitted register writes (R36, R39, R362, R364): the registers below RG, the scale registers of the ME, and SY. -/

namespace Sys2Proof.Machine
open Sys2Proof.Claims

/-- A register of which no bit is a command takes the value by its access types. -/
theorem fieldsOnly_running (off v : Nat) (s : State) (hr : Runs s) : fieldsOnly off v s = .next { s with dev := plainWrite s.dev off v } :=
  onDev_running s _ hr

/-- An admitted 4 B write has the register's effect. -/
theorem exec_registerWrite_admitted (who : HostId) (off : Nat) (v : BitVec 64) (s : State) (hr : Runs s) (hid : s.dev.ridRefuses who.rid = false)
    (hg : Grants s who.fn off 4) : exec (.registerWrite who off 4 v) s = registerEffect who.fn off (v.toNat % 2 ^ 32) s := by
  simp [exec, execRegisterWrite, hr, hid, hg]

/-- An admitted 8 B write sets a sync object. -/
theorem exec_registerWrite_sync (who : HostId) (off : Nat) (v : BitVec 64) (s : State) (hr : Runs s) (hid : s.dev.ridRefuses who.rid = false)
    (hg : Grants s who.fn off 8) :
    exec (.registerWrite who off 8 v) s = .next { s with dev := hostSyncSet s.dev ((off - baseSY) / 8) v.toNat } := by
  simp [exec, execRegisterWrite, hr, hid, hg, admit_dev _ _ _ _ _ hg]

/-- Below RG, only BU_BOOT holds a command. -/
theorem chipWrite_below (fn : Fin 16) (off v : Nat) (hlt : off < baseRG) (hboot : off ≠ baseBU + 0xC0) : chipWrite fn off v = fieldsOnly off v := by
  have hne : ∀ a, baseRG ≤ a → (off = a) = False := fun a ha => eq_false (by omega)
  have hrange : ∀ a, baseRG ≤ a → decide (a ≤ off) = false := fun a ha => decide_eq_false (by omega)
  simp (disch := decide) only [chipWrite, hboot, hne, hrange, if_false, Bool.false_and, Bool.false_eq_true]

theorem registerEffect_below (fn : Fin 16) (off v : Nat) (hlt : off < baseRG) (hboot : off ≠ baseBU + 0xC0) :
    registerEffect fn off v = fieldsOnly off v := by
  rw [registerEffect, if_pos (Nat.lt_trans hlt (by decide)), chipWrite_below fn off v hlt hboot]

theorem plainWrite_below (d : Dev) (off v : Nat) (hlt : off < baseRG) : plainWrite d off v = writeFields d off v := by
  have hrange : ∀ a, baseRG ≤ a → decide (a ≤ off) = false := fun a ha => decide_eq_false (by omega)
  simp (disch := decide) only [plainWrite, hrange, if_false, Bool.false_and, Bool.false_eq_true]

section Scale
/-! Scale register i of a core's ME (Table 5.8). -/

variable {off : Nat} {core : Fin 128} {i : Fin 4096} (hoff : off = baseCore core + 0x10000 + 4 * i)
include hoff

theorem scale_offset : 0x1000000 ≤ off ∧ off < 0x2000000 ∧ off % 0x20000 = 0x10000 + 4 * i ∧ coreOf off = core := by
  simp only [baseCore] at hoff
  simp only [coreOf]
  omega

theorem registerEffect_scale (fn : Fin 16) (v : Nat) : registerEffect fn off v = fieldsOnly off v := by
  obtain ⟨hlo, -, hmod, -⟩ := scale_offset hoff
  have hne : ∀ a, a < 0x10000 → (off % 0x20000 = a) = False := fun a ha => eq_false (by omega)
  have hge : decide (off % 0x20000 < 0xA010) = false := decide_eq_false (by omega)
  have hlow : ∀ a, a < 0x1000000 → (off < a) = False := fun a ha => eq_false (by omega)
  simp (disch := decide) only [registerEffect, coreWrite, hlow, hlo, hne, hge, decide_false, if_true, if_false, Bool.and_false, Bool.false_eq_true]

theorem plainWrite_scale (d : Dev) (v : Nat) :
    plainWrite d off v = (writeFields d off v).updCore core (fun k => { k with me := { k.me with scalePoison := NatSet.del k.me.scalePoison i } }) := by
  obtain ⟨hlo, hhi, hmod, hcore⟩ := scale_offset hoff
  have hidx : (0x10000 + 4 * i.val - 0x10000) / 4 = i := by omega
  have hrd : (decide (baseRD + 0x40 ≤ off) && decide (off < baseRD + 0x80)) = false := by
    have hnot : ¬ off < baseRD + 0x80 := by simp only [baseRD]; omega
    simp [hnot]
  have hregion : (decide (0x1000000 ≤ off) && decide (off < 0x2000000)) = true := by simp [hlo, hhi]
  have hscale : (decide (0x10000 ≤ 0x10000 + 4 * i.val) && decide (0x10000 + 4 * i.val < 0x14000)) = true := by simp; omega
  simp only [plainWrite, hrd, hregion, hmod, hscale, hidx, hcore, if_true, if_false, Bool.false_eq_true]
end Scale

theorem exec_syncObjectWrite_admitted (fn : Fin 16) (obj : Fin 131072) (v : BitVec 64) (s : State) (hr : Runs s) (hg : Grants s fn (syncOff obj) 8) :
    exec (.syncObjectWrite fn obj v) s = .next { s with dev := hostSyncSet s.dev obj v.toNat } := by
  rw [exec, execSyncObjectWrite, onDev_running s _ hr, hostWrite_admitted _ _ _ _ _ _ hg]

theorem syncOff_index (o : Nat) : (syncOff o - baseSY) / 8 = o := by
  simp [syncOff]

/-- Settles O14: the check admits the write, the dispatch by offset finds a plain register, and the write takes the value by its access types. -/
theorem registerWrites : Obligations.RegisterWrites := by
  intro s fn rid v hr hid who
  refine ⟨fun off hlt hboot hg => ?_, fun core i hg => ?_, fun o hg => ⟨?_, exec_syncObjectWrite_admitted fn o v s hr hg⟩⟩
  · rw [Leaves, exec_registerWrite_admitted who off v s hr hid hg, registerEffect_below fn off _ hlt hboot, fieldsOnly_running _ _ _ hr,
      plainWrite_below _ _ _ hlt]
  · rw [Leaves, exec_registerWrite_admitted who _ v s hr hid hg, registerEffect_scale rfl, fieldsOnly_running _ _ _ hr, plainWrite_scale rfl]
  · rw [Leaves, exec_registerWrite_sync who _ v s hr hid hg, syncOff_index]

end Sys2Proof.Machine
end

section
/-! SUPPORT. Reads of the control window (R28, R33, R36, R37, R44, R440, R445), one equation per kind of read. -/

namespace Sys2Proof.Machine
open Sys2Proof.Claims

section WindowRead
variable (c : Ctl) (d : Dev) (fn : Nat) {off width : Nat}

theorem windowRead_badWidth (hw : widthOk off width = false) :
    windowRead c d fn off width = (c, (d.violate (hostViolation 6 (blockCode off) 0 fn off)).answerError width) := by
  simp only [windowRead, hw, Bool.not_false, if_true]

theorem windowRead_notReady (hw : widthOk off width = true) (hr : blockReady c d off = false) :
    windowRead c d fn off width = (c, (d.count (baseBU + 0xD8) 1).answer 0) := by
  simp only [windowRead, hw, hr, Bool.not_true, Bool.not_false, Bool.false_eq_true, if_true, if_false]

/-- SY has no ready bit (R439): it is always ready. -/
theorem blockReady_sync (hs : inSync off) : blockReady c d off = true := by
  obtain ⟨hlo, hhi⟩ := hs
  simp only [baseSY] at hlo
  have hcode : blockCode off = 0x0D := by
    unfold blockCode
    iterate 7 rw [if_neg (by omega)]
    rw [if_pos hhi]
  have hregion : decide (0x1000000 ≤ off) = false := decide_eq_false (by omega)
  simp only [blockReady, hregion, hcode, Bool.false_and, Bool.false_eq_true, if_false]

theorem windowRead_sync (hw : widthOk off width = true) (hs : inSync off) :
    let v := (d.syncObj ((off - baseSY) / 8)).value
    windowRead c d fn off width = (c, d.answer (if width = 8 then v else if off % 8 = 0 then v % 2 ^ 32 else v / 2 ^ 32)) := by
  simp only [windowRead, hw, blockReady_sync c d hs, hs.1, hs.2, Bool.not_true, Bool.false_eq_true, if_false, decide_true, Bool.and_self, if_true]

theorem windowRead_register (ha : off % 4 = 0) (hs : ¬ inSync off) (hr : blockReady c d off = true) (hne : off ≠ baseAG + 0x44) :
    windowRead c d fn off 4 = (c, regRead c d off) := by
  have hw : widthOk off 4 = true := by simp [widthOk, ha]
  have hs' : (decide (baseSY ≤ off) && decide (off < 0x500000)) = false := by simpa [inSync] using hs
  simp only [windowRead, hw, hr, hs', hne, Bool.not_true, Bool.false_eq_true, if_false]

end WindowRead

section RegRead
variable (c : Ctl) (d : Dev) {off : Nat}

theorem regRead_reserved (h : (fieldsAt off).isEmpty = true) : regRead c d off = d.answer 0 := by
  rw [regRead, if_pos h]

theorem regRead_latched (h : (fieldsAt off).isEmpty = false) (hl : isLatched off = true) : regRead c d off = d.answer (Sparse.get 0 d.latch off) := by
  rw [regRead, h, if_neg (by simp), if_pos hl]

theorem regRead_stored (h : (fieldsAt off).isEmpty = false) (hl : isLatched off = false) (hv : viewFree d off = false) (ha : attestClash c off = false) :
    regRead c d off = (clearRc { d with latch := (latchTargets off).foldl (fun m h => Sparse.set 0 m h (regNow c d h)) d.latch } off).answer
      (regNow c d off) := by
  simp only [regRead, h, hl, hv, ha, Bool.false_eq_true, if_false]

/-- A register with no RC field is not changed by a read (R44). -/
theorem clearRc_of_none (h : (fieldsAt off).any (fun f => decide (f.acc = .rc)) = false) : clearRc d off = d := by
  unfold clearRc
  generalize fieldsAt off = l at h
  induction l generalizing d with
  | nil => rfl
  | cons f r ih =>
    simp only [List.any_cons, Bool.or_eq_false_iff, decide_eq_false_iff_not] at h
    rw [List.foldl_cons, if_neg h.1, ih _ h.2]
end RegRead

theorem regNow_ltcLo (c : Ctl) (d : Dev) : regNow c d 0x10 % 2 ^ 32 = d.ltc % 2 ^ 32 := setBits_word_mod _ _
theorem regNow_ltcHi (c : Ctl) (d : Dev) : regNow c d 0x14 % 2 ^ 32 = d.ltc / 2 ^ 32 % 2 ^ 32 := setBits_word_mod _ _

theorem fieldsAt_ltcLo : fieldsAt 0x10 = [⟨"ltc_lo", 0x10, 0x2000000, 1, 0x4, 1, 31, 0, .ro, 0x0⟩] := by decide +kernel
theorem fieldsAt_ltcHi : fieldsAt 0x14 = [⟨"ltc_hi", 0x14, 0x2000000, 1, 0x4, 1, 31, 0, .ro, 0x0⟩] := by decide +kernel
theorem fieldsAt_histData : fieldsAt (baseAG + 0x44) = [⟨"data", 0x30044, 0x2000000, 1, 0x4, 1, 31, 0, .ro, 0x0⟩] := by decide +kernel

theorem regRead_ltcLo (c : Ctl) (d : Dev) :
    regRead c d 0x10 = { d with latch := Sparse.set 0 d.latch 0x14 (regNow c d 0x14) }.answer (regNow c d 0x10) := by
  rw [regRead_stored c d (by rw [fieldsAt_ltcLo]; rfl) (by decide) (by simp [viewFree, baseTR]) (by simp [attestClash, baseRG]),
    clearRc_of_none _ (by rw [fieldsAt_ltcLo]; rfl)]
  rfl

section Exec
variable (s : State) (hr : Runs s)
include hr

theorem exec_controlWindowRead (who : HostId) (off width : Nat) (hid : s.dev.ridRefuses who.rid = false) :
    exec (.controlWindowRead who off width) s =
      .next { s with ctl := (windowRead s.ctl s.dev who.fn off width).1, dev := (windowRead s.ctl s.dev who.fn off width).2 } := by
  simp only [exec, execControlWindowRead, onAll_running s _ hr, hid, Bool.false_eq_true, if_false]

theorem leaves_controlWindowRead {who : HostId} {off width : Nat} {d : Dev} (hid : s.dev.ridRefuses who.rid = false)
    (h : windowRead s.ctl s.dev who.fn off width = (s.ctl, d)) : Leaves (.controlWindowRead who off width) s d := by
  rw [Leaves, exec_controlWindowRead s hr who off width hid, h]

theorem leaves_latchedHalfRead {fn : Fin 16} {off : Nat} {d : Dev} (h : windowRead s.ctl s.dev fn off 4 = (s.ctl, d)) :
    Leaves (.latchedHalfRead fn off) s d := by
  rw [Leaves, exec, execLatchedHalfRead, onAll_running s _ hr, h]

theorem leaves_rcFieldRead {fn : Fin 16} {off : Nat} {d : Dev} (h : windowRead s.ctl s.dev fn off 4 = (s.ctl, d)) :
    Leaves (.rcFieldRead fn off) s d := by
  rw [Leaves, exec, execRcFieldRead, onAll_running s _ hr, h]
end Exec

theorem histData_of_record (c : Ctl) (d : Dev) (r : HistRecord) (hrec : (c.flash.history.drop c.histIndex).head? = some r) (hw : c.histWord < 432) :
    histData c d = ({ c with histWord := c.histWord + 1 }, d, le r.bytes (4 * c.histWord) 4) := by
  simp only [histData, hrec, hw, if_true]

theorem windowRead_histData (c : Ctl) (d : Dev) (fn : Nat) (hr : blockReady c d (baseAG + 0x44) = true) :
    windowRead c d fn (baseAG + 0x44) 4 = ((histData c d).1, (histData c d).2.1.answer (histData c d).2.2) := by
  have hs : (decide (baseSY ≤ baseAG + 0x44) && decide (baseAG + 0x44 < 0x500000)) = false := by decide
  have hw : widthOk (baseAG + 0x44) 4 = true := by decide
  simp only [windowRead, hw, hr, hs, Bool.not_true, Bool.false_eq_true, if_false, if_true]

theorem leavesBoth_agHistDataRead (s : State) (hr : Runs s) (fn : Fin 16) (x : Ctl × Dev) (h : windowRead s.ctl s.dev fn (baseAG + 0x44) 4 = x) :
    LeavesBoth (.agHistDataRead fn) s x := by
  rw [LeavesBoth, exec, execAgHistDataRead, onAll_running s _ hr, h]

section SyncRead
variable (c : Ctl) (d : Dev) (fn : Nat) (o : Fin 131072)

theorem inSync_syncOff : inSync (syncOff o) ∧ inSync (syncOff o + 4) := by
  simp only [inSync, syncOff, baseSY]
  omega

theorem windowRead_syncValue : windowRead c d fn (syncOff o) 8 = (c, d.answer (d.syncObj o).value) := by
  have ha : syncOff o % 8 = 0 := by simp only [syncOff, baseSY]; omega
  have hw : widthOk (syncOff o) 8 = true := by simp [widthOk, ha, (inSync_syncOff o).1.1, (inSync_syncOff o).1.2]
  rw [windowRead_sync c d fn hw (inSync_syncOff o).1, syncOff_index, if_pos rfl]

theorem windowRead_syncLow : windowRead c d fn (syncOff o) 4 = (c, d.answer ((d.syncObj o).value % 2 ^ 32)) := by
  have ha : syncOff o % 8 = 0 := by simp only [syncOff, baseSY]; omega
  have hw : widthOk (syncOff o) 4 = true := by simp [widthOk]; omega
  rw [windowRead_sync c d fn hw (inSync_syncOff o).1, syncOff_index, if_neg (by decide), if_pos ha]

theorem windowRead_syncHigh : windowRead c d fn (syncOff o + 4) 4 = (c, d.answer ((d.syncObj o).value / 2 ^ 32)) := by
  have ha : syncOff o % 8 = 0 := by simp only [syncOff, baseSY]; omega
  have hw : widthOk (syncOff o + 4) 4 = true := by simp [widthOk]; omega
  have hobj : (syncOff o + 4 - baseSY) / 8 = o := by simp only [syncOff, baseSY]; omega
  rw [windowRead_sync c d fn hw (inSync_syncOff o).2, hobj, if_neg (by decide), if_neg (by omega)]
end SyncRead

/-- Settles O15: one equation of the window's read for each clause. -/
theorem windowReads : Obligations.WindowReads := by
  intro s fn rid off width hr hid who
  refine ⟨fun hw => leaves_controlWindowRead s hr hid (windowRead_badWidth _ _ _ hw),
    fun hw hready => leaves_controlWindowRead s hr hid (windowRead_notReady _ _ _ hw hready), ?_, ?_, ?_, ?_, ?_, ?_⟩
  · exact fun o => ⟨leaves_controlWindowRead s hr hid (windowRead_syncValue _ _ _ o), leaves_controlWindowRead s hr hid (windowRead_syncLow _ _ _ o),
      leaves_controlWindowRead s hr hid (windowRead_syncHigh _ _ _ o)⟩
  · intro ha hs hready hempty
    have hne : off ≠ baseAG + 0x44 := by
      rintro rfl
      rw [fieldsAt_histData] at hempty
      cases hempty
    refine leaves_controlWindowRead s hr hid ?_
    rw [windowRead_register _ _ _ ha hs hready hne, regRead_reserved _ _ hempty]
  · refine ⟨leaves_latchedHalfRead s hr ?_, regNow_ltcLo _ _, regNow_ltcHi _ _⟩
    rw [windowRead_register _ _ _ (by decide) (by decide) rfl (by decide), regRead_ltcLo]
  · refine leaves_controlWindowRead s hr hid ?_
    rw [windowRead_register _ _ _ (by decide) (by decide) rfl (by decide), regRead_latched _ _ (by rw [fieldsAt_ltcHi]; rfl) (by decide)]
  · intro ha hs hready hrc hl hv ht hne hne'
    refine leaves_rcFieldRead s hr ?_
    have hfields : (fieldsAt off).isEmpty = false := by
      cases hf : fieldsAt off <;> simp_all
    have hclash : attestClash s.ctl off = false := by simp [attestClash, hne']
    rw [windowRead_register _ _ _ ha hs hready hne, regRead_stored _ _ hfields hl hv hclash, ht]
    rfl
  · intro r hready hrec hw
    exact leavesBoth_agHistDataRead s hr fn _ (by rw [windowRead_histData _ _ _ hready, histData_of_record _ _ r hrec hw])

end Sys2Proof.Machine
end

section
/-! SUPPORT. What a store leaves of the rest of memory (R19, R277, R286, R357, R359): Core Store, a channel's granule, the landing ring. -/

namespace Sys2Proof.Machine
open Sys2Proof.Claims

/-- A read after a write of many bytes: the byte written there, or the byte that stood there. -/
theorem Memory.read_writeN (m : Memory) (a : Nat) (l : List Byte) (x : Nat) :
    Memory.read (Memory.writeN m a l) x = if a ≤ x ∧ x < a + l.length then (l.drop (x - a)).head?.getD 0 else Memory.read m x := by
  split
  next h =>
    have hi : x - a < l.length := by omega
    have hx : a + (x - a) = x := by omega
    have hread := Memory.read_writeN_inside m a l (x - a) hi
    rw [hx] at hread
    rw [hread, List.head?_drop, List.getElem?_eq_getElem hi, Option.getD_some]
  next h => exact Memory.read_writeN_outside m a l x (by omega)

theorem Core.read_csWrite (k : Core) (a x : Nat) (b : List PByte) :
    Memory.read (k.csWrite a b).store x = if a ≤ x ∧ x < a + b.length then ((b.map (·.1)).drop (x - a)).head?.getD 0 else Memory.read k.store x := by
  rw [Core.csWrite, Memory.read_writeN, List.length_map]

theorem Core.read_csWrite_outside (k : Core) (a x : Nat) (b : List PByte) (h : ¬ (a ≤ x ∧ x < a + b.length)) :
    Memory.read (k.csWrite a b).store x = Memory.read k.store x := by rw [Core.read_csWrite, if_neg h]

theorem length_padTo (n : Nat) (l : List Byte) : (padTo n l).length = n := by
  simp only [padTo, List.length_take, List.length_append, List.length_replicate]
  omega

/-- A channel that is READY stores the granule; another stores nothing. -/
theorem Dev.hbmWrite_hbm (d : Dev) (ch loc : Nat) (tag : Option CryptTag) (b : List Byte) (p : Bool) :
    (d.hbmWrite ch loc tag b p).mem.hbm =
      if (d.mchan ch).state = .ready then Memory.writeN d.mem.hbm (hbmKey ch (loc / 64 * 64)) (padTo 64 b) else d.mem.hbm := by
  unfold Dev.hbmWrite
  split
  · dsimp only
    split <;> split <;> rfl
  · rfl

theorem Dev.read_hbmWrite_outside (d : Dev) (ch loc x : Nat) (tag : Option CryptTag) (b : List Byte) (p : Bool)
    (h : ¬ (hbmKey ch (loc / 64 * 64) ≤ x ∧ x < hbmKey ch (loc / 64 * 64) + 64)) :
    Memory.read (d.hbmWrite ch loc tag b p).mem.hbm x = Memory.read d.mem.hbm x := by
  rw [Dev.hbmWrite_hbm]
  split
  · exact Memory.read_writeN_outside _ _ _ _ (by rw [length_padTo]; omega)
  · rfl

/-- A byte of Core Store that no unit of the ring write covers stays. -/
theorem Core.read_ringWrite_outside (k : Core) (base size p a : Nat) (b : List PByte)
    (h : ∀ i < b.length / 64, ¬ (base + (p + 64 * i) % size ≤ a ∧ a < base + (p + 64 * i) % size + 64)) :
    Memory.read (k.ringWrite base size p b).store a = Memory.read k.store a := by
  unfold Core.ringWrite
  have hl : ∀ i ∈ List.range (b.length / 64), ¬ (base + (p + 64 * i) % size ≤ a ∧ a < base + (p + 64 * i) % size + 64) :=
    fun i hi => h i (List.mem_range.mp hi)
  generalize List.range (b.length / 64) = l at hl
  induction l generalizing k with
  | nil => rfl
  | cons i l ih =>
    have hunit : ((b.drop (64 * i)).take 64).length ≤ 64 := List.length_take_le _ _
    have hi := hl i List.mem_cons_self
    rw [List.foldl_cons, ih _ (fun j hj => hl j (List.mem_cons_of_mem i hj)), Core.read_csWrite_outside _ _ _ _ (by omega)]

/-! ### Core Store of every core -/

/-- A core put back with its store as it stood. -/
theorem Dev.store_setCore (d : Dev) (n m : Nat) (k : Core) (h : k.store = (d.core n).store) : ((d.setCore n k).core m).store = (d.core m).store := by
  by_cases hm : m = n
  · subst hm
    rw [Dev.core_setCore_self, h]
  · rw [Dev.core_setCore_ne _ _ _ _ hm]

theorem Dev.store_updCore (d : Dev) (n m : Nat) (f : Core → Core) (h : ∀ k, (f k).store = k.store) : ((d.updCore n f).core m).store = (d.core m).store :=
  d.store_setCore n m _ (h _)

/-- Bytes of a transfer that reach a core wait there: no store changes. -/
theorem Dev.store_relayTo (d : Dev) (src id total m : Nat) (l : List Nat) (b : List PByte) :
    ((d.relayTo src id total l b).core m).store = (d.core m).store := by
  induction l with
  | nil => rfl
  | cons n rest ih =>
    unfold Dev.relayTo
    dsimp only
    split
    · exact ih
    · split <;> exact d.store_setCore _ _ _ rfl

theorem Dev.store_relayLanded (d : Dev) (src id core m : Nat) : ((d.relayLanded src id core).core m).store = (d.core m).store := by
  unfold Dev.relayLanded Dev.updRuns
  refine (Dev.store_updCore _ _ _ _ ?_).trans (Dev.store_updCore _ _ _ _ ?_) <;> exact fun _ => rfl

/-! ### RELAY_LAND -/

/-- The units of 64 B that RELAY_LAND lands: at most 4 KiB, as far as the transfer has bytes and the landing ring room (R359). -/
def Dev.landUnits (d : Dev) (core : Nat) (x : Landing) : Nat :=
  min 64 (min (x.data.length / 64) ((d.ringArea core).2 / 64 - ((d.core core).arrived - (d.core core).freed)))

/-- What RELAY_LAND leaves before the op at the sending core goes on: the units in the ring, the transfer's rest waiting, the bytes at the next core. -/
def Dev.landed (d : Dev) (core : Nat) (x : Landing) (rest : List Landing) : Dev :=
  let n := d.landUnits core x
  let k := (d.core core).ringWrite (d.ringArea core).1 (d.ringArea core).2 (64 * (d.core core).arrived) (x.data.take (64 * n))
  let d' := (d.setCore core { k with
    arrived := k.arrived + n
    landing := if x.left - n = 0 then rest else { x with data := x.data.drop (64 * n), left := x.left - n } :: rest }).relayTo
      x.src x.id x.left x.next (x.data.take (64 * n))
  if x.left - n = 0 then d'.relayLanded x.src x.id core else d'

/-- What RELAY_LAND can do: nothing, the landing, or the landing after which the sending core's op goes on. -/
theorem exec_relayLand_cases (s t : State) (core : Fin 128) (x : Landing) (rest : List Landing) (hl : (s.dev.core core).landing = x :: rest)
    (ht : exec (.relayLand core) s = .next t) :
    t.dev = s.dev ∨ t.dev = s.dev.landed core x rest ∨
      (x.src = core.val ∧ ∃ q, ((s.dev.landed core x rest).core core).dma.queue.head? = some q ∧ q.id = x.id ∧
        t.dev = (s.dev.landed core x rest).dmaMove s.ctl core q) := by
  cases hr : s.ctl.power.running with
  | false =>
    rw [exec, execRelayLand, onDev_reset s _ hr] at ht
    injection ht with ht
    exact .inl (by rw [ht])
  | true =>
    rw [exec, execRelayLand, onDev_running s _ hr] at ht
    injection ht with ht
    subst ht
    simp only [hl]
    split
    · exact .inl rfl
    · right
      split
      next q r hq =>
        change ((s.dev.landed core x rest).core core).dma.queue = q :: r at hq
        split
        next hown =>
          obtain ⟨hsrc, hid⟩ := Bool.and_eq_true_iff.mp hown
          exact .inr ⟨of_decide_eq_true hsrc, q, by rw [hq]; rfl, of_decide_eq_true hid, rfl⟩
        next => exact .inl rfl
      next => exact .inl rfl

theorem Dev.length_landed (d : Dev) (core : Nat) (x : Landing) : (x.data.take (64 * d.landUnits core x)).length / 64 = d.landUnits core x := by
  have hle : d.landUnits core x ≤ x.data.length / 64 := by
    unfold Dev.landUnits
    omega
  rw [List.length_take]
  omega

/-- A landing leaves every byte of Core Store but those of the units that it fills. -/
theorem Dev.read_landed_outside (d : Dev) (core : Nat) (x : Landing) (rest : List Landing) (m a : Nat)
    (h : m ≠ core ∨ ∀ i < d.landUnits core x,
      let lo := (d.ringArea core).1 + (64 * (d.core core).arrived + 64 * i) % (d.ringArea core).2
      ¬ (lo ≤ a ∧ a < lo + 64)) :
    Memory.read ((d.landed core x rest).core m).store a = Memory.read (d.core m).store a := by
  have hrelay : ((d.landed core x rest).core m).store = ((d.setCore core ((d.core core).ringWrite (d.ringArea core).1 (d.ringArea core).2
      (64 * (d.core core).arrived) (x.data.take (64 * d.landUnits core x)))).core m).store := by
    have hset : ∀ (j : Core) (k : Core), j.store = k.store → ((d.setCore core j).core m).store = ((d.setCore core k).core m).store := by
      intro j k hjk
      by_cases hm : m = core
      · subst hm
        rw [Dev.core_setCore_self, Dev.core_setCore_self, hjk]
      · rw [Dev.core_setCore_ne _ _ _ _ hm, Dev.core_setCore_ne _ _ _ _ hm]
    unfold Dev.landed
    dsimp only
    split
    · rw [Dev.store_relayLanded, Dev.store_relayTo]
      exact hset _ _ rfl
    · rw [Dev.store_relayTo]
      exact hset _ _ rfl
  rw [hrelay]
  rcases eq_or_ne m core with rfl | hm
  · rw [Dev.core_setCore_self]
    refine Core.read_ringWrite_outside _ _ _ _ _ _ fun i hi => ?_
    rw [Dev.length_landed] at hi
    exact (h.resolve_left (fun hne => hne rfl)) i hi
  · rw [Dev.core_setCore_ne _ _ _ _ hm]

/-- Settles O49: each store by its own read-after-write law; RELAY_LAND by its cases. -/
theorem storesAreLocal : Obligations.StoresAreLocal := by
  refine ⟨Core.read_csWrite, Dev.read_hbmWrite_outside, fun s t core x rest m a hl ht h => ?_⟩
  have hread := s.dev.read_landed_outside core x rest m a h
  rcases exec_relayLand_cases s t core x rest hl ht with hd | hd | hd
  · exact ⟨s.dev, rfl, .inl hd⟩
  · exact ⟨s.dev.landed core x rest, hread, .inl hd⟩
  · exact ⟨s.dev.landed core x rest, hread, .inr hd⟩

end Sys2Proof.Machine
end

section
/-! SUPPORT. The bytes that the block stores (HBM, the lines of the memory-side cache, Core Store), and the operations that leave all of them. -/

namespace Sys2Proof.Machine
open Sys2Proof.Claims

/-- What the block stores: HBM, the lines of the memory-side cache, every core's store. -/
def Dev.stores (d : Dev) : Memory × Sparse Line × (Nat → Memory) := (d.mem.hbm, d.mem.lines, fun n => (d.core n).store)

/-- Equal stores read alike. -/
theorem Dev.read_of_stores {a b : Dev} (h : a.stores = b.stores) :
    (∀ x, Memory.read a.mem.hbm x = Memory.read b.mem.hbm x) ∧ (∀ x, a.line x = b.line x) ∧
      ∀ n x, Memory.read (a.core n).store x = Memory.read (b.core n).store x := by
  simp only [Dev.stores, Prod.mk.injEq] at h
  obtain ⟨hhbm, hlines, hstore⟩ := h
  exact ⟨fun x => by rw [hhbm], fun x => by rw [Dev.line, Dev.line, hlines], fun n x => congrArg (Memory.read · x) (congrFun hstore n)⟩

/-- A fold keeps what each of its steps keeps. -/
theorem Dev.foldl_keeps {α β : Type} (g : Dev → β) (f : Dev → α → Dev) (h : ∀ d a, g (f d a) = g d) (l : List α) (d : Dev) :
    g (l.foldl f d) = g d := by
  induction l generalizing d with
  | nil => rfl
  | cons a l ih => rw [List.foldl_cons, ih, h]

theorem Dev.stores_foldl {α : Type} (f : Dev → α → Dev) (h : ∀ d a, (f d a).stores = d.stores) (l : List α) (d : Dev) :
    (l.foldl f d).stores = d.stores := Dev.foldl_keeps Dev.stores f h l d

/-! ### Registers, flags, and state beside the stores -/

section
variable (d : Dev)

@[simp] theorem Dev.setReg_stores (off v : Nat) : (d.setReg off v).stores = d.stores := rfl
@[simp] theorem Dev.setFld_stores (off hi lo v : Nat) : (d.setFld off hi lo v).stores = d.stores := rfl
@[simp] theorem Dev.count_stores (off n : Nat) : (d.count off n).stores = d.stores := rfl
@[simp] theorem Dev.raise_stores (off i cnt : Nat) : (d.raise off i cnt).stores = d.stores := rfl
@[simp] theorem Dev.free_stores : d.free.1.stores = d.stores := rfl
@[simp] theorem Dev.countFree_stores (off : Nat) : (d.countFree off).stores = d.stores := rfl
@[simp] theorem Dev.irq_stores (src : Nat) : (d.irq src).stores = d.stores := rfl
@[simp] theorem Dev.emit_stores (o : Out) : (d.emit o).stores = d.stores := rfl
@[simp] theorem Dev.answer_stores (v : Nat) : (d.answer v).stores = d.stores := rfl
@[simp] theorem Dev.updHl_stores (f : HostPort → HostPort) : (d.updHl f).stores = d.stores := rfl
@[simp] theorem Dev.updTwin_stores (f : Twin → Twin) : (d.updTwin f).stores = d.stores := rfl
@[simp] theorem Dev.updPort_stores (p : Nat) (f : Port → Port) : (d.updPort p f).stores = d.stores := rfl
@[simp] theorem Dev.updMirror_stores (f : Nat) (g : Mirror → Mirror) : (d.updMirror f g).stores = d.stores := rfl
@[simp] theorem Dev.updReplay_stores (f : Nat) (g : Replay → Replay) : (d.updReplay f g).stores = d.stores := rfl
@[simp] theorem Dev.updChan_stores (n : Nat) (f : Channel → Channel) : (d.updChan n f).stores = d.stores := rfl
@[simp] theorem Dev.updCmd_stores (ch seq : Nat) (f : Cmd → Cmd) : (d.updCmd ch seq f).stores = d.stores := rfl
@[simp] theorem Dev.updClient_stores (i : Nat) (f : Client → Client) : (d.updClient i f).stores = d.stores := rfl
@[simp] theorem Dev.setMchan_stores (n : Nat) (k : Chan) : (d.setMchan n k).stores = d.stores := rfl
@[simp] theorem Dev.setFault_stores (n : Nat) (e : Option FaultEntry) : (d.setFault n e).stores = d.stores := rfl
@[simp] theorem Dev.rdDrop_stores (p : RdEntry → Bool) : (d.rdDrop p).stores = d.stores := rfl
@[simp] theorem Dev.readyLost_stores : d.readyLost.stores = d.stores := rfl
@[simp] theorem Dev.hostPost_stores (addr : Nat) (b : List Byte) (ep relaxed : Bool) : (d.hostPost addr b ep relaxed).1.stores = d.stores := rfl
@[simp] theorem Dev.acceptInv_stores (v : Inval) : (d.acceptInv v).stores = d.stores := rfl

/-- A core put back with its store as it stood. -/
theorem Dev.setCore_stores (n : Nat) (k : Core) (h : k.store = (d.core n).store) : (d.setCore n k).stores = d.stores :=
  Prod.ext rfl (Prod.ext rfl (funext fun m => d.store_setCore n m k h))

theorem Dev.updCore_stores (n : Nat) (f : Core → Core) (h : ∀ k, (f k).store = k.store) : (d.updCore n f).stores = d.stores :=
  d.setCore_stores n _ (h _)

@[simp] theorem Dev.updGe_stores (n : Nat) (f : Ge → Ge) : (d.updGe n f).stores = d.stores := d.updCore_stores n _ fun _ => rfl

@[simp] theorem Dev.hostGet_stores (addr n : Nat) : (d.hostGet addr n).stores = d.stores := by
  unfold Dev.hostGet
  split <;> rfl

@[simp] theorem Dev.violate_stores (v : Violation) : (d.violate v).stores = d.stores := by
  unfold Dev.violate
  dsimp only
  split <;> rfl

@[simp] theorem Dev.notWritten_stores (own : Option Owner) : (d.notWritten own).stores = d.stores := by
  cases own <;> rfl

@[simp] theorem Dev.putWords_stores (off : Nat) (b : List Byte) (n : Nat) : (d.putWords off b n).stores = d.stores := by
  induction n with
  | zero => rfl
  | succ n ih => rw [Dev.putWords, Dev.setReg_stores, ih]

/-! ### Host writes -/

@[simp] theorem dropWrite_stores (kind fn off : Nat) : (dropWrite d kind fn off).stores = d.stores := d.violate_stores _

@[simp] theorem checkWrite_stores (c : Ctl) (fn off width : Nat) : (checkWrite c d fn off width).1.stores = d.stores := by
  unfold checkWrite
  split
  · simp
  split
  · simp
  split
  · simp
  split
  · simp
  · split <;> simp

/-- A host write keeps the stores when its effect does. -/
theorem hostWrite_stores (c : Ctl) (fn off width : Nat) (k : Dev → Dev) (h : (k d).stores = d.stores) :
    (hostWrite c d fn off width k).stores = d.stores := by
  rcases hostWrite_cases c d fn off width k with ⟨-, heq⟩ | ⟨-, heq⟩
  · rw [heq, h]
  · rw [heq, checkWrite_stores]

@[simp] theorem writeFields_stores (off v : Nat) : (writeFields d off v).stores = d.stores :=
  Dev.stores_foldl _ (fun d f => by split <;> rfl) _ d

@[simp] theorem writeRw_stores (off v : Nat) : (writeRw d off v).stores = d.stores :=
  Dev.stores_foldl _ (fun d f => by split <;> rfl) _ d

/-! ### Sync objects -/

@[simp] theorem Dev.finish_stores (ch seq : Nat) : (d.finish ch seq).stores = d.stores := by
  unfold Dev.finish
  split
  · rfl
  · split
    · rfl
    · dsimp only
      split <;> split <;> rfl

@[simp] theorem Dev.waitEnds_stores (n : Nat) : (d.waitEnds n).stores = d.stores :=
  (Dev.countFree_stores _ _).trans (d.updCore_stores n _ fun _ => rfl)

@[simp] theorem Dev.testWaiters_stores (o : Nat) : (d.testWaiters o).stores = d.stores := by
  unfold Dev.testWaiters
  dsimp only
  rw [Dev.stores_foldl _ (fun d w => by split <;> simp), Dev.stores_foldl _ Dev.waitEnds_stores]

@[simp] theorem Dev.syncSet_stores (o v : Nat) : (d.syncSet o v).stores = d.stores := Dev.testWaiters_stores _ _

@[simp] theorem Dev.syncAdd_stores (o v : Nat) : (d.syncAdd o v).stores = d.stores := Dev.syncSet_stores _ _ _

@[simp] theorem hostSyncSet_stores (o v : Nat) : (hostSyncSet d o v).stores = d.stores := Dev.syncSet_stores _ _ _

/-! ### Faults of translation -/

@[simp] theorem Dev.putFault_stores (c : Ctl) (new : Bool) (p : PendFault) : (d.putFault c new p).stores = d.stores := by
  unfold Dev.putFault
  dsimp only
  split
  · rfl
  · split
    · split <;> rfl
    · split <;> rfl

@[simp] theorem Dev.openWaiting_stores (c : Ctl) : (d.openWaiting c).stores = d.stores :=
  Dev.stores_foldl _ (fun d p => d.putFault_stores c false p) _ _

@[simp] theorem Dev.freeFault_stores (c : Ctl) (n : Nat) : (d.freeFault c n).stores = d.stores := by
  unfold Dev.freeFault
  split
  · rfl
  · rw [Dev.openWaiting_stores, Dev.stores_foldl _ (fun d _ => d.countFree_stores _), Dev.setFault_stores]

@[simp] theorem invCtrlWrite_stores (c : Ctl) (fn val : Nat) : (invCtrlWrite c d fn val).stores = d.stores := by
  unfold invCtrlWrite
  refine hostWrite_stores _ _ _ _ _ _ ?_
  dsimp only
  split
  · rw [Dev.acceptInv_stores, writeRw_stores]
  · rw [dropWrite_stores, Dev.raise_stores, writeRw_stores]

/-! ### Packets and ports -/

@[simp] theorem Dev.sendOn_stores (p : Nat) (k : Pkt) : (d.sendOn p k).stores = d.stores := rfl

@[simp] theorem Dev.unbuffer_stores (w : Waiting) : (d.unbuffer w).stores = d.stores := by
  unfold Dev.unbuffer
  dsimp only
  split <;> rfl

theorem Dev.sendNext_stores {c : Ctl} {q : Nat} {e : Dev} (h : d.sendNext c q = some e) : e.stores = d.stores := by
  obtain ⟨w, -, rfl⟩ := Option.map_eq_some_iff.mp h
  simp

theorem Dev.sendNext_getD_stores (c : Ctl) (q : Nat) : ((d.sendNext c q).getD d).stores = d.stores := by
  cases hs : d.sendNext c q with
  | none => rfl
  | some e => exact d.sendNext_stores hs

@[simp] theorem Dev.enter_stores (c : Ctl) (p : Nat) (k : Pkt) : (d.enter c p k).stores = d.stores := Dev.sendNext_getD_stores _ c p

@[simp] theorem Dev.inject_stores (c : Ctl) (p dst : Nat) (cls : PktClass) (payload : Nat) (b : PktBody) :
    (d.inject c p dst cls payload b).stores = d.stores := Dev.stores_foldl _ (fun d _ => d.enter_stores c p _) _ d

@[simp] theorem Dev.twinSend_stores (c : Ctl) (cls : PktClass) (payload : Nat) (m : TwinMsg) : (d.twinSend c cls payload m).stores = d.stores := by
  unfold Dev.twinSend
  split <;> simp

@[simp] theorem Dev.putResponse_stores (core : Nat) (port : Option Nat) (m : GeMsg) : (d.putResponse core port m).stores = d.stores := by
  unfold Dev.putResponse Dev.holdMsg
  split <;> simp

@[simp] theorem Dev.geRespond_stores (c : Ctl) (f : Nat) (rcv : BasketRef) (payload : Nat) (m : GeMsg) :
    (d.geRespond c f rcv payload m).stores = d.stores := by
  unfold Dev.geRespond
  split
  · simp
  · split
    · simp
    · split <;> simp

@[simp] theorem Dev.putMsg_stores (c : Ctl) (core : Nat) (port : Option Nat) (m : GeMsg) : (d.putMsg c core port m).stores = d.stores := by
  unfold Dev.putMsg Dev.holdMsg
  split
  · simp
  · split
    · simp
    · split <;> simp

@[simp] theorem Dev.deliver_stores (c : Ctl) (p : Nat) (k : Pkt) : (d.deliver c p k).stores = d.stores := by
  unfold Dev.deliver
  split
  · simp
  · rfl
  · rfl
  · rfl

@[simp] theorem Dev.routeDown_stores (p : Nat) : (d.routeDown p).stores = d.stores := rfl

@[simp] theorem Dev.answerDown_stores (c : Ctl) (q : Nat) (k : Pkt) (b : PktBody) : (d.answerDown c q k b).stores = d.stores := by
  unfold Dev.answerDown
  split
  · split <;> simp
  · simp

@[simp] theorem Dev.meetsDown_stores (c : Ctl) (q : Nat) (k : Pkt) : (d.meetsDown c q k).stores = d.stores := by
  unfold Dev.meetsDown
  dsimp only
  split <;> split <;> simp

theorem Dev.routeOne_stores {c : Ctl} {e : Dev} (h : d.routeOne c = some e) : e.stores = d.stores := by
  unfold Dev.routeOne at h
  dsimp only at h
  split at h
  · injection h with h
    simp [← h]
  · split at h
    · injection h with h
      simp [← h]
    · obtain ⟨q, -, hq⟩ := List.exists_of_findSome?_eq_some h
      exact d.sendNext_stores hq

@[simp] theorem Dev.routeN_stores (c : Ctl) (n : Nat) : (Dev.routeN c n d).stores = d.stores := by
  induction n generalizing d with
  | zero => rfl
  | succ n ih =>
    rw [Dev.routeN]
    split
    · rfl
    next e he => rw [ih, d.routeOne_stores he]

@[simp] theorem Dev.runRouter_stores (c : Ctl) : (d.runRouter c).stores = d.stores := Dev.routeN_stores _ c _

@[simp] theorem Dev.linkLost_stores (c : Ctl) (p : Nat) (st : PortState) : (d.linkLost c p st).stores = d.stores := by
  unfold Dev.linkLost
  dsimp only
  rw [Dev.runRouter_stores, Dev.stores_foldl _ (fun d k => d.meetsDown_stores c p k)]
  split <;> split <;> split <;> rfl

@[simp] theorem Dev.portGoesUp_stores (p : Nat) : (d.portGoesUp p).stores = d.stores := rfl
@[simp] theorem Dev.portMismatch_stores (p cause : Nat) : (d.portMismatch p cause).stores = d.stores := rfl
@[simp] theorem Dev.portGoesDown_stores (c : Ctl) (p : Nat) : (d.portGoesDown c p).stores = d.stores := d.linkLost_stores c p .down

@[simp] theorem Dev.retrain_stores (c : Ctl) (p : Nat) : (d.retrain c p).stores = d.stores := by
  unfold Dev.retrain Dev.portTrains
  split
  · dsimp only
    split
    · exact d.linkLost_stores c p .training
    · exact d.linkLost_stores c p .training
  · rfl

@[simp] theorem Dev.offerPairing_stores (c : Ctl) : (d.offerPairing c).stores = d.stores := by
  unfold Dev.offerPairing
  split <;> rfl

@[simp] theorem Dev.pairs_stores : d.pairs.stores = d.stores := by
  unfold Dev.pairs
  dsimp only
  split <;> rfl

@[simp] theorem Dev.twinTakes_stores (cls : PktClass) (payload : Nat) : (d.twinTakes cls payload).stores = d.stores := rfl

/-! ### Attach, keys, governor -/

@[simp] theorem Dev.leave_stores (state : Nat) : (d.leave state).stores = d.stores := by
  unfold Dev.leave
  dsimp only
  split <;> rfl

@[simp] theorem keyRefused_stores (c : Ctl) (code : Nat) : (keyRefused c d code).2.stores = d.stores := rfl

@[simp] theorem Dev.enableCh_stores (ch : Nat) : (d.enableCh ch).stores = d.stores := by
  unfold Dev.enableCh
  dsimp only
  rw [Dev.setReg_stores, Dev.updChan_stores, Dev.stores_foldl _ (fun d _ => d.updClient_stores _ _)]

@[simp] theorem Dev.govRegs_stores (x : PowerSample) : (d.govRegs x).stores = d.stores := rfl

@[simp] theorem Dev.govFacet_stores (c : Ctl) (x : PowerSample) (f share : Nat) : (d.govFacet c x f share).stores = d.stores := by
  unfold Dev.govFacet
  dsimp only
  split <;> split <;> split <;> rfl

/-! ### Registers with effects of their own -/

@[simp] theorem lockedWrite_stores (c : Ctl) (fn base word val : Nat) (firstFree : Bool) :
    (lockedWrite c d fn base word val firstFree).stores = d.stores := by
  refine hostWrite_stores _ _ _ _ _ _ ?_
  split <;> simp

@[simp] theorem queueCfgWrite_stores (c : Ctl) (fn q word val : Nat) : (queueCfgWrite c d fn q word val).stores = d.stores := by
  refine hostWrite_stores _ _ _ _ _ _ ?_
  split <;> simp

@[simp] theorem feChCfgWrite_stores (c : Ctl) (fn ch word val : Nat) : (feChCfgWrite c d fn ch word val).stores = d.stores := by
  have hzero (e : Dev) :
      (if word = 3 then (e.updChan ch (fun h => { h with cmplProd := 0 })).setReg (baseCh ch + 0x2C) 0 else e).stores = e.stores := by split <;> rfl
  refine hostWrite_stores _ _ _ _ _ _ ?_
  dsimp only
  split
  · split
    · split <;> simp
    · split
      · simp
      · split
        · rw [hzero, writeFields_stores]
        · simp
  · split
    · split
      · simp
      · rw [Dev.enableCh_stores, hzero, writeFields_stores]
    · rw [hzero, writeFields_stores]

@[simp] theorem twMirrorCfgWrite_stores (c : Ctl) (fn f word val : Nat) : (twMirrorCfgWrite c d fn f word val).stores = d.stores := by
  refine hostWrite_stores _ _ _ _ _ _ ?_
  dsimp only
  split
  · simp
  split
  · simp
  split
  · simp
  · split <;> simp

@[simp] theorem hostRidWrite_stores (c : Ctl) (fn val : Nat) : (hostRidWrite c d fn val).stores = d.stores := by
  refine hostWrite_stores _ _ _ _ _ _ ?_
  rw [Dev.updHl_stores, writeFields_stores]

@[simp] theorem histIndexWrite_stores (c : Ctl) (fn val : Nat) : (histIndexWrite c d fn val).2.stores = d.stores := by
  unfold histIndexWrite
  dsimp only
  split <;> simp

@[simp] theorem fwLoadWrite_stores (c : Ctl) (fn val : Nat) : (fwLoadWrite c d fn val).2.stores = d.stores := by
  unfold fwLoadWrite
  dsimp only
  split <;> simp

@[simp] theorem histData_stores (c : Ctl) : (histData c d).2.1.stores = d.stores := by
  unfold histData
  dsimp only
  split
  · split <;> rfl
  · rfl

@[simp] theorem clearRc_stores (off : Nat) : (clearRc d off).stores = d.stores :=
  Dev.stores_foldl _ (fun d f => by split <;> rfl) _ d

@[simp] theorem regRead_stores (c : Ctl) (off : Nat) : (regRead c d off).stores = d.stores := by
  unfold regRead
  split
  · rfl
  split
  · rfl
  split
  · rfl
  split
  · rfl
  · exact clearRc_stores _ off

/-- A read of the control window stores nothing. -/
@[simp] theorem windowRead_stores (c : Ctl) (fn off width : Nat) : (windowRead c d fn off width).2.stores = d.stores := by
  unfold windowRead
  dsimp only
  split
  · exact d.violate_stores _
  split
  · rfl
  split
  · rfl
  split
  · exact histData_stores d c
  · exact regRead_stores d c off

end

end Sys2Proof.Machine
end

section
/-! SUPPORT. The control commands leave HBM, the memory-side cache and Core Store. -/

namespace Sys2Proof.Machine
open Sys2Proof.Claims

/-- A meaning of the running logic keeps the stores when its effect does. -/
theorem onDev_stores {s t : State} {f : Ctl → Dev → Dev} (ht : onDev s f = .next t) (h : (f s.ctl s.dev).stores = s.dev.stores) :
    t.dev.stores = s.dev.stores := by
  injection ht with ht
  subst ht
  split
  · exact h
  · rfl

theorem onAll_stores {s t : State} {f : Ctl → Dev → Ctl × Dev} (ht : onAll s f = .next t) (h : (f s.ctl s.dev).2.stores = s.dev.stores) :
    t.dev.stores = s.dev.stores := by
  injection ht with ht
  subst ht
  split
  · exact h
  · rfl

section
variable {s t : State}

theorem execSyncObjectWrite_stores (fn : Fin 16) (obj : Fin 131072) (val : BitVec 64) (ht : execSyncObjectWrite fn obj val s = .next t) :
    t.dev.stores = s.dev.stores := by
  unfold execSyncObjectWrite at ht
  exact onDev_stores ht (hostWrite_stores _ _ _ _ _ _ (hostSyncSet_stores _ _ _))

theorem execRetry_stores (fn : Fin 16) (entry : Fin 256) (ht : execRetry fn entry s = .next t) : t.dev.stores = s.dev.stores := by
  unfold execRetry at ht
  exact onDev_stores ht (hostWrite_stores _ _ _ _ _ _ (Dev.freeFault_stores _ _ _))

theorem execAbort_stores (fn : Fin 16) (entry : Fin 256) (ht : execAbort fn entry s = .next t) : t.dev.stores = s.dev.stores := by
  unfold execAbort at ht
  refine onDev_stores ht (hostWrite_stores _ _ _ _ _ _ ?_)
  split
  · rfl
  · exact Dev.freeFault_stores _ _ _

theorem execRange_stores (fn : Fin 16) (val : Word) (ht : execRange fn val s = .next t) : t.dev.stores = s.dev.stores := by
  unfold execRange at ht
  exact onDev_stores ht (invCtrlWrite_stores _ _ _ _)

theorem execAspace_stores (fn : Fin 16) (val : Word) (ht : execAspace fn val s = .next t) : t.dev.stores = s.dev.stores := by
  unfold execAspace at ht
  exact onDev_stores ht (invCtrlWrite_stores _ _ _ _)

theorem execFacet_stores (fn : Fin 16) (val : Word) (ht : execFacet fn val s = .next t) : t.dev.stores = s.dev.stores := by
  unfold execFacet at ht
  exact onDev_stores ht (invCtrlWrite_stores _ _ _ _)

theorem execInvDone_stores (ht : execInvDone s = .next t) : t.dev.stores = s.dev.stores := by
  unfold execInvDone at ht
  refine onDev_stores ht ?_
  split
  · rfl
  · dsimp only
    split
    · rfl
    · rename_i v rest _ _
      have hsync (e : Dev) : (if v.syncEn then e.syncAdd v.sync 1 else e).stores = e.stores := by split <;> simp
      split
      · rw [Dev.finish_stores, hsync]
        rfl
      · rw [hsync]
        rfl

theorem execTrCoreFlush_stores (fn : Fin 16) (core : Fin 128) (ht : execTrCoreFlush fn core s = .next t) : t.dev.stores = s.dev.stores := by
  unfold execTrCoreFlush at ht
  exact onDev_stores ht (hostWrite_stores _ _ _ _ _ _ (Dev.updCore_stores _ _ _ fun _ => rfl))

theorem execClear_stores (fn : Fin 16) (f : Fin 16) (ht : execClear fn f s = .next t) : t.dev.stores = s.dev.stores := by
  unfold execClear at ht
  exact onDev_stores ht (hostWrite_stores _ _ _ _ _ _ rfl)

theorem execContextWrite_stores (fn : Fin 16) (asp : Fin 1024) (word : Fin 5) (val : Word) (ht : execContextWrite fn asp word val s = .next t) :
    t.dev.stores = s.dev.stores := by
  unfold execContextWrite at ht
  exact onDev_stores ht (lockedWrite_stores _ _ _ _ _ _ _)

theorem execHostWindowEntryWrite_stores (fn : Fin 16) (w : Fin 1024) (word : Fin 4) (val : Word) (ht : execHostWindowEntryWrite fn w word val s = .next t) :
    t.dev.stores = s.dev.stores := by
  unfold execHostWindowEntryWrite at ht
  exact onDev_stores ht (lockedWrite_stores _ _ _ _ _ _ _)

theorem execImportEntryWrite_stores (fn : Fin 16) (k : Fin 4096) (word : Fin 4) (val : Word) (ht : execImportEntryWrite fn k word val s = .next t) :
    t.dev.stores = s.dev.stores := by
  unfold execImportEntryWrite at ht
  exact onDev_stores ht (lockedWrite_stores _ _ _ _ _ _ _)

theorem execFeChCfgWrite_stores (fn : Fin 16) (ch : Fin 4096) (word : Fin 5) (val : Word) (ht : execFeChCfgWrite fn ch word val s = .next t) :
    t.dev.stores = s.dev.stores := by
  unfold execFeChCfgWrite at ht
  exact onDev_stores ht (feChCfgWrite_stores _ _ _ _ _ _)

theorem execReleaseHold_stores (fn : Fin 16) (ch : Fin 4096) (ht : execReleaseHold fn ch s = .next t) : t.dev.stores = s.dev.stores := by
  unfold execReleaseHold at ht
  exact onDev_stores ht (hostWrite_stores _ _ _ _ _ _ rfl)

theorem execDeviceQueueConfigWrite_stores (fn : Fin 16) (q : Fin 256) (word : Fin 3) (val : Word) (ht : execDeviceQueueConfigWrite fn q word val s = .next t) :
    t.dev.stores = s.dev.stores := by
  unfold execDeviceQueueConfigWrite at ht
  exact onDev_stores ht (queueCfgWrite_stores _ _ _ _ _ _)

theorem execEklLinkUp_stores (ht : execEklLinkUp s = .next t) : t.dev.stores = s.dev.stores := by
  unfold execEklLinkUp at ht
  exact onDev_stores ht rfl

theorem execPcieLinkUp_stores (ht : execPcieLinkUp s = .next t) : t.dev.stores = s.dev.stores := by
  unfold execPcieLinkUp at ht
  exact onDev_stores ht rfl

theorem execFunctionLevelReset_stores (fn : Fin 16) (ht : execFunctionLevelReset fn s = .next t) : t.dev.stores = s.dev.stores := by
  unfold execFunctionLevelReset at ht
  exact onDev_stores ht rfl

theorem execRequest_stores (fn : Fin 16) (token : BitVec 16) (ht : execRequest fn token s = .next t) : t.dev.stores = s.dev.stores := by
  unfold execRequest at ht
  refine onDev_stores ht (hostWrite_stores _ _ _ _ _ _ ?_)
  dsimp only
  rw [Dev.updHl_stores, Dev.leave_stores, Dev.setFld_stores]

theorem execComplete_stores (fn : Fin 16) (ht : execComplete fn s = .next t) : t.dev.stores = s.dev.stores := by
  unfold execComplete at ht
  refine onDev_stores ht (hostWrite_stores _ _ _ _ _ _ ?_)
  split
  · simp
  · split <;> simp

theorem execDetach_stores (fn : Fin 16) (ht : execDetach fn s = .next t) : t.dev.stores = s.dev.stores := by
  unfold execDetach at ht
  exact onDev_stores ht (hostWrite_stores _ _ _ _ _ _ (Dev.leave_stores _ _))

theorem execHlHostRidWrite_stores (fn : Fin 16) (val : Word) (ht : execHlHostRidWrite fn val s = .next t) : t.dev.stores = s.dev.stores := by
  unfold execHlHostRidWrite at ht
  exact onDev_stores ht (hostRidWrite_stores _ _ _ _)

theorem execFlushReadIssue_stores (ht : execFlushReadIssue s = .next t) : t.dev.stores = s.dev.stores := by
  unfold execFlushReadIssue at ht
  refine onDev_stores ht ?_
  split <;> rfl

theorem execFlushReadDone_stores (ok : Bool) (ht : execFlushReadDone ok s = .next t) : t.dev.stores = s.dev.stores := by
  unfold execFlushReadDone at ht
  refine onDev_stores ht ?_
  split
  · rfl
  · dsimp only
    split
    · rfl
    · rw [Dev.raise_stores, Dev.stores_foldl _ (fun d _ => d.notWritten_stores _), Dev.updHl_stores]

theorem execMsixMessage_stores (src : Fin 4160) (masked : Bool) (ht : execMsixMessage src masked s = .next t) : t.dev.stores = s.dev.stores := by
  unfold execMsixMessage at ht
  refine onDev_stores ht ?_
  dsimp only
  split <;> rfl

theorem execAgHistIndexWrite_stores (fn : Fin 16) (val : Word) (ht : execAgHistIndexWrite fn val s = .next t) : t.dev.stores = s.dev.stores := by
  unfold execAgHistIndexWrite at ht
  exact onAll_stores ht (histIndexWrite_stores _ _ _ _)

theorem execAgHistDataRead_stores (fn : Fin 16) (ht : execAgHistDataRead fn s = .next t) : t.dev.stores = s.dev.stores := by
  unfold execAgHistDataRead at ht
  exact onAll_stores ht (windowRead_stores _ _ _ _ _)

theorem execPeriodicMeasurement_stores (ht : execPeriodicMeasurement s = .next t) : t.dev.stores = s.dev.stores := by
  unfold execPeriodicMeasurement at ht
  exact onAll_stores ht rfl

theorem execMeasure_stores (fn : Fin 16) (ht : execMeasure fn s = .next t) : t.dev.stores = s.dev.stores := by
  unfold execMeasure at ht
  exact onAll_stores ht (checkWrite_stores _ _ _ _ _)

theorem execClockRelockEnd_stores (p : Fin 132) (ht : execClockRelockEnd p s = .next t) : t.dev.stores = s.dev.stores := by
  unfold execClockRelockEnd at ht
  exact onAll_stores ht rfl

theorem execViolationLogWrite_stores (ht : execViolationLogWrite s = .next t) : t.dev.stores = s.dev.stores := by
  unfold execViolationLogWrite at ht
  refine onDev_stores ht ?_
  split
  · rfl
  · dsimp only
    rw [Dev.irq_stores, Dev.setReg_stores, Dev.putWords_stores]
    rfl

theorem execRelease_stores (fn : Fin 16) (core : Fin 128) (ht : execRelease fn core s = .next t) : t.dev.stores = s.dev.stores := by
  unfold execRelease at ht
  exact onDev_stores ht (hostWrite_stores _ _ _ _ _ _ (Dev.updCore_stores _ _ _ fun _ => by split <;> rfl))

theorem execStop_stores (fn : Fin 16) (f : Fin 16) (ht : execStop fn f s = .next t) : t.dev.stores = s.dev.stores := by
  unfold execStop at ht
  exact onDev_stores ht (hostWrite_stores _ _ _ _ _ _ rfl)

theorem execGo_stores (fn : Fin 16) (f : Fin 16) (ht : execGo fn f s = .next t) : t.dev.stores = s.dev.stores := by
  unfold execGo at ht
  refine onAll_stores ht ?_
  dsimp only
  split
  · simp
  · split <;> simp

theorem execKeyCommand_stores (fn : Fin 16) (ht : execKeyCommand fn s = .next t) : t.dev.stores = s.dev.stores := by
  unfold execKeyCommand at ht
  refine onAll_stores ht ?_
  dsimp only
  split
  · simp
  · split <;> simp [Dev.readKeyRecord]

theorem execKeyRecordReadDone_stores (ok : Bool) (record : List Byte) (ht : execKeyRecordReadDone ok record s = .next t) :
    t.dev.stores = s.dev.stores := by
  unfold execKeyRecordReadDone at ht
  refine onAll_stores ht ?_
  split
  · rfl
  · split
    · rfl
    · dsimp only
      split <;> rfl

theorem execKeySlotWriteDone_stores (ok : Bool) (ht : execKeySlotWriteDone ok s = .next t) : t.dev.stores = s.dev.stores := by
  unfold execKeySlotWriteDone at ht
  refine onAll_stores ht ?_
  split
  · split <;> rfl
  · rfl

theorem execAttest_stores (fn : Fin 16) (ht : execAttest fn s = .next t) : t.dev.stores = s.dev.stores := by
  unfold execAttest at ht
  refine onAll_stores ht ?_
  dsimp only
  split <;> simp

theorem execAttestNonceReadDone_stores (nonce : List Byte) (ht : execAttestNonceReadDone nonce s = .next t) : t.dev.stores = s.dev.stores := by
  unfold execAttestNonceReadDone at ht
  refine onAll_stores ht ?_
  split <;> rfl

theorem execGovernorSample_stores (sample : PowerSample) (ht : execGovernorSample sample s = .next t) : t.dev.stores = s.dev.stores := by
  unfold execGovernorSample at ht
  exact onAll_stores ht (Dev.stores_foldl _ (fun d _ => d.govFacet_stores _ _ _ _) _ _)

theorem execGovernorWindow_stores (ht : execGovernorWindow s = .next t) : t.dev.stores = s.dev.stores := by
  unfold execGovernorWindow at ht
  refine onDev_stores ht ?_
  dsimp only
  rw [Dev.stores_foldl _ (fun d y => by split <;> rfl)]
  split <;> rfl

theorem execThermalHoldStart_stores (tj tcase : BitVec 8) (ht : execThermalHoldStart tj tcase s = .next t) : t.dev.stores = s.dev.stores := by
  unfold execThermalHoldStart at ht
  refine onAll_stores ht ?_
  split <;> rfl

theorem execThermalHoldEnd_stores (tj tcase : BitVec 8) (ht : execThermalHoldEnd tj tcase s = .next t) : t.dev.stores = s.dev.stores := by
  unfold execThermalHoldEnd at ht
  refine onAll_stores ht ?_
  split <;> rfl

theorem execPortLanesTrained_stores (p : Fin 7) (ht : execPortLanesTrained p s = .next t) : t.dev.stores = s.dev.stores := by
  unfold execPortLanesTrained at ht
  refine onDev_stores ht ?_
  split
  · rfl
  · dsimp only
    split
    · exact Dev.offerPairing_stores _ _
    · rfl

theorem execIdentityFlitArrival_stores (p : Fin 6) (peer : Identity) (ht : execIdentityFlitArrival p peer s = .next t) :
    t.dev.stores = s.dev.stores := by
  unfold execIdentityFlitArrival at ht
  refine onDev_stores ht ?_
  split
  · rfl
  · dsimp only
    split <;> rfl

theorem execLaneFailure_stores (p : Fin 7) (ht : execLaneFailure p s = .next t) : t.dev.stores = s.dev.stores := by
  unfold execLaneFailure at ht
  refine onDev_stores ht ?_
  split
  · rfl
  · simp

theorem execReplayFailure_stores (p : Fin 7) (ht : execReplayFailure p s = .next t) : t.dev.stores = s.dev.stores := by
  unfold execReplayFailure at ht
  refine onDev_stores ht ?_
  split
  · simp
  · rfl

theorem execPortRetrainTimer_stores (p : Fin 7) (ht : execPortRetrainTimer p s = .next t) : t.dev.stores = s.dev.stores := by
  unfold execPortRetrainTimer at ht
  exact onDev_stores ht (Dev.retrain_stores _ _ _)

theorem execRetrain_stores (fn : Fin 16) (p : Fin 7) (ht : execRetrain fn p s = .next t) : t.dev.stores = s.dev.stores := by
  unfold execRetrain at ht
  exact onDev_stores ht (hostWrite_stores _ _ _ _ _ _ (Dev.retrain_stores _ _ _))

theorem execPortTrainingFailed_stores (p : Fin 7) (ht : execPortTrainingFailed p s = .next t) : t.dev.stores = s.dev.stores := by
  unfold execPortTrainingFailed at ht
  refine onDev_stores ht ?_
  split
  · simp
  · rfl

theorem execHeartbeatSend_stores (ht : execHeartbeatSend s = .next t) : t.dev.stores = s.dev.stores := by
  unfold execHeartbeatSend at ht
  refine onDev_stores ht ?_
  split
  · rfl
  · simp

theorem execPartnerLost_stores (ht : execPartnerLost s = .next t) : t.dev.stores = s.dev.stores := by
  unfold execPartnerLost at ht
  refine onDev_stores ht ?_
  split
  · rfl
  · simp only [Dev.irq_stores, Dev.raise_stores, Dev.updTwin_stores]
    split <;> rfl

theorem execTwMirrorCfgWrite_stores (fn : Fin 16) (f : Fin 16) (word : Fin 4) (val : Word) (ht : execTwMirrorCfgWrite fn f word val s = .next t) :
    t.dev.stores = s.dev.stores := by
  unfold execTwMirrorCfgWrite at ht
  exact onDev_stores ht (twMirrorCfgWrite_stores _ _ _ _ _ _)

theorem execRestart_stores (fn : Fin 16) (f : Fin 16) (ht : execRestart fn f s = .next t) : t.dev.stores = s.dev.stores := by
  unfold execRestart at ht
  exact onDev_stores ht (hostWrite_stores _ _ _ _ _ _ rfl)

theorem execMirrorAckArrival_stores (f : Fin 16) (seq : Nat) (status : BitVec 16) (ht : execMirrorAckArrival f seq status s = .next t) :
    t.dev.stores = s.dev.stores := by
  unfold execMirrorAckArrival at ht
  refine onDev_stores ht ?_
  split
  · rfl
  · dsimp only
    split
    · rfl
    · split
      · split <;> simp
      · split <;> simp

theorem execTwinPairing_stores (peer : TwinIdentity) (ht : execTwinPairing peer s = .next t) : t.dev.stores = s.dev.stores := by
  unfold execTwinPairing at ht
  refine onDev_stores ht ?_
  split
  · rfl
  · split
    · rfl
    · dsimp only
      split <;> simp

theorem execChannelFailed_stores (ch : Fin 384) (ht : execChannelFailed ch s = .next t) : t.dev.stores = s.dev.stores := by
  unfold execChannelFailed at ht
  refine onDev_stores ht ?_
  dsimp only
  split
  · simp
  · rfl

theorem execPointRequestAged_stores (ch : Fin 384) (n : Nat) (ht : execPointRequestAged ch n s = .next t) : t.dev.stores = s.dev.stores := by
  unfold execPointRequestAged at ht
  exact onDev_stores ht rfl

theorem execFirmwareBankVerify_stores (ht : execFirmwareBankVerify s = .next t) : t.dev.stores = s.dev.stores := by
  unfold execFirmwareBankVerify at ht
  refine onAll_stores ht ?_
  split
  · rfl
  · dsimp only
    split
    · rfl
    · split <;> rfl

theorem execFwLoad_stores (fn : Fin 16) (ok : Bool) (image : List Byte) (ht : execFwLoad fn ok image s = .next t) : t.dev.stores = s.dev.stores := by
  unfold execFwLoad at ht
  refine onAll_stores ht ?_
  split
  · rfl
  · exact fwLoadWrite_stores _ _ _ _

theorem execBistEnd_stores (failed : BitVec 132) (slack : List (BitVec 8)) (ht : execBistEnd failed slack s = .next t) :
    t.dev.stores = s.dev.stores := by
  unfold execBistEnd at ht
  refine onAll_stores ht ?_
  split <;> rfl

theorem execFacetDrain_stores (fn : Fin 16) (b : BitVec 16) (ht : execFacetDrain fn b s = .next t) : t.dev.stores = s.dev.stores := by
  unfold execFacetDrain at ht
  refine onAll_stores ht ?_
  dsimp only
  split <;> simp

theorem execFacetResume_stores (fn : Fin 16) (b : BitVec 16) (ht : execFacetResume fn b s = .next t) : t.dev.stores = s.dev.stores := by
  unfold execFacetResume at ht
  refine onAll_stores ht ?_
  dsimp only
  split <;> simp

theorem execFlushAs_stores (fn : Fin 16) (ht : execFlushAs fn s = .next t) : t.dev.stores = s.dev.stores := by
  unfold execFlushAs at ht
  refine onDev_stores ht (hostWrite_stores _ _ _ _ _ _ ?_)
  split <;> simp

theorem execFlushAll_stores (fn : Fin 16) (ht : execFlushAll fn s = .next t) : t.dev.stores = s.dev.stores := by
  unfold execFlushAll at ht
  exact onDev_stores ht (hostWrite_stores _ _ _ _ _ _ rfl)

end

/-- Every command of leavesMemory keeps the stores. -/
theorem exec_stores (i : Instr) (s t : State) (hi : leavesMemory i = true) (ht : exec i s = .next t) : t.dev.stores = s.dev.stores := by
  cases i with
  | syncObjectWrite => exact execSyncObjectWrite_stores _ _ _ ht
  | retry => exact execRetry_stores _ _ ht
  | abort => exact execAbort_stores _ _ ht
  | range => exact execRange_stores _ _ ht
  | aspace => exact execAspace_stores _ _ ht
  | facet => exact execFacet_stores _ _ ht
  | invDone => exact execInvDone_stores ht
  | trCoreFlush => exact execTrCoreFlush_stores _ _ ht
  | clear => exact execClear_stores _ _ ht
  | contextWrite => exact execContextWrite_stores _ _ _ _ ht
  | hostWindowEntryWrite => exact execHostWindowEntryWrite_stores _ _ _ _ ht
  | importEntryWrite => exact execImportEntryWrite_stores _ _ _ _ ht
  | feChCfgWrite => exact execFeChCfgWrite_stores _ _ _ _ ht
  | releaseHold => exact execReleaseHold_stores _ _ ht
  | deviceQueueConfigWrite => exact execDeviceQueueConfigWrite_stores _ _ _ _ ht
  | eklLinkUp => exact execEklLinkUp_stores ht
  | pcieLinkUp => exact execPcieLinkUp_stores ht
  | functionLevelReset fn => exact execFunctionLevelReset_stores fn ht
  | request => exact execRequest_stores _ _ ht
  | complete => exact execComplete_stores _ ht
  | detach => exact execDetach_stores _ ht
  | hlHostRidWrite => exact execHlHostRidWrite_stores _ _ ht
  | flushReadIssue => exact execFlushReadIssue_stores ht
  | flushReadDone => exact execFlushReadDone_stores _ ht
  | msixMessage => exact execMsixMessage_stores _ _ ht
  | agHistIndexWrite => exact execAgHistIndexWrite_stores _ _ ht
  | agHistDataRead => exact execAgHistDataRead_stores _ ht
  | periodicMeasurement => exact execPeriodicMeasurement_stores ht
  | measure => exact execMeasure_stores _ ht
  | clockRelockEnd => exact execClockRelockEnd_stores _ ht
  | violationLogWrite => exact execViolationLogWrite_stores ht
  | release => exact execRelease_stores _ _ ht
  | stop => exact execStop_stores _ _ ht
  | go => exact execGo_stores _ _ ht
  | keyCommand => exact execKeyCommand_stores _ ht
  | keyRecordReadDone => exact execKeyRecordReadDone_stores _ _ ht
  | keySlotWriteDone => exact execKeySlotWriteDone_stores _ ht
  | attest => exact execAttest_stores _ ht
  | attestNonceReadDone => exact execAttestNonceReadDone_stores _ ht
  | governorSample => exact execGovernorSample_stores _ ht
  | governorWindow => exact execGovernorWindow_stores ht
  | thermalHoldStart => exact execThermalHoldStart_stores _ _ ht
  | thermalHoldEnd => exact execThermalHoldEnd_stores _ _ ht
  | portLanesTrained => exact execPortLanesTrained_stores _ ht
  | identityFlitArrival => exact execIdentityFlitArrival_stores _ _ ht
  | laneFailure => exact execLaneFailure_stores _ ht
  | replayFailure => exact execReplayFailure_stores _ ht
  | portRetrainTimer => exact execPortRetrainTimer_stores _ ht
  | retrain => exact execRetrain_stores _ _ ht
  | portTrainingFailed => exact execPortTrainingFailed_stores _ ht
  | heartbeatSend => exact execHeartbeatSend_stores ht
  | partnerLost => exact execPartnerLost_stores ht
  | twMirrorCfgWrite => exact execTwMirrorCfgWrite_stores _ _ _ _ ht
  | restart => exact execRestart_stores _ _ ht
  | mirrorAckArrival => exact execMirrorAckArrival_stores _ _ _ ht
  | twinPairing => exact execTwinPairing_stores _ ht
  | channelFailed => exact execChannelFailed_stores _ ht
  | pointRequestAged => exact execPointRequestAged_stores _ _ ht
  | firmwareBankVerify => exact execFirmwareBankVerify_stores ht
  | fwLoad => exact execFwLoad_stores _ _ _ ht
  | bistEnd => exact execBistEnd_stores _ _ ht
  | facetDrain => exact execFacetDrain_stores _ _ ht
  | facetResume => exact execFacetResume_stores _ _ ht
  | flushAs => exact execFlushAs_stores _ ht
  | flushAll => exact execFlushAll_stores _ ht
  | _ => exact Bool.noConfusion hi

end Sys2Proof.Machine
end

section
/-! SUPPORT. A read at a slice of the memory-side cache, and the scout that makes it (R309 to R311), leave every core as it was. -/

namespace Sys2Proof.Machine
open Sys2Proof.Claims

section
variable (d : Dev)

@[simp] theorem Dev.setLine_cores (k : Nat) (l : Line) : (d.setLine k l).cores = d.cores := rfl
@[simp] theorem Dev.tick_cores : d.tick.cores = d.cores := rfl
@[simp] theorem Dev.recordUe_cores (ch pa source : Nat) : (d.recordUe ch pa source).cores = d.cores := rfl

@[simp] theorem Dev.countRead_cores (ch : Nat) (kind : ReadKind) : (d.countRead ch kind).cores = d.cores := by
  cases kind <;> rfl

@[simp] theorem Dev.hbmRead_cores (c : Ctl) (source ch loc : Nat) (want : Option CryptTag) : (d.hbmRead c source ch loc want).1.cores = d.cores := by
  unfold Dev.hbmRead
  split
  · dsimp only
    split <;> split <;> rfl
  · rfl

@[simp] theorem Dev.hbmWrite_cores (ch loc : Nat) (tag : Option CryptTag) (b : List Byte) (p : Bool) : (d.hbmWrite ch loc tag b p).cores = d.cores := by
  unfold Dev.hbmWrite
  split
  · dsimp only
    split <;> split <;> rfl
  · rfl

@[simp] theorem Dev.writeBack_cores (c : Ctl) (k : Nat) : (d.writeBack c k).cores = d.cores := by
  unfold Dev.writeBack
  dsimp only
  split
  · rfl
  · rw [Dev.setLine_cores]
    split
    · rw [Dev.count_cores, Dev.foldl_keeps Dev.cores _ (fun d i => by simp)]
    · rw [Dev.foldl_keeps Dev.cores _ (fun d i => by simp)]

@[simp] theorem Dev.dropLine_cores (c : Ctl) (k : Nat) : (d.dropLine c k).cores = d.cores := d.writeBack_cores c k

@[simp] theorem Dev.visitSet_cores (c : Ctl) (s f : Nat) (unkeep : Bool) (set : Nat) : (d.visitSet c s f unkeep set).cores = d.cores := by
  unfold Dev.visitSet
  dsimp only
  split
  · exact Dev.foldl_keeps Dev.cores _ (fun d k => by split <;> rfl) _ d
  · exact Dev.foldl_keeps Dev.cores _ (fun d k => d.dropLine_cores c k) _ d

@[simp] theorem Dev.visits_cores (c : Ctl) (s set : Nat) : (d.visits c s set).cores = d.cores := by
  unfold Dev.visits
  split
  · rfl
  · refine Dev.foldl_keeps Dev.cores _ (fun d x => ?_) _ d
    split
    · rfl
    · dsimp only
      split <;> simp

@[simp] theorem Dev.attrCheck_cores (c : Ctl) (ch loc : Nat) (prot : Bool) : (d.attrCheck c ch loc prot).cores = d.cores := by
  unfold Dev.attrCheck
  split
  · rfl
  · split <;> simp

@[simp] theorem Dev.alloc_cores (c : Ctl) (f ch loc : Nat) (keep prot : Bool) : (d.alloc c f ch loc keep prot).1.cores = d.cores := by
  unfold Dev.alloc
  dsimp only
  split
  · rfl
  · rw [Dev.setLine_cores, Dev.tick_cores, Dev.count_cores]
    split
    · rfl
    · simp

@[simp] theorem Dev.mergeQueued_cores (ch pa : Nat) (x : List Byte × Bool) : (d.mergeQueued ch pa x).cores = d.cores := by
  unfold Dev.mergeQueued
  dsimp only
  split <;> rfl

@[simp] theorem Dev.sliceRead_cores (c : Ctl) (w : Who) (pa hint : Nat) (prot : Bool) (kind : ReadKind) (post : Bool) :
    (d.sliceRead c w pa hint prot kind post).1.cores = d.cores := by
  unfold Dev.sliceRead
  extract_lets f pa' tag
  split
  · exact d.violate_cores _
  split
  next ch loc _ =>
  extract_lets s i visited checked down fetch missed
  have hchecked : checked.cores = d.cores := (Dev.attrCheck_cores _ _ _ _ _).trans (d.visits_cores _ _ _)
  have hmissed : missed.cores = d.cores := hchecked
  have hfetch (e : Dev) : (fetch e).1.cores = e.cores := by
    change (if _ then Dev.mergeQueued _ _ _ _ else _ : Dev).cores = e.cores
    split <;> simp
  clear_value fetch missed checked
  split
  next k _ =>
    extract_lets l sec hit
    have hhit : hit.cores = d.cores := hchecked
    clear_value hit
    split
    · split
      · exact hhit
      split
      · exact (hit.dropLine_cores c k).trans hhit
      · exact hhit
    · have hread := hfetch hit
      split
      next e b p he =>
      rw [he, hhit] at hread
      split
      · exact hread
      · extract_lets l' used
        split <;> exact hread
  next =>
    have hread := hfetch missed
    split
    next e b p he =>
    rw [he, hmissed] at hread
    split
    · exact hread
    · have halloc := e.alloc_cores c f ch loc (hint == 1) prot
      split
      next g hg =>
        rw [hg, hread] at halloc
        exact halloc
      next g k hg =>
        rw [hg, hread] at halloc
        exact halloc

/-! ### The scout -/

@[simp] theorem Dev.scoutHeader_cores (c : Ctl) (core as va : Nat) : (d.scoutHeader c core as va).1.cores = d.cores := by
  unfold Dev.scoutHeader
  split
  · rfl
  · extract_lets pa f
    split
    · rfl
    · have hread := d.sliceRead_cores c (whoCore core 4 f) pa 0 false .stream true
      split
      next e b p x he =>
        rw [he] at hread
        exact hread

@[simp] theorem Dev.weightTile_cores (c : Ctl) (core : Nat) (q : QOp) : (d.weightTile c core q).1.cores = d.cores := by
  unfold Dev.weightTile
  dsimp only
  split
  · rfl
  split
  next t _ =>
    split
    · rfl
    · have hheader := d.scoutHeader_cores c core q.as t.base
      split
      next e he =>
        rw [he] at hheader
        exact hheader
      next e h he =>
        rw [he] at hheader
        exact hheader
  next => rfl

/-- The work of the XP's requester is looked at op by op. -/
theorem Dev.weightTiles_cores (c : Ctl) (core : Nat) (l : List QOp) (acc : Dev × List ScoutTile) :
    (l.foldl (fun (acc : Dev × List ScoutTile) q => let (d, l) := acc.1.weightTile c core q; (d, acc.2 ++ l)) acc).1.cores = acc.1.cores := by
  induction l generalizing acc with
  | nil => rfl
  | cons q l ih => rw [List.foldl_cons, ih, Dev.weightTile_cores]

@[simp] theorem Dev.scoutTiles_cores (c : Ctl) (core : Nat) (eng : TrEngine) : (d.scoutTiles c core eng).1.cores = d.cores := by
  cases eng with
  | sq => rfl
  | dma => rfl
  | ge => rfl
  | xp => exact Dev.weightTiles_cores c core _ (d, [])

@[simp] theorem Dev.scoutStart_cores (core eng as page : Nat) : (d.scoutStart core eng as page).cores = d.cores := by
  unfold Dev.scoutStart
  dsimp only
  split <;> rfl

@[simp] theorem Dev.scoutNext_cores (core eng : Nat) (pages : List (Nat × Nat)) : (d.scoutNext core eng pages).cores = d.cores := by
  unfold Dev.scoutNext
  split
  · rfl
  · split <;> simp

/-- A look of the scout leaves every core. -/
theorem exec_scoutWalk_cores {s t : State} {core : Fin 128} {eng : TrEngine} {n : Nat} (ht : exec (.scoutWalk core eng n) s = .next t) :
    t.dev.cores = s.dev.cores := by
  rw [exec, execScoutWalk] at ht
  injection ht with ht
  subst ht
  split
  · exact (Dev.foldl_keeps Dev.cores _ (fun d _ => d.scoutNext_cores _ _ _) _ _).trans (s.dev.scoutTiles_cores s.ctl core eng)
  · rfl

end

/-- Settles O50: a control command keeps the stores whole; a look of the scout keeps every core. -/
theorem controlLeavesMemory : Obligations.ControlLeavesMemory :=
  ⟨fun i s t hi ht => Dev.read_of_stores (exec_stores i s t hi ht),
    fun s t core eng k ht n a => by rw [Dev.core, Dev.core, exec_scoutWalk_cores ht]⟩

end Sys2Proof.Machine
end

section
/-! SUPPORT. Elements of a list by position, and the states of facets (R73): which of them are ABSENT. -/

namespace Sys2Proof.Machine

theorem nth_eq_getD {α : Type} (d : α) (l : List α) (i : Nat) : nth d l i = l[i]?.getD d := by rw [nth, List.head?_drop]

theorem modNth_eq_modify {α : Type} (g : α → α) (n : Nat) (l : List α) : modNth g n l = l.modify n g := by
  induction l generalizing n with
  | nil => cases n <;> rfl
  | cons a l ih =>
    cases n with
    | zero => rfl
    | succ n => rw [modNth, ih, List.modify_succ_cons]

@[simp] theorem length_modNth {α : Type} (g : α → α) (n : Nat) (l : List α) : (modNth g n l).length = l.length := by
  rw [modNth_eq_modify, List.length_modify]

theorem nth_modNth_self {α : Type} (d : α) (g : α → α) (l : List α) (i : Nat) (hi : i < l.length) : nth d (modNth g i l) i = g (nth d l i) := by
  simp [nth_eq_getD, modNth_eq_modify, hi]

theorem nth_modNth_ne {α : Type} (d : α) (g : α → α) (l : List α) (i j : Nat) (hj : j ≠ i) : nth d (modNth g i l) j = nth d l j := by
  simp [nth_eq_getD, modNth_eq_modify, hj.symm]

/-- Which of the facets are ABSENT. -/
def absents (l : List FacetState) : List Bool := l.map (fun x => decide (x = .absent))

@[simp] theorem length_absents (l : List FacetState) : (absents l).length = l.length := List.length_map _

/-- A change of one facet's state that neither makes it ABSENT nor brings it into existence. -/
theorem absents_modNth (g : FacetState → FacetState) (hg : ∀ x, g x = .absent ↔ x = .absent) (n : Nat) (l : List FacetState) :
    absents (modNth g n l) = absents l := by
  induction l generalizing n with
  | nil => cases n <;> rfl
  | cons a l ih =>
    cases n with
    | zero => simp [modNth, absents, hg]
    | succ n => simpa [modNth, absents] using ih n

/-- The facet that is there is put into another state. -/
theorem absents_modNth_const (x : FacetState) (n : Nat) (l : List FacetState) (hx : x ≠ .absent) (hn : nth .absent l n ≠ .absent) :
    absents (modNth (fun _ => x) n l) = absents l := by
  induction l generalizing n with
  | nil => cases n <;> rfl
  | cons a l ih =>
    cases n with
    | zero =>
      have ha : a ≠ .absent := hn
      simp [modNth, absents, hx, ha]
    | succ n => simpa [modNth, absents] using ih n hn

theorem Ctl.fstate_eq_absent_iff (c : Ctl) (f : Nat) : c.fstate f = .absent ↔ nth true (absents c.facetState) f = true := by
  rw [Ctl.fstate, nth_eq_getD, nth_eq_getD, absents, List.getElem?_map]
  cases c.facetState[f]? <;> simp

end Sys2Proof.Machine
end

section
/-! SUPPORT. What the end of a Trail Map load and the margin plan can do to the control part, said once (R78, R446, R451, R483). -/

namespace Sys2Proof.Machine

/-- A resume puts facets that are there back to RUNNING. -/
theorem absents_resumeFacet (c : Ctl) (f : Nat) : absents (c.resumeFacet f).facetState = absents c.facetState :=
  absents_modNth _ (fun x => by cases x <;> simp) f c.facetState

theorem foldl_resumeFacet_ctl (c : Ctl) (go : List Nat) :
    ∃ l, absents l = absents c.facetState ∧ go.foldl Ctl.resumeFacet c = { c with facetState := l } := by
  refine List.foldlRecOn go Ctl.resumeFacet (motive := fun y => ∃ l, absents l = absents c.facetState ∧ y = { c with facetState := l })
    ⟨c.facetState, rfl, rfl⟩ ?_
  rintro _ ⟨l, hl, rfl⟩ f _
  exact ⟨_, (absents_resumeFacet _ f).trans hl, rfl⟩

theorem resumeWaiting_ctl (c : Ctl) :
    ∃ l w, absents l = absents c.facetState ∧ resumeWaiting c = { c with facetState := l, resumeWait := w } := by
  unfold resumeWaiting
  extract_lets go
  obtain ⟨l, hl, he⟩ := foldl_resumeFacet_ctl { c with resumeWait := c.resumeWait.filter (fun f => !go.contains f) } go
  exact ⟨l, _, hl, he⟩

/-- A step of the margin plan reaches the margins, their overlay in flash and the measurement that follows. -/
theorem marginStep_ctl (c : Ctl) (d : Dev) (p : Nat) :
    ∃ m x o, (marginStep c d p).1 = { c with margins := m, measure := x, flash := { c.flash with overlay := o } } := by
  unfold marginStep
  dsimp only
  split
  · exact ⟨_, _, _, rfl⟩
  · split <;> split_ifs <;> exact ⟨_, _, _, rfl⟩

theorem marginPlan_ctl (c : Ctl) (d : Dev) (cores : List Nat) :
    ∃ m x o due, (marginPlan c d cores).1 = { c with margins := m, measure := x, flash := { c.flash with overlay := o }, stepDue := due } := by
  unfold marginPlan
  split
  · exact ⟨_, _, _, _, rfl⟩
  split
  · exact ⟨_, _, _, _, rfl⟩
  · refine List.foldlRecOn cores _ (motive := fun y : Ctl × Dev => ∃ m x o due,
      y.1 = { c with margins := m, measure := x, flash := { c.flash with overlay := o }, stepDue := due }) ⟨_, _, _, _, rfl⟩ ?_
    rintro y ⟨m, x, o, due, hy⟩ p _
    obtain ⟨m', x', o', hs⟩ := marginStep_ctl y.1 y.2 p
    exact ⟨m', x', o', due, by rw [hs, hy]⟩

/-- The end of a load. -/
theorem loadEnded_ctl (c : Ctl) (d : Dev) : ∃ k l w m x o due, absents l = absents c.facetState ∧
    (loadEnded c d).1 = { c with
      load := none, keyPhase := k, facetState := l, resumeWait := w, margins := m, measure := x, flash := { c.flash with overlay := o }
      stepDue := due } := by
  unfold loadEnded stepsDue
  extract_lets c'
  obtain ⟨l, w, hl, hc⟩ := resumeWaiting_ctl { c with load := none, keyPhase := if c.keyPhase = .waiting then .reading else c.keyPhase }
  obtain ⟨m, x, o, due, hm⟩ := marginPlan_ctl { c' with stepDue := [] } ((if c.keyPhase = .waiting then d.readKeyRecord else d).irq 4146) c'.stepDue
  exact ⟨_, l, w, m, x, o, due, hl, by rw [hm, show c' = _ from hc]⟩

end Sys2Proof.Machine
end

section
/-! SUPPORT. The phases of a Trail Map load, and a load refused (R69, R71, R76, R78, R483). -/

namespace Sys2Proof.Machine
open Sys2Proof.Claims

theorem writeRight_without_map (c : Ctl) (fn off : Nat) (h : c.map = none) :
    writeRight c fn off = none ↔ fn = 0 ∧ (blockCode off = 0 ∨ blockCode off = 2 ∨ blockCode off = 5) := by
  simp only [writeRight, h]
  split
  next hright => simpa [or_assoc] using hright
  next hright => simpa [or_assoc] using hright

/-- Settles O9: without a map the right of a write is that of R65, and a write without the right is not admitted. -/
theorem writesWithoutTrailMap : Obligations.WritesWithoutTrailMap := by
  intro c fn off h
  refine ⟨writeRight_without_map c fn off h, fun d width hfn => Bool.eq_false_iff.mpr fun hadmit => ?_⟩
  obtain ⟨-, -, -, hright, -⟩ := (checkWrite_admits_iff c d fn).mp hadmit
  exact hfn ((writeRight_without_map c fn off h).mp hright).1

/-- Settles O7: such a command acts through onDev, which leaves the control part. -/
theorem workLeavesControl : Obligations.WorkLeavesControl := by
  intro i s t hi ht
  obtain ⟨f, hf⟩ := exec_work i s hi
  exact (onDev_next s t f (hf ▸ ht)).2

section Phases
variable (c : Ctl) (d : Dev)

/-- An admitted LOAD, with none in progress, starts one. -/
theorem tmCtrlWrite_starts (fn val : Nat) (hg : (checkWrite c d fn (baseRG + 0x100) 4).2 = true) (hl : c.load = none) :
    tmCtrlWrite c d fn (setBit val 0 true) =
      ({ c with load := some {
          fromHost := bit (setBit val 0 true) 1, persist := bit (setBit val 0 true) 2, keys := c.flash.keys } },
       let d := writeRw d (baseRG + 0x100) (setBit val 0 true)
       if bit val 1 then d.hostGet d.imageSource 32 else d) := by
  simp [tmCtrlWrite, hg, hl, admit_dev c d fn _ _ hg, bit_setBit_self, bit_setBit_ne]

end Phases

/-- The effect of a command of the running logic that acts through onAll. -/
theorem leavesBoth_of_onAll {i : Instr} {s : State} {f : Ctl → Dev → Ctl × Dev} {x : Ctl × Dev} (hr : Runs s) (hi : exec i s = onAll s f)
    (hx : f s.ctl s.dev = x) : LeavesBoth i s x := by
  rw [LeavesBoth, hi, onAll_running s f hr, hx]

/-- A floor copy that verifies stands (R68). -/
theorem bootFloor_of_verified (c : Ctl) (banks : List Bool) (h : c.flash.floor.any (·.isSome) = true) : bootFloor c banks = c.flash := by
  rw [bootFloor, if_pos h]

/-- Settles O16: each phase by the branch of its command. -/
theorem trailMapLoadPhases : Obligations.TrailMapLoadPhases := by
  intro s hr
  refine ⟨fun fn val hg hl => ?load, fun l image hl hp hh hk => ?read, fun l hl hp hh hc => ?checks, fun l b hl hp hb => ?flash,
    fun l hl hp => ?apply, fun i hs hm hl hf hi => ?boot⟩
  case load => exact leavesBoth_of_onAll hr (by rw [exec, execLoad]) (tmCtrlWrite_starts s.ctl s.dev fn val.toNat hg hl)
  case read => exact leavesBoth_of_onAll hr (by rw [exec, execTmImageReadDone]) (by simp [hl, hp, hh, hk])
  case checks => exact leavesBoth_of_onAll hr (by rw [exec, execTmChecksEnd]) (by simp [hl, hp, hh, hc])
  case flash => exact leavesBoth_of_onAll hr (by rw [exec, execTmFlashWriteDone]) (by cases b <;> simp [hl, hp, hb])
  case apply => exact leavesBoth_of_onAll hr (by rw [exec, execTmApplyDone]) (by simp [hl, hp])
  case boot =>
    have hgo : ¬ (decide (s.ctl.stage ≠ .firmware) || (s.ctl.map.isSome || s.ctl.load.isSome)) = true := by simp [hs, hm, hl]
    have hfloor : bootFloor s.ctl s.ctl.readable = s.ctl.flash := bootFloor_of_verified s.ctl _ hf
    have hctl : { s.ctl with flash := bootFloor s.ctl s.ctl.readable } = s.ctl := by rw [hfloor]
    refine leavesBoth_of_onAll hr (by rw [exec, execBootTrailMapLoad]) ?_
    dsimp only
    rw [if_neg hgo, hctl, hfloor, hi]
    rfl

/-- Settles O17: the refusal records its code; the end of the load reaches neither the map nor the banks, the floor and the keys. -/
theorem refusedLoadKeepsTheMap : Obligations.RefusedLoadKeepsTheMap := by
  intro s l e hr hl hp hh hc
  have ht : LeavesBoth .tmChecksEnd s (loadRefused s.ctl s.dev e) :=
    leavesBoth_of_onAll hr (by rw [exec, execTmChecksEnd]) (by simp [hl, hp, hh, hc])
  obtain ⟨k, fs, w, m, x, o, due, -, hend⟩ := loadEnded_ctl (refusal s.ctl s.dev e).1 (refusal s.ctl s.dev e).2
  refine ⟨_, ht, ?_⟩
  dsimp only [loadRefused]
  rw [hend]
  exact ⟨rfl, rfl, rfl, rfl, rfl, rfl, rfl, rfl⟩

/-! ### Facet states -/

theorem mem_bitsOf (n w f : Nat) : f ∈ bitsOf n w ↔ f < n ∧ bit w f = true := by rw [bitsOf, List.mem_filter, List.mem_range]

theorem nodup_bitsOf (n w : Nat) : (bitsOf n w).Nodup := List.nodup_range.filter _

/-- A change made at each position of a list reaches the elements at those positions, once. -/
theorem nth_foldl_modNth {α : Type} (x : α) (g : α → α) (go : List Nat) (hgo : go.Nodup) (l : List α) (i : Nat) (hi : i < l.length) :
    nth x (go.foldl (fun l f => modNth g f l) l) i = if i ∈ go then g (nth x l i) else nth x l i := by
  induction go generalizing l with
  | nil => simp
  | cons f go ih =>
    obtain ⟨hf, hgo⟩ := List.nodup_cons.mp hgo
    rw [List.foldl_cons, ih hgo _ (by rwa [length_modNth])]
    by_cases h : i = f
    · subst h
      rw [if_neg hf, if_pos List.mem_cons_self, nth_modNth_self x g l i hi]
    · rw [nth_modNth_ne x g l f i h]
      simp only [List.mem_cons, h, false_or]

/-- A meaning that acts on the facet states one by one acts on their list. -/
theorem foldl_facetState (g : FacetState → FacetState) (go : List Nat) (c : Ctl) :
    go.foldl (fun (c : Ctl) f => { c with facetState := modNth g f c.facetState }) c =
      { c with facetState := go.foldl (fun l f => modNth g f l) c.facetState } := by
  induction go generalizing c with
  | nil => rfl
  | cons f go ih => rw [List.foldl_cons, ih, List.foldl_cons]

/-- The facets named by the bits of a write change their states; the other facets do not. -/
theorem fstate_foldl_bitsOf (g : FacetState → FacetState) (c : Ctl) (w f : Nat) (hlen : c.facetState.length = 16) (hf : f < 16) :
    ((bitsOf 16 w).foldl (fun (c : Ctl) f => { c with facetState := modNth g f c.facetState }) c).fstate f =
      if bit w f = true then g (c.fstate f) else c.fstate f := by
  rw [foldl_facetState, Ctl.fstate, nth_foldl_modNth _ g _ (nodup_bitsOf 16 w) _ f (by rwa [hlen])]
  simp only [mem_bitsOf, hf, true_and]
  rfl

/-- With no load in progress, none holds a facet: a resume is the same change for every facet named. -/
theorem foldl_resume_without_load (go : List Nat) (c : Ctl) (hl : c.load = none) :
    go.foldl (fun (c : Ctl) f =>
      if c.fstate f = .drained && loadHolds c f then { c with resumeWait := NatSet.ins c.resumeWait f } else c.resumeFacet f) c =
      go.foldl Ctl.resumeFacet c := by
  induction go generalizing c with
  | nil => rfl
  | cons f go ih =>
    have hholds : loadHolds c f = false := by rw [loadHolds, hl]
    rw [List.foldl_cons, List.foldl_cons, hholds, Bool.and_false, if_neg Bool.false_ne_true]
    exact ih _ hl

/-- Settles O18: each write changes the facets at its bits one by one. -/
theorem facetStates : Obligations.FacetStates := by
  intro s fn b hr hlen
  refine ⟨fun hg => ?drain, fun hg hl => ?resume, fun f hf hb => ?drained⟩
  case drain =>
    refine ⟨_, by rw [exec, execFacetDrain, onAll_running s _ hr], ?_⟩
    simp only [hg, admit_dev _ _ _ _ _ hg, Bool.not_true, Bool.false_eq_true, if_false, true_and]
    intro f hf
    rw [fstate_foldl_bitsOf _ s.ctl b.toNat f hlen hf, ite_and]
  case resume =>
    refine ⟨_, by rw [exec, execFacetResume, onAll_running s _ hr], ?_⟩
    simp only [hg, admit_dev _ _ _ _ _ hg, Bool.not_true, Bool.false_eq_true, if_false, true_and]
    intro f hf
    rw [foldl_resume_without_load _ s.ctl hl, ite_and]
    refine (fstate_foldl_bitsOf (fun x => if x = .draining || x = .drained then .running else x) s.ctl b.toNat f hlen hf).trans ?_
    simp only [Bool.or_eq_true, decide_eq_true_eq]
  case drained => exact leavesBoth_of_onAll hr (by rw [exec, execDrained]) (by simp [hf, hb])

end Sys2Proof.Machine
end

section
/-! SUPPORT. Meanings that keep the legality of the state. -/

namespace Sys2Proof.Machine

/-- A legal control part: a state is legal when its control part is. -/
def Ctl.Legal (c : Ctl) : Prop := c.power.legal ∧ c.bootLegal

/-- From a legal state the meaning leads to legal states only. -/
def KeepsInv (m : State → Host.Outcome State Fault Refusal) : Prop := ∀ s t : State, s.Inv → m s = .next t → t.Inv

theorem keepsInv_next {g : State → State} (h : ∀ s : State, s.Inv → (g s).Inv) : KeepsInv (fun s => .next (g s)) := by
  intro s t hs ht
  injection ht with ht
  exact ht ▸ h s hs

/-- A meaning that leaves the control part alone, such as an SMBus read. -/
theorem keepsInv_dev (g : State → Dev) : KeepsInv (fun s => .next { s with dev := g s }) := keepsInv_next fun _ hs => hs

theorem keepsInv_onAll {f : Ctl → Dev → Ctl × Dev} (h : ∀ c d, c.Legal → (f c d).1.Legal) : KeepsInv (fun s => onAll s f) := by
  refine keepsInv_next fun s hs => ?_
  split
  · exact h s.ctl s.dev hs
  · exact hs

theorem keepsInv_onDev (f : Ctl → Dev → Dev) : KeepsInv (fun s => onDev s f) := by
  intro s t hs ht
  rw [State.Inv, (onDev_next s t f ht).2]
  exact hs

/-- A command outside touchesControl. -/
theorem keepsInv_work (i : Instr) (hi : touchesControl i = false) : KeepsInv (exec i) := by
  intro s t hs ht
  obtain ⟨f, hf⟩ := exec_work i s hi
  exact keepsInv_onDev f s t hs (hf.symm.trans ht)

theorem keepsInv_ite {p : Prop} [Decidable p] {m n : State → Host.Outcome State Fault Refusal} (hm : KeepsInv m) (hn : KeepsInv n) :
    KeepsInv (if p then m else n) := by
  split
  · exact hm
  · exact hn

theorem keepsInv_skip : KeepsInv (fun s => .next s) := keepsInv_next fun _ h => h

theorem keepsInv_ifBit (v i : Nat) {m : State → Host.Outcome State Fault Refusal} (hm : KeepsInv m) : KeepsInv (ifBit v i m) :=
  keepsInv_ite hm keepsInv_skip

theorem keepsInv_inTurn {l : List (State → Host.Outcome State Fault Refusal)} (hl : ∀ m ∈ l, KeepsInv m) : KeepsInv (inTurn l) := by
  induction l with
  | nil => exact keepsInv_skip
  | cons m l ih =>
    obtain ⟨hm, hl⟩ := List.forall_mem_cons.mp hl
    intro s t hs ht
    rw [inTurn] at ht
    split at ht
    next u hu => exact ih hl u t (hm s u hs hu) ht
    next hu => exact absurd ht (hu t)

theorem keepsInv_inTurn_two {m n : State → Host.Outcome State Fault Refusal} (hm : KeepsInv m) (hn : KeepsInv n) : KeepsInv (inTurn [m, n]) :=
  keepsInv_inTurn (List.forall_mem_cons.mpr ⟨hm, List.forall_mem_singleton.mpr hn⟩)

end Sys2Proof.Machine
end

section
/-! SUPPORT. The supply, the pins and the test port keep the legality of the state (R436, R490, R491, R502, R503, R506). -/

namespace Sys2Proof.Machine

section Supply
variable {p q : Power}

theorem Power.mayRun_iff :
    p.mayRun = true ↔ p.allGood = true ∧ p.trip = 0 ∧ p.rstN = true ∧ p.refclk = true ∧ p.tap.holds = false := by
  simp [Power.mayRun, Power.pwrOk, Power.thermTripN]

/-- Rails report power good only while the input is there. -/
theorem Power.legal.inputOk_of_allGood (h : p.legal) (hg : p.allGood = true) : p.inputOk = true := by
  obtain ⟨-, hdown, hlen, -, -⟩ := h
  by_contra hi
  have hbad := hdown (Bool.eq_false_iff.mpr hi)
  cases hr : p.rails with
  | nil => simp [hr] at hlen
  | cons b l => simp_all [Power.allGood]

/-- A supply in reset whose input, rails and trip are those of a legal one. -/
theorem Power.legal.of_held (h : p.legal) (hrun : q.running = false) (hi : q.inputOk = p.inputOk) (hr : q.rails = p.rails) (ht : q.trip = p.trip) :
    q.legal := by
  obtain ⟨-, hdown, hlen, htrip, -⟩ := h
  refine ⟨fun hq => absurd (hrun ▸ hq) Bool.false_ne_true, ?_, ?_, ?_, fun _ => hrun⟩
  · rwa [hi, hr]
  · rwa [hr]
  · rwa [ht]

/-- A change of the pins alone, under which running logic may still run. -/
theorem Power.legal.of_pins (h : p.legal) (hrun : q.running = p.running) (hi : q.inputOk = p.inputOk) (hr : q.rails = p.rails) (ht : q.trip = p.trip)
    (hpins : p.rstN = true → p.refclk = true → p.tap.holds = false → q.rstN = true ∧ q.refclk = true ∧ q.tap.holds = false) : q.legal := by
  obtain ⟨hgo, hdown, hlen, htrip, hheld⟩ := h
  refine ⟨fun hq => ?_, ?_, ?_, ?_, ?_⟩
  · obtain ⟨hmay, hin⟩ := hgo (hrun ▸ hq)
    obtain ⟨hgood, htr, hrst, hclk, htap⟩ := Power.mayRun_iff.mp hmay
    refine ⟨Power.mayRun_iff.mpr ⟨?_, ht.trans htr, hpins hrst hclk htap⟩, hi.trans hin⟩
    rwa [Power.allGood, hr]
  · rwa [hi, hr]
  · rwa [hr]
  · rwa [ht]
  · rwa [ht, hrun]

end Supply

variable (s : State)

theorem State.inv_updPower (hs : s.Inv) {f : Power → Power} (h : (f s.ctl.power).legal) : (s.updPower f).Inv := ⟨h, hs.2⟩

theorem State.inv_holdInReset_updPower {f : Power → Power} (h : (f { s.ctl.power with running := false, thermalHold := false }).legal) :
    (s.holdInReset.updPower f).Inv := ⟨h, Ctl.bootLegal_reset⟩

theorem State.inv_leaveReset (hs : s.Inv) : s.leaveReset.Inv := by
  unfold State.leaveReset
  split
  next => exact hs
  next hgo =>
    obtain ⟨hp, hb⟩ := hs
    have hmay : s.ctl.power.mayRun = true := (show s.ctl.power.running = false ∧ _ by simpa using hgo).2
    obtain ⟨hgood, htrip, -⟩ := Power.mayRun_iff.mp hmay
    have hin := hp.inputOk_of_allGood hgood
    obtain ⟨-, hdown, hlen, hlt, -⟩ := hp
    exact ⟨⟨fun _ => ⟨hmay, hin⟩, hdown, hlen, hlt, fun hne => absurd htrip hne⟩, hb⟩

theorem execInputInRange_keepsInv : KeepsInv execInputInRange := by
  refine keepsInv_next fun s hs => s.inv_updPower hs ?_
  obtain ⟨hgo, -, hlen, htrip, hheld⟩ := hs.1
  exact ⟨fun hr => ⟨(hgo hr).1, rfl⟩, fun hi => Bool.noConfusion hi, hlen, htrip, hheld⟩

theorem execInputStop_keepsInv : KeepsInv execInputStop :=
  keepsInv_next fun s _ => s.inv_holdInReset_updPower ⟨fun hr => Bool.noConfusion hr, fun _ => rfl, rfl, Nat.zero_lt_succ 4, fun _ => rfl⟩

theorem execVinOut_keepsInv : KeepsInv execVinOut := by
  refine keepsInv_next fun s hs => ?_
  split
  · exact hs
  · exact hs

/-- Where every rail is good, no rail is next. -/
theorem findIdx_not_of_all (l : List Bool) (h : l.all id = true) : findIdx (fun b => !b) l = none := by
  induction l with
  | nil => rfl
  | cons b l ih =>
    obtain ⟨hb, hl⟩ : b = true ∧ l.all id = true := by simpa using h
    simp [findIdx, hb, ih hl]

theorem execRailPowerGood_keepsInv (mv : BitVec 16) : KeepsInv (execRailPowerGood mv) := by
  refine keepsInv_next fun s hs => s.inv_updPower hs ?_
  split
  next => exact hs.1
  next hon =>
    have hin : s.ctl.power.inputOk = true := (show _ ∧ s.ctl.power.trip = 0 by simpa using hon).1
    split
    next => exact hs.1
    next r hr =>
      obtain ⟨hgo, -, hlen, htrip, hheld⟩ := hs.1
      refine ⟨fun hrun => ?_, fun hi => absurd (hin.symm.trans hi) Bool.true_eq_false.mp, by rwa [length_modNth], htrip, hheld⟩
      have hgood := (Power.mayRun_iff.mp (hgo hrun).1).1
      rw [findIdx_not_of_all _ hgood] at hr
      contradiction

theorem length_tripRails (cause : TripCause) (l : List Bool) (hl : l.length = 6) : (tripRails cause l).length = 6 := by
  cases cause <;> simp [tripRails, hl]

theorem TripCause.code_lt (cause : TripCause) : cause.code < 5 := by cases cause <;> simp [TripCause.code]

theorem execTrip_keepsInv (cause : TripCause) : KeepsInv (execTrip cause) := by
  refine keepsInv_next fun s hs => ?_
  split
  next hcan =>
    have hin : s.ctl.power.inputOk = true := (Bool.and_eq_true_iff.mp hcan).1
    obtain ⟨-, -, hlen, -, -⟩ := hs.1
    exact s.inv_holdInReset_updPower ⟨fun hr => Bool.noConfusion hr, fun hi => absurd (hin.symm.trans hi) Bool.true_eq_false.mp,
      length_tripRails cause _ hlen, cause.code_lt, fun _ => rfl⟩
  next => exact hs

theorem execModRstNAssert_keepsInv : KeepsInv execModRstNAssert :=
  keepsInv_next fun s hs => s.inv_holdInReset_updPower (hs.1.of_held rfl rfl rfl rfl)

theorem execRefclkLoss_keepsInv : KeepsInv execRefclkLoss :=
  keepsInv_next fun s hs => s.inv_holdInReset_updPower (hs.1.of_held rfl rfl rfl rfl)

theorem execResetRelease_keepsInv : KeepsInv execResetRelease := by
  refine keepsInv_next fun s hs => ?_
  split
  next =>
    refine State.inv_leaveReset _ (s.inv_updPower hs (hs.1.of_pins rfl rfl rfl rfl ?_))
    exact fun _ _ htap => ⟨rfl, rfl, htap⟩
  next => exact hs

/-- While MOD_RST_N is high, no instruction that would hold the logic in reset is loaded. -/
theorem tapLoad_keepsInv (i : TapInstr) : KeepsInv (tapLoad i) := by
  refine keepsInv_next fun s hs => ?_
  split
  next =>
    refine State.inv_leaveReset _ (s.inv_updPower hs (hs.1.of_pins rfl rfl rfl rfl fun hrst hclk _ => ⟨hrst, hclk, ?_⟩))
    show (if i.holds && s.ctl.power.rstN then TapInstr.bypass else i).holds = false
    rw [hrst, Bool.and_true]
    split
    next => rfl
    next hi => exact Bool.eq_false_iff.mpr hi
  next => exact hs

theorem execEnergy_keepsInv : KeepsInv execEnergy := by
  refine keepsInv_next fun s hs => ?_
  split
  · exact hs
  · exact hs

theorem execPowerOnHour_keepsInv : KeepsInv execPowerOnHour := by
  refine keepsInv_next fun s hs => ?_
  split
  · exact hs
  · exact hs

end Sys2Proof.Machine
end

section
/-! SUPPORT. What the order of boot rests on (R438, R442): the part of the control state that says which Trail Map is in effect, and Ranger's
work, which is there only once its firmware runs. -/

namespace Sys2Proof.Machine

/-- The supply, Ranger's stage, the map in effect and which facets are ABSENT. -/
def Ctl.mapPart (c : Ctl) : Power × BootStage × Option TrailMap × Bool × List Bool :=
  (c.power, c.stage, c.map, c.blocksReady, absents c.facetState)

/-- Ranger's work besides the map: a load, BIST, a measurement, a key command, a report. -/
def Ctl.workPart (c : Ctl) : Option TmLoad × Bool × Option Measure × KeyPhase × Bool :=
  (c.load, c.bistDone, c.measure, c.keyPhase, c.attesting)

/-- A change of the control part that keeps the map part, and Ranger's work too unless its firmware runs. -/
def Ctl.Follows (c c' : Ctl) : Prop := c'.mapPart = c.mapPart ∧ (c.stage = .firmware ∨ c'.workPart = c.workPart)

variable {c c' : Ctl}

theorem Ctl.Follows.refl (c : Ctl) : c.Follows c := ⟨rfl, .inr rfl⟩

theorem Ctl.Legal.follows (h : c.Legal) (hf : c.Follows c') : c'.Legal := by
  obtain ⟨hpower, hidle, hready, hlen, habsent⟩ := h
  obtain ⟨hmap, hwork⟩ := hf
  simp only [Ctl.mapPart, Prod.mk.injEq] at hmap
  obtain ⟨hp, hstage, hm, hb, ha⟩ := hmap
  refine ⟨hp ▸ hpower, fun hs => ?_, by rw [hb, hm, hready], ?_, fun f hf => ?_⟩
  · rw [hstage] at hs
    have hw := hwork.resolve_left hs
    simp only [Ctl.workPart, Prod.mk.injEq] at hw
    obtain ⟨hload, hbist, hmeasure, hkey, hattest⟩ := hw
    rw [hm, hload, hbist, hmeasure, hkey, hattest]
    exact hidle hs
  · rw [← length_absents, ha, length_absents, hlen]
  · rw [Ctl.fstate_eq_absent_iff, ha, ← Ctl.fstate_eq_absent_iff, Ctl.tm, hm]
    exact habsent f hf

/-- Ranger's firmware runs wherever a map or Ranger's work is there. -/
theorem Ctl.Legal.firmware (h : c.Legal)
    (hw : c.map.isSome ∨ c.load.isSome ∨ c.measure.isSome ∨ c.keyPhase ≠ .idle ∨ c.attesting = true) : c.stage = .firmware := by
  by_contra hs
  obtain ⟨hmap, hload, -, hmeasure, hkey, hattest⟩ := h.2.1 hs
  simp [hmap, hload, hmeasure, hkey, hattest] at hw

theorem Ctl.Legal.firmware_of_load (h : c.Legal) {l : TmLoad} (hl : c.load = some l) : c.stage = .firmware :=
  h.firmware (.inr (.inl (by rw [hl]; rfl)))

theorem Ctl.Legal.firmware_of_keyPhase (h : c.Legal) (hk : c.keyPhase ≠ .idle) : c.stage = .firmware :=
  h.firmware (.inr (.inr (.inr (.inl hk))))

/-- A write that reaches a register of RG or AG finds Ranger's firmware running (R440). -/
theorem firmware_of_admitted (c : Ctl) (d : Dev) {fn off width : Nat} (hg : (checkWrite c d fn off width).2 = true)
    (hb : blockCode off = 2 ∨ blockCode off = 3) (hoff : off < 0x1000000) : c.stage = .firmware := by
  obtain ⟨-, -, hready, -, -⟩ := (checkWrite_admits_iff c d fn).mp hg
  have hcore : ¬ (decide (0x1000000 ≤ off) && decide (off < 0x2000000)) = true := by simp; omega
  rw [blockReady, if_neg hcore] at hready
  rcases hb with hb | hb
  · rw [hb] at hready
    exact of_decide_eq_true hready
  · rw [hb] at hready
    exact of_decide_eq_true hready

/-- Ranger's firmware runs from now on. -/
theorem Ctl.Legal.runFirmware (h : c.Legal) (img : List Byte) : (c.runFirmware img).Legal := by
  obtain ⟨hp, -, hmap⟩ := h
  exact ⟨hp, fun hs => absurd rfl hs, hmap⟩

/-- A map takes effect: exactly the facets that it names are not ABSENT (R47, Table 2.6). -/
theorem Ctl.Legal.applyMap (h : c.Legal) (hs : c.stage = .firmware) (d : Dev) (new : TrailMap) (bank : Option Nat) :
    (applyMap c d new bank).1.Legal := by
  refine ⟨h.1, fun hns => absurd hs hns, rfl, by simp [Machine.applyMap], fun f hf => ?_⟩
  have hstate : (Machine.applyMap c d new bank).1.fstate f =
      if (new.facet? f).isNone then .absent else if c.fstate f = .absent then .running else c.fstate f := by
    simp [Ctl.fstate, Machine.applyMap, nth_eq_getD, hf]
  rw [hstate, show (Machine.applyMap c d new bank).1.tm = new from rfl]
  split
  next hnone => exact iff_of_true rfl (Option.isNone_iff_eq_none.mp hnone)
  next hsome =>
    refine iff_of_false ?_ (mt Option.isNone_iff_eq_none.mpr hsome)
    split
    next => exact FacetState.noConfusion
    next hthere => exact hthere

/-! ### Operations that keep the map part -/

@[simp] theorem marginPlan_mapPart (d : Dev) (cores : List Nat) : (marginPlan c d cores).1.mapPart = c.mapPart := by
  obtain ⟨m, x, o, due, h⟩ := marginPlan_ctl c d cores
  rw [h]
  rfl

theorem resumeFacet_follows (c : Ctl) (f : Nat) : c.Follows (c.resumeFacet f) :=
  ⟨by simp only [Ctl.mapPart, absents_resumeFacet]; rfl, .inr rfl⟩

@[simp] theorem resumeWaiting_mapPart : (resumeWaiting c).mapPart = c.mapPart := by
  obtain ⟨l, w, hl, h⟩ := resumeWaiting_ctl c
  rw [h]
  simp only [Ctl.mapPart, hl]

@[simp] theorem loadEnded_mapPart (d : Dev) : (loadEnded c d).1.mapPart = c.mapPart := by
  obtain ⟨k, l, w, m, x, o, due, hl, h⟩ := loadEnded_ctl c d
  rw [h]
  simp only [Ctl.mapPart, hl]

@[simp] theorem loadRefused_mapPart (d : Dev) (e : Nat × Nat) : (loadRefused c d e).1.mapPart = c.mapPart := loadEnded_mapPart _

/-- The refusals of the banks of a load from flash. -/
theorem foldl_refusal_ctl (c : Ctl) (d : Dev) (es : List (Nat × Nat)) :
    ∃ k o, (es.foldl (fun (x : Ctl × Dev) e => refusal x.1 x.2 e) (c, d)).1 = { c with refuseCode := k, faultOffset := o } := by
  refine List.foldlRecOn es _ (motive := fun x : Ctl × Dev => ∃ k o, x.1 = { c with refuseCode := k, faultOffset := o }) ⟨_, _, rfl⟩ ?_
  rintro x ⟨k, o, hx⟩ e _
  exact ⟨e.1, e.2, by rw [refusal, hx]⟩

/-- The slack that a measurement or BIST reports. -/
theorem takeSlack_ctl (c : Ctl) (cores : List Nat) (slack : List (BitVec 8)) :
    ∃ v m, c.takeSlack cores slack = { c with slack := v, minSlack := m } := by
  refine List.foldlRecOn cores _ (motive := fun y : Ctl => ∃ v m, y = { c with slack := v, minSlack := m }) ⟨_, _, rfl⟩ ?_
  rintro _ ⟨v, m, rfl⟩ p _
  exact ⟨_, _, rfl⟩

@[simp] theorem takeSlack_mapPart (cores : List Nat) (slack : List (BitVec 8)) : (c.takeSlack cores slack).mapPart = c.mapPart := by
  obtain ⟨v, m, h⟩ := takeSlack_ctl c cores slack
  rw [h]
  rfl

theorem boundary_ctl (c : Ctl) (d : Dev) (n : Nat) : ∃ m, boundary c d n = { c with margins := m } := by
  unfold boundary
  split
  · exact ⟨_, rfl⟩
  · exact ⟨_, rfl⟩

theorem persistBin_ctl (c c' : Ctl) (n : Nat) : ∃ o, c.persistBin c' n = { c' with flash := { c'.flash with overlay := o } } := by
  unfold Ctl.persistBin
  dsimp only
  split
  · exact ⟨_, rfl⟩
  · exact ⟨_, rfl⟩

/-- Batch-step boundaries reach the margins and their overlay in flash (R375, R448, R450). -/
theorem boundaries_ctl (c : Ctl) (d d' : Dev) : ∃ m o, (boundaries c d d').1 = { c with margins := m, flash := { c.flash with overlay := o } } := by
  refine List.foldlRecOn _ _ (motive := fun x : Ctl × Dev => ∃ m o, x.1 = { c with margins := m, flash := { c.flash with overlay := o } })
    ⟨_, _, rfl⟩ ?_
  rintro x ⟨m, o, hx⟩ n _
  obtain ⟨m', hb⟩ := boundary_ctl x.1 x.2 n
  obtain ⟨o', hp⟩ := persistBin_ctl x.1 (boundary x.1 x.2 n) n
  exact ⟨m', o', by rw [hp, hb, hx]⟩

theorem boundaries_follows (c : Ctl) (d d' : Dev) : c.Follows (boundaries c d d').1 := by
  obtain ⟨m, o, h⟩ := boundaries_ctl c d d'
  rw [h]
  exact ⟨rfl, .inr rfl⟩

@[simp] theorem boundaries_mapPart (d d' : Dev) : (boundaries c d d').1.mapPart = c.mapPart := (boundaries_follows c d d').1

/-- A read of the control window moves at most the word of the history ring that is read next (R445). -/
theorem windowRead_ctl (c : Ctl) (d : Dev) (fn off width : Nat) : ∃ w, (windowRead c d fn off width).1 = { c with histWord := w } := by
  unfold windowRead
  dsimp only
  split
  · exact ⟨_, rfl⟩
  split
  · exact ⟨_, rfl⟩
  split
  · exact ⟨_, rfl⟩
  split
  · unfold histData
    dsimp only
    split
    · split
      · exact ⟨_, rfl⟩
      · exact ⟨_, rfl⟩
    · exact ⟨_, rfl⟩
  · exact ⟨_, rfl⟩

theorem windowRead_follows (c : Ctl) (d : Dev) (fn off width : Nat) : c.Follows (windowRead c d fn off width).1 := by
  obtain ⟨w, h⟩ := windowRead_ctl c d fn off width
  rw [h]
  exact ⟨rfl, .inr rfl⟩

theorem histIndexWrite_follows (c : Ctl) (d : Dev) (fn val : Nat) : c.Follows (histIndexWrite c d fn val).1 := by
  unfold histIndexWrite
  dsimp only
  split
  · exact ⟨rfl, .inr rfl⟩
  · exact .refl c

theorem fwLoadWrite_follows (c : Ctl) (d : Dev) (fn val : Nat) : c.Follows (fwLoadWrite c d fn val).1 := by
  unfold fwLoadWrite
  dsimp only
  split
  · exact .refl c
  · exact ⟨rfl, .inr rfl⟩

theorem tmCtrlWrite_follows (c : Ctl) (d : Dev) (fn val : Nat) : c.Follows (tmCtrlWrite c d fn val).1 := by
  unfold tmCtrlWrite
  dsimp only
  split
  next => exact .refl c
  next hg =>
    split
    next => exact .refl c
    next => exact ⟨rfl, .inl (firmware_of_admitted c d (by simpa using hg) (by decide) (by decide))⟩

theorem startMeasure_follows (cause : MeasCause) (hs : c.stage = .firmware) : c.Follows (c.startMeasure cause) := by
  unfold Ctl.startMeasure
  split
  · exact .refl c
  · exact ⟨rfl, .inl hs⟩

end Sys2Proof.Machine
end

section
/-! SUPPORT. The commands of touchesControl keep the legality of the state. -/

namespace Sys2Proof.Machine

theorem keepsInv_follows {f : Ctl → Dev → Ctl × Dev} (h : ∀ (c : Ctl) (d : Dev), c.Legal → c.Follows (f c d).1) : KeepsInv (fun s => onAll s f) :=
  keepsInv_onAll fun c d hc => hc.follows (h c d hc)

theorem keepsInv_onTasks (f : Ctl → Dev → Dev) : KeepsInv (fun s => onTasks s f) :=
  keepsInv_follows fun c d _ => boundaries_follows c d (f c d)

/-! ### Reads of the control window -/

theorem execLatchedHalfRead_keepsInv (fn : Fin 16) (off : Nat) : KeepsInv (execLatchedHalfRead fn off) :=
  keepsInv_follows fun c d _ => windowRead_follows c d fn off 4

theorem execRcFieldRead_keepsInv (fn : Fin 16) (off : Nat) : KeepsInv (execRcFieldRead fn off) :=
  keepsInv_follows fun c d _ => windowRead_follows c d fn off 4

theorem execAgHistDataRead_keepsInv (fn : Fin 16) : KeepsInv (execAgHistDataRead fn) :=
  keepsInv_follows fun c d _ => windowRead_follows c d fn (baseAG + 0x44) 4

theorem execControlWindowRead_keepsInv (who : HostId) (off width : Nat) : KeepsInv (execControlWindowRead who off width) := by
  refine keepsInv_follows fun c d _ => ?_
  split
  · exact .refl c
  · exact windowRead_follows c d who.fn off width

/-! ### The Trail Map (R68 to R79) -/

theorem tmCtrlWrite_keepsInv (fn val : Nat) : KeepsInv (fun s => onAll s fun c d => tmCtrlWrite c d fn val) :=
  keepsInv_follows fun c d _ => tmCtrlWrite_follows c d fn val

theorem execTmImageReadDone_keepsInv (ok : Bool) (image : List Byte) : KeepsInv (execTmImageReadDone ok image) := by
  refine keepsInv_follows fun c d h => ?_
  split
  next => exact .refl c
  next l hl =>
    have hs := h.firmware_of_load hl
    split
    next => exact .refl c
    split
    next => exact ⟨resumeWaiting_mapPart, .inl hs⟩
    split
    next => exact ⟨loadRefused_mapPart _ _, .inl hs⟩
    next => exact ⟨resumeWaiting_mapPart, .inl hs⟩

theorem execTmChecksEnd_keepsInv : KeepsInv execTmChecksEnd := by
  refine keepsInv_follows fun c d h => ?_
  split
  next => exact .refl c
  next l hl =>
    have hs := h.firmware_of_load hl
    split
    next => exact .refl c
    split
    next =>
      split
      next => exact ⟨loadRefused_mapPart _ _, .inl hs⟩
      next => exact ⟨rfl, .inl hs⟩
    next =>
      dsimp only
      obtain ⟨k, o, hrefused⟩ := foldl_refusal_ctl c d (flashChoice c l.keys l.banks).1
      split
      next => exact ⟨(loadEnded_mapPart _).trans (by rw [hrefused]; rfl), .inl hs⟩
      next => exact ⟨by rw [hrefused]; rfl, .inl hs⟩

theorem execTmFlashWriteDone_keepsInv (ok : Bool) : KeepsInv (execTmFlashWriteDone ok) := by
  refine keepsInv_follows fun c d h => ?_
  split
  next => exact .refl c
  next l hl =>
    have hs := h.firmware_of_load hl
    split
    next => exact .refl c
    split
    next => exact ⟨loadRefused_mapPart _ _, .inl hs⟩
    next => exact ⟨rfl, .inl hs⟩

theorem execTmApplyDone_keepsInv : KeepsInv execTmApplyDone := by
  refine keepsInv_onAll fun c d h => ?_
  split
  next => exact h
  next l hl =>
    have hs := h.firmware_of_load hl
    split
    next => exact h
    next => exact (h.applyMap hs d _ _).follows ⟨loadEnded_mapPart _, .inl hs⟩

theorem execBootTrailMapLoad_keepsInv : KeepsInv execBootTrailMapLoad := by
  refine keepsInv_onAll fun c d h => ?_
  split
  next => exact h
  next hgo =>
    have hs : c.stage = .firmware := (show c.stage = .firmware ∧ _ by simpa using hgo).1
    dsimp only
    generalize flashChoice _ _ _ = choice
    obtain ⟨k, o, hrefused⟩ := foldl_refusal_ctl { c with flash := bootFloor c c.readable } d choice.1
    rw [hrefused]
    have hlegal : Ctl.Legal { c with flash := bootFloor c c.readable, refuseCode := k, faultOffset := o } := h.follows ⟨rfl, .inr rfl⟩
    split
    next => exact hlegal
    next =>
      dsimp only
      exact hlegal.applyMap hs _ _ _

theorem execFacetDrain_keepsInv (fn : Fin 16) (b : BitVec 16) : KeepsInv (execFacetDrain fn b) := by
  refine keepsInv_onAll fun c d h => ?_
  dsimp only
  split
  next => exact h
  next =>
    refine List.foldlRecOn _ _ (motive := Ctl.Legal) h fun c hc f _ => hc.follows ⟨?_, .inr rfl⟩
    simp only [Ctl.mapPart, absents_modNth (fun x => if x = .running then .draining else x) (fun x => by cases x <;> simp)]

theorem execFacetResume_keepsInv (fn : Fin 16) (b : BitVec 16) : KeepsInv (execFacetResume fn b) := by
  refine keepsInv_onAll fun c d h => ?_
  dsimp only
  split
  next => exact h
  next =>
    refine List.foldlRecOn _ _ (motive := Ctl.Legal) h fun c hc f _ => ?_
    split
    · exact hc.follows ⟨rfl, .inr rfl⟩
    · exact hc.follows (resumeFacet_follows c f)

/-- A facet that is there is put into another state. -/
theorem Ctl.follows_fstate (c : Ctl) (f : Nat) {x : FacetState} (hx : x ≠ .absent) (hf : c.fstate f ≠ .absent) :
    c.Follows { c with facetState := modNth (fun _ => x) f c.facetState } :=
  ⟨by simp only [Ctl.mapPart, absents_modNth_const x f c.facetState hx hf], .inr rfl⟩

theorem execDrained_keepsInv (f : Fin 16) : KeepsInv (execDrained f) := by
  refine keepsInv_follows fun c d _ => ?_
  split
  next hf =>
    have hdraining : c.fstate f = .draining := (show _ ∧ facetBusy c d f = false by simpa using hf).1
    exact c.follows_fstate f FacetState.noConfusion (by rw [hdraining]; exact FacetState.noConfusion)
  next => exact .refl c

/-- An accepted go finds the facet DRAINED (R468). -/
theorem execGo_keepsInv (fn : Fin 16) (f : Fin 16) : KeepsInv (execGo fn f) := by
  refine keepsInv_follows fun c d _ => ?_
  dsimp only
  split
  next => exact .refl c
  split
  next => exact .refl c
  next hgo =>
    have hdrained : c.fstate f = .drained := by
      by_contra hf
      simp [Dev.goRefusal, hf] at hgo
    exact c.follows_fstate f FacetState.noConfusion (by rw [hdrained]; exact FacetState.noConfusion)

/-! ### Firmware and self test (R438 to R442) -/

theorem fwLoadWrite_keepsInv (fn val : Nat) : KeepsInv (fun s => onAll s fun c d => fwLoadWrite c d fn val) :=
  keepsInv_follows fun c d _ => fwLoadWrite_follows c d fn val

theorem execFirmwareBankVerify_keepsInv : KeepsInv execFirmwareBankVerify := by
  refine keepsInv_onAll fun c d h => ?_
  split
  next => exact h
  next hrom =>
    dsimp only
    split
    next => exact h.runFirmware (c.flash.firmware 0)
    split
    next => exact h.runFirmware (c.flash.firmware 1)
    next =>
      obtain ⟨hp, hidle, hmap⟩ := h
      have hstage : c.stage = .rom := by simpa using hrom
      exact ⟨hp, fun _ => hidle (by rw [hstage]; exact BootStage.noConfusion), hmap⟩

theorem Ctl.Legal.fwLoaded {c : Ctl} (h : c.Legal) (ok : Bool) (image : List Byte) : (c.fwLoaded ok image).Legal := by
  unfold Ctl.fwLoaded
  dsimp only
  split
  next => exact h
  split
  next => exact h.runFirmware (fwImage 0 image)
  next => exact h

theorem execFwLoad_keepsInv (fn : Fin 16) (ok : Bool) (image : List Byte) : KeepsInv (execFwLoad fn ok image) := by
  refine keepsInv_onAll fun c d h => ?_
  split
  next => exact h.fwLoaded ok image
  next =>
    have hw := h.follows (fwLoadWrite_follows c d fn 1)
    dsimp only
    split
    · exact hw.fwLoaded ok image
    · exact hw

theorem execBistEnd_keepsInv (failed : BitVec 132) (slack : List (BitVec 8)) : KeepsInv (execBistEnd failed slack) := by
  refine keepsInv_follows fun c d _ => ?_
  split
  next => exact .refl c
  next hgo =>
    have hs : c.stage = .firmware := (show c.stage = .firmware ∧ _ by simpa using hgo).1
    exact ⟨takeSlack_mapPart _ _, .inl hs⟩

theorem execReleaseBistEnd_keepsInv (core : Fin 128) (ok : Bool) : KeepsInv (execReleaseBistEnd core ok) := by
  refine keepsInv_follows fun c d _ => ?_
  split
  · exact .refl c
  · exact ⟨rfl, .inr rfl⟩

/-! ### Margins (R444 to R453) -/

theorem execPeriodicMeasurement_keepsInv : KeepsInv execPeriodicMeasurement := by
  refine keepsInv_follows fun c d _ => ?_
  dsimp only
  split
  next hgo =>
    have hs : c.stage = .firmware := (show c.stage = .firmware ∧ _ by simpa using hgo).1
    exact startMeasure_follows _ hs
  next => exact .refl c

theorem execMeasure_keepsInv (fn : Fin 16) : KeepsInv (execMeasure fn) := by
  refine keepsInv_follows fun c d _ => ?_
  dsimp only
  split
  next hg => exact startMeasure_follows _ (firmware_of_admitted c d hg (by decide) (by decide))
  next => exact .refl c

theorem appendHist_mapPart (c : Ctl) (ro : List Nat) (r : HistRecord) : (Ctl.appendHist { c with ro := ro } r).mapPart = c.mapPart := rfl

theorem execMeasurementEnd_keepsInv (slack : List (BitVec 8)) (ro : List (BitVec 16)) : KeepsInv (execMeasurementEnd slack ro) := by
  refine keepsInv_follows fun c d h => ?_
  split
  next => exact .refl c
  next m hm =>
    have hs : c.stage = .firmware := h.firmware (.inr (.inr (.inl (by rw [hm]; rfl))))
    dsimp only
    refine ⟨?_, .inl hs⟩
    rw [marginPlan_mapPart, boundaries_mapPart]
    split
    · exact takeSlack_mapPart _ _
    · exact (appendHist_mapPart _ _ _).trans (takeSlack_mapPart _ _)

theorem execClockRelockEnd_keepsInv (p : Fin 132) : KeepsInv (execClockRelockEnd p) := keepsInv_follows fun _ _ _ => ⟨rfl, .inr rfl⟩

theorem execAgHistIndexWrite_keepsInv (fn : Fin 16) (val : Word) : KeepsInv (execAgHistIndexWrite fn val) :=
  keepsInv_follows fun c d _ => histIndexWrite_follows c d fn val.toNat

/-! ### Keys and reports (R482 to R484) -/

theorem execKeyCommand_keepsInv (fn : Fin 16) : KeepsInv (execKeyCommand fn) := by
  refine keepsInv_follows fun c d _ => ?_
  dsimp only
  split
  next => exact .refl c
  next hgo =>
    have hg : (checkWrite c d fn (baseRG + 0x1010) 4).2 = true := (show _ ∧ c.keyPhase = .idle by simpa using hgo).1
    have hs : c.stage = .firmware := firmware_of_admitted c d hg (by decide) (by decide)
    split
    · exact ⟨rfl, .inl hs⟩
    · exact ⟨rfl, .inl hs⟩

theorem execKeyRecordReadDone_keepsInv (ok : Bool) (record : List Byte) : KeepsInv (execKeyRecordReadDone ok record) := by
  refine keepsInv_follows fun c d h => ?_
  split
  next => exact .refl c
  next hgo =>
    have hreading : c.keyPhase = .reading := by simpa using hgo
    have hs := h.firmware_of_keyPhase (by rw [hreading]; exact KeyPhase.noConfusion)
    split
    next => exact ⟨rfl, .inl hs⟩
    dsimp only
    split
    next => exact ⟨rfl, .inl hs⟩
    next => exact ⟨rfl, .inl hs⟩

theorem execKeySlotWriteDone_keepsInv (ok : Bool) : KeepsInv (execKeySlotWriteDone ok) := by
  refine keepsInv_follows fun c d h => ?_
  split
  next slot e hw =>
    have hs := h.firmware_of_keyPhase (by rw [hw]; exact KeyPhase.noConfusion)
    split
    · exact ⟨rfl, .inl hs⟩
    · exact ⟨rfl, .inl hs⟩
  next => exact .refl c

theorem execAttest_keepsInv (fn : Fin 16) : KeepsInv (execAttest fn) := by
  refine keepsInv_follows fun c d _ => ?_
  dsimp only
  split
  next => exact .refl c
  next hgo =>
    have hg : (checkWrite c d fn (baseRG + 0x1040) 4).2 = true := (show _ ∧ c.attesting = false by simpa using hgo).1
    exact ⟨rfl, .inl (firmware_of_admitted c d hg (by decide) (by decide))⟩

theorem execAttestNonceReadDone_keepsInv (nonce : List Byte) : KeepsInv (execAttestNonceReadDone nonce) := by
  refine keepsInv_follows fun c d h => ?_
  split
  next => exact .refl c
  next hgo => exact ⟨rfl, .inl (h.firmware (.inr (.inr (.inr (.inr (by simpa using hgo))))))⟩

/-! ### The governor (R493 to R496): it takes samples of the supply -/

theorem execGovernorSample_keepsInv (sample : PowerSample) : KeepsInv (execGovernorSample sample) := keepsInv_onAll fun _ _ h => h

theorem execThermalHoldStart_keepsInv (tj tcase : BitVec 8) : KeepsInv (execThermalHoldStart tj tcase) := by
  refine keepsInv_onAll fun c d h => ?_
  split
  · exact h
  · exact h

theorem execThermalHoldEnd_keepsInv (tj tcase : BitVec 8) : KeepsInv (execThermalHoldEnd tj tcase) := by
  refine keepsInv_onAll fun c d h => ?_
  split
  · exact h
  · exact h

/-! ### Tasks that end, and cores quarantined (R375, R460) -/

theorem execFeChAbort_keepsInv (fn : Fin 16) (ch : Fin 4096) : KeepsInv (execFeChAbort fn ch) := keepsInv_onTasks _
theorem execTaskEnd_keepsInv (core : Fin 128) : KeepsInv (execTaskEnd core) := keepsInv_onTasks _
theorem execQuarantine_keepsInv (fn : Fin 16) (core : Fin 128) : KeepsInv (execQuarantine fn core) := keepsInv_onTasks _
theorem execMachineCheck_keepsInv (core : Fin 128) : KeepsInv (execMachineCheck core) := keepsInv_onTasks _

end Sys2Proof.Machine
end

section
/-! SUPPORT. A host write of a register keeps the legality of the state, whichever commands its bits carry (R39). -/

namespace Sys2Proof.Machine

variable (fn : Fin 16) (off v : Nat)

theorem fieldsOnly_keepsInv : KeepsInv (fieldsOnly off v) := keepsInv_onDev _

theorem chipWrite_keepsInv : KeepsInv (chipWrite fn off v) := by
  unfold chipWrite
  extract_lets w
  refine keepsInv_ite (fwLoadWrite_keepsInv fn v) <| keepsInv_ite (tmCtrlWrite_keepsInv fn v) <| keepsInv_ite (execFacetDrain_keepsInv fn _) <|
    keepsInv_ite (execFacetResume_keepsInv fn _) <| keepsInv_ite ?quar <| keepsInv_ite (keepsInv_ifBit v 0 (execKeyCommand_keepsInv fn)) <|
    keepsInv_ite (keepsInv_ifBit v 0 (execAttest_keepsInv fn)) <|
    keepsInv_ite (keepsInv_inTurn_two (fieldsOnly_keepsInv off v) (keepsInv_ifBit v 0 (execMeasure_keepsInv fn))) <|
    keepsInv_ite (execAgHistIndexWrite_keepsInv fn w) <| keepsInv_ite ?replay <| keepsInv_ite (keepsInv_work (.tlChWrite fn _ _ w) rfl) <|
    keepsInv_ite ?port <| keepsInv_ite (keepsInv_work (.hlHostRidWrite fn w) rfl) <|
    keepsInv_ite (keepsInv_ite (keepsInv_ifBit v 4 (keepsInv_work (.restart fn _) rfl)) (keepsInv_work (.twMirrorCfgWrite fn _ _ w) rfl)) <|
    keepsInv_ite (keepsInv_ifBit v 0 (keepsInv_work (.retrain fn 6) rfl)) <|
    keepsInv_ite (keepsInv_ifBit v 0 (keepsInv_work (.retrain fn _) rfl)) <| fieldsOnly_keepsInv off v
  case quar =>
    refine keepsInv_inTurn (List.forall_mem_cons.mpr ⟨fieldsOnly_keepsInv off v, List.forall_mem_cons.mpr ⟨?_, List.forall_mem_singleton.mpr ?_⟩⟩)
    · exact keepsInv_ifBit v 31 (execQuarantine_keepsInv fn _)
    · exact keepsInv_ifBit v 30 (keepsInv_work (.release fn _) rfl)
  case replay => exact keepsInv_inTurn_two (keepsInv_ifBit v 31 (execGo_keepsInv fn _)) (keepsInv_ifBit v 30 (keepsInv_work (.stop fn _) rfl))
  case port =>
    refine keepsInv_inTurn (List.forall_mem_cons.mpr ⟨fieldsOnly_keepsInv off v, List.forall_mem_cons.mpr ⟨?_, List.forall_mem_cons.mpr
      ⟨?_, List.forall_mem_singleton.mpr ?_⟩⟩⟩)
    · exact keepsInv_ifBit v 0 (keepsInv_work (.request fn _) rfl)
    · exact keepsInv_ifBit v 1 (keepsInv_work (.complete fn) rfl)
    · exact keepsInv_ifBit v 2 (keepsInv_work (.detach fn) rfl)

theorem memWrite_keepsInv : KeepsInv (memWrite fn off v) := by
  unfold memWrite
  extract_lets w
  exact keepsInv_ite (keepsInv_ite (keepsInv_onDev _) (fieldsOnly_keepsInv off v)) <|
    keepsInv_ite (keepsInv_inTurn_two (fieldsOnly_keepsInv off v) (keepsInv_ifBit v 4 (keepsInv_work (.clear fn _) rfl))) <|
    keepsInv_ite (keepsInv_ite (keepsInv_work (.retry fn _) rfl) (keepsInv_ite (keepsInv_work (.abort fn _) rfl) keepsInv_skip)) <|
    keepsInv_ite (keepsInv_work (.contextWrite fn _ _ w) rfl) <| keepsInv_ite (keepsInv_work (.hostWindowEntryWrite fn _ _ w) rfl) <|
    keepsInv_ite (keepsInv_work (.importEntryWrite fn _ _ w) rfl) <|
    keepsInv_ite (keepsInv_inTurn_two (keepsInv_ifBit v 1 (keepsInv_work (.flushAs fn) rfl)) (keepsInv_ifBit v 0 (keepsInv_work (.flushAll fn) rfl))) <|
    keepsInv_ite (keepsInv_work (.rdTregWrite fn _ _ w) rfl) <| keepsInv_ite (keepsInv_work (.msFlush fn _ _) rfl) <|
    keepsInv_ite (keepsInv_work (.msUnkeep fn _ _) rfl) <| fieldsOnly_keepsInv off v

theorem frontWrite_keepsInv : KeepsInv (frontWrite fn off v) := by
  unfold frontWrite
  extract_lets w o ch r
  exact keepsInv_ite (keepsInv_ite (keepsInv_work (.feChCfgWrite fn ch _ w) rfl) <| keepsInv_ite (keepsInv_work (.doorbell fn ch w) rfl) <|
      keepsInv_ite (keepsInv_inTurn_two (keepsInv_ifBit v 1 (keepsInv_work (.releaseHold fn ch) rfl))
        (keepsInv_ifBit v 0 (execFeChAbort_keepsInv fn ch))) <|
      fieldsOnly_keepsInv off v) <|
    keepsInv_ite (keepsInv_work (.feGregWrite fn _ _ w) rfl) <| keepsInv_ite (keepsInv_work (.deviceQueueConfigWrite fn _ _ w) rfl) <|
    fieldsOnly_keepsInv off v

theorem coreWrite_keepsInv : KeepsInv (coreWrite fn off v) := by
  unfold coreWrite
  extract_lets w n o
  exact keepsInv_ite (keepsInv_work (.sqRelayWrite fn n w) rfl) <| keepsInv_ite (keepsInv_work (.sqSaveWrite fn n w) rfl) <|
    keepsInv_ite (keepsInv_work (.geAreaWrite fn n _ w) rfl) <| keepsInv_ite (keepsInv_ifBit v 0 (keepsInv_work (.trCoreFlush fn n) rfl)) <|
    fieldsOnly_keepsInv off v

theorem registerEffect_keepsInv : KeepsInv (registerEffect fn off v) :=
  keepsInv_ite (chipWrite_keepsInv fn off v) <| keepsInv_ite (memWrite_keepsInv fn off v) <| keepsInv_ite (frontWrite_keepsInv fn off v) <|
    keepsInv_ite (coreWrite_keepsInv fn off v) <| fieldsOnly_keepsInv off v

theorem execRegisterWrite_keepsInv (who : HostId) (width : Nat) (val : BitVec 64) : KeepsInv (execRegisterWrite who off width val) := by
  intro s t hs ht
  unfold execRegisterWrite at ht
  dsimp only at ht
  split at ht
  next => exact keepsInv_skip s t hs ht
  split at ht
  next => exact keepsInv_dev (fun s => s.dev.ridReject) s t hs ht
  split at ht
  next => exact keepsInv_dev (fun s => (checkWrite s.ctl s.dev who.fn off width).1) s t hs ht
  split at ht
  next => injection ht with ht; exact ht ▸ hs
  next => exact registerEffect_keepsInv who.fn off _ s t hs ht

end Sys2Proof.Machine
end

section
/-! SUPPORT. Every step keeps the legality of the state. -/

namespace Sys2Proof.Machine

theorem exec_keepsInv (i : Instr) : KeepsInv (exec i) := by
  cases i with
  | registerWrite who off width val => exact execRegisterWrite_keepsInv off who width val
  | latchedHalfRead fn off => exact execLatchedHalfRead_keepsInv fn off
  | rcFieldRead fn off => exact execRcFieldRead_keepsInv fn off
  | controlWindowRead who off width => exact execControlWindowRead_keepsInv who off width
  | agHistDataRead fn => exact execAgHistDataRead_keepsInv fn
  | agHistIndexWrite fn val => exact execAgHistIndexWrite_keepsInv fn val
  | load fn val => exact tmCtrlWrite_keepsInv fn _
  | tmImageReadDone ok image => exact execTmImageReadDone_keepsInv ok image
  | tmChecksEnd => exact execTmChecksEnd_keepsInv
  | tmFlashWriteDone ok => exact execTmFlashWriteDone_keepsInv ok
  | tmApplyDone => exact execTmApplyDone_keepsInv
  | bootTrailMapLoad => exact execBootTrailMapLoad_keepsInv
  | facetDrain fn b => exact execFacetDrain_keepsInv fn b
  | facetResume fn b => exact execFacetResume_keepsInv fn b
  | drained f => exact execDrained_keepsInv f
  | go fn f => exact execGo_keepsInv fn f
  | feChAbort fn ch => exact execFeChAbort_keepsInv fn ch
  | taskEnd core => exact execTaskEnd_keepsInv core
  | quarantine fn core => exact execQuarantine_keepsInv fn core
  | machineCheck core => exact execMachineCheck_keepsInv core
  | firmwareBankVerify => exact execFirmwareBankVerify_keepsInv
  | fwLoad fn ok image => exact execFwLoad_keepsInv fn ok image
  | bistEnd failed slack => exact execBistEnd_keepsInv failed slack
  | releaseBistEnd core ok => exact execReleaseBistEnd_keepsInv core ok
  | periodicMeasurement => exact execPeriodicMeasurement_keepsInv
  | measure fn => exact execMeasure_keepsInv fn
  | measurementEnd slack ro => exact execMeasurementEnd_keepsInv slack ro
  | clockRelockEnd p => exact execClockRelockEnd_keepsInv p
  | keyCommand fn => exact execKeyCommand_keepsInv fn
  | keyRecordReadDone ok record => exact execKeyRecordReadDone_keepsInv ok record
  | keySlotWriteDone ok => exact execKeySlotWriteDone_keepsInv ok
  | attest fn => exact execAttest_keepsInv fn
  | attestNonceReadDone nonce => exact execAttestNonceReadDone_keepsInv nonce
  | governorSample x => exact execGovernorSample_keepsInv x
  | thermalHoldStart tj tcase => exact execThermalHoldStart_keepsInv tj tcase
  | thermalHoldEnd tj tcase => exact execThermalHoldEnd_keepsInv tj tcase
  | inputInRange => exact execInputInRange_keepsInv
  | inputStop => exact execInputStop_keepsInv
  | vinOut => exact execVinOut_keepsInv
  | railPowerGood mv => exact execRailPowerGood_keepsInv mv
  | trip cause => exact execTrip_keepsInv cause
  | modRstNAssert => exact execModRstNAssert_keepsInv
  | resetRelease => exact execResetRelease_keepsInv
  | refclkLoss => exact execRefclkLoss_keepsInv
  | ident => exact keepsInv_dev _
  | status => exact keepsInv_dev _
  | tripCause => exact keepsInv_dev _
  | vin mean => exact keepsInv_dev _
  | iin mean => exact keepsInv_dev _
  | pin mean => exact keepsInv_dev _
  | tj now => exact keepsInv_dev _
  | tcase now => exact keepsInv_dev _
  | rails => exact keepsInv_dev _
  | energy => exact execEnergy_keepsInv
  | smbusWrite code => exact keepsInv_dev _
  | bypass => exact tapLoad_keepsInv .bypass
  | samplePreload => exact tapLoad_keepsInv .samplePreload
  | extest => exact tapLoad_keepsInv .extest
  | extestPulse => exact tapLoad_keepsInv .extestPulse
  | extestTrain => exact tapLoad_keepsInv .extestTrain
  | trstNAssert => exact tapLoad_keepsInv .bypass
  | powerOnHour => exact execPowerOnHour_keepsInv
  | _ => exact keepsInv_work _ rfl

theorem State.inv_tick {s : State} (hs : s.Inv) : s.tick.Inv := by
  by_cases hr : s.ctl.power.running = true
  · obtain ⟨-, -, v, hctl⟩ := s.tick_running hr
    rw [State.Inv, hctl]
    exact hs
  · rw [s.tick_reset hr]
    exact hs

/-- Settles O4: a step is a tick or a command, and each keeps the legality. -/
theorem stepKeepsInvariant : Obligations.StepKeepsInvariant := by
  intro s t hs ht
  rw [step] at ht
  split at ht
  next => injection ht with ht; exact ht ▸ s.inv_tick hs
  next i rest _ => exact exec_keepsInv i { s with pending := rest } t hs ht

end Sys2Proof.Machine
end

section
/-! SUPPORT. Messages and baskets at a Gather Engine (R92 to R103, R384): what a command of the running logic that acts on the part Dev leaves, and a message
taken with the basket that it names. -/

namespace Sys2Proof.Machine
open Sys2Proof.Claims

/-- The effect of a command of the running logic that acts through onDev. -/
theorem leaves_of_onDev {i : Instr} {s : State} {f : Ctl → Dev → Dev} {d : Dev} (hr : Runs s) (hi : exec i s = onDev s f) (hd : f s.ctl s.dev = d) :
    Leaves i s d := by
  rw [Leaves, hi, onDev_running s f hr, hd]

@[simp] theorem takeMsg_nil (p : GeMsg → Bool) : takeMsg p [] = none := rfl

/-- The message taken goes to the basket that it names, where the requester still holds that basket. -/
theorem withBasket_of_found {core : Nat} {d : Dev} {p : GeMsg → Option BasketRef} {k : Dev → Dev → Basket → GeMsg → Dev} {x : InMsg}
    {rest : List InMsg} {bk : BasketRef} {b : Basket} (ht : takeMsg (fun m => (p m).isSome) (d.ge core).inbox = some (x, rest)) (hp : p x.m = some bk)
    (hb : (d.ge core).baskets.find? (fun b => b.num == bk.num) = some b) :
    withBasket core d p k = k d (d.updGe core (fun g => { g with inbox := rest })) b x.m := by
  simp only [withBasket, ht, hp, Option.bind_some, hb]

/-- Settles O28: each clause's conditions choose one branch of its command. -/
theorem basketProgress : Obligations.BasketProgress := by
  intro s core hr
  refine ⟨fun q rest hq hop hw => ⟨fun hn => ?starts, fun b r hb => ?startsAndReads⟩, fun b r hq hb => ?reads, fun x rest h l last ht hm => ?list,
    fun l d1 l1 b hl hc hb hu => ?roundStart, fun n l w hpart hn hgot hp hun => ?poisonedRow, fun l d1 hl hs => ?roundEnd⟩
  case starts => exact leaves_of_onDev hr (by rw [exec, execBasketStart]) (by simp [hq, hop, hw, hn])
  case startsAndReads => exact leaves_of_onDev hr (by rw [exec, execBasketStart]) (by simp [hq, hop, hw, hb])
  case reads => exact leaves_of_onDev hr (by rw [exec, execBasketStart]) (by simp [hq, hb])
  case list =>
    refine leaves_of_onDev hr (by rw [exec, execIndexListArrival]) ?_
    generalize hy : takeMsg _ _ = y
    cases hy.symm.trans ht
    simp [hm]
  case roundStart => exact leaves_of_onDev hr (by rw [exec, execOwnerRoundStart]) (by simp [hl, hc, hb, hu])
  case poisonedRow => exact leaves_of_onDev hr (by rw [exec, execRowFetchComplete]) (by simp [hpart, hn, hgot, hp, hun])
  case roundEnd => exact leaves_of_onDev hr (by rw [exec, execOwnerRoundEnd]) (by simp [hl, hs])

/-- Settles O29: the message at hand is taken with its list or its basket, and the clause's conditions choose the branch of its command. -/
theorem basketMessages : Obligations.BasketMessages := by
  intro s core hr
  refine ⟨fun x rest h rows ht hm => ?forward, fun x rest rcv n counts l rows ht hm => ?forwardAck,
    fun x rest bk r b d1 ht hm hb hroom hpart hz => ?partialSum, fun x rest bk r b ht hm hb hroom hpart => ?flagged,
    fun x rest bk o n counts b ht hm hb => ?listEnd, fun x rest bk bags pos data poison b d1 ht hm hb => ?row,
    fun b d1 d2 hb hread hopen hring hin hz hw => ?complete⟩
  case forward =>
    intro d hown
    refine leaves_of_onDev hr (by rw [exec, execForwardArrival]) ?_
    generalize hy : takeMsg _ _ = y
    cases hy.symm.trans ht
    simp [hm, d, hown]
  case forwardAck =>
    intro d hl hf
    refine leaves_of_onDev hr (by rw [exec, execForwardAckArrival]) ?_
    generalize hy : takeMsg _ _ = y
    cases hy.symm.trans ht
    simp [hm, d, hl, hf]
  case partialSum =>
    refine leaves_of_onDev hr (by rw [exec, execPartialArrival]) ((withBasket_of_found ht (by rw [hm]) hb).trans ?_)
    simp [hm, hroom, hpart, hz]
  case flagged =>
    refine leaves_of_onDev hr (by rw [exec, execFlaggedRecordArrival]) ((withBasket_of_found ht (by rw [hm]) hb).trans ?_)
    simp [hm, hroom, hpart]
  case listEnd =>
    refine leaves_of_onDev hr (by rw [exec, execListEndRecordArrival]) ((withBasket_of_found ht (by rw [hm]) hb).trans ?_)
    simp [hm]
  case row =>
    intro row bad hw
    refine leaves_of_onDev hr (by rw [exec, execUnpooledRowArrival]) ((withBasket_of_found ht (by rw [hm]) hb).trans ?_)
    simp [hm, row, bad, hw]
  case complete => exact leaves_of_onDev hr (by rw [exec, execBasketComplete]) (by simp [hb, hread, hopen, hring, hin, hz, hw])

end Sys2Proof.Machine
end

section
/-! SUPPORT. Delivery passes (R99, R223 to R226): a tuple pooled into an accumulator that its bag has, and what a merge leaves of its basket. -/

namespace Sys2Proof.Machine
open Sys2Proof.Claims

/-- A tuple whose bag has the list's one accumulator, with room in GE_ACC for what it adds, is pooled into it. -/
theorem Dev.poolTuple_of_held {c : Ctl} {d d1 : Dev} {core e : Nat} {l : InList} {r : Rec} {a : Acc} {b : List Byte × Bool} (hc : l.chain = some b)
    (ha : l.accs = [a]) (hs : a.sample = r.sample) (hb : a.bag = r.bag) (he : (rowElems (inSize b.1) r.data).length = e)
    (hd : d.countPass core (passCycles e (parseChain b.1).cost r.data.length) = d1) (hroom : l.accBytes + 4 * (e - a.elems.length) ≤ d1.geArea core 2) :
    d.poolTuple c core l r = d1.updList core l.num (fun l => { l with
      accs := l.accs.map (fun y => if (y.sample == r.sample && y.bag == r.bag) = true then poolInto b y false r else y) }) := by
  simp [Dev.poolTuple, hc, ha, hs, hb, he, hd, Nat.not_lt.mpr hroom]

/-- A merge changes its basket's sets of bags, not its number. -/
theorem Dev.mergePass_num {c : Ctl} {d d1 : Dev} {core : Nat} {b b1 : Basket} {ch : List Byte × Bool} {r : Rec}
    (h : d.mergePass c core b ch r = (d1, some b1)) : b1.num = b.num := by
  dsimp only [Dev.mergePass] at h
  split at h
  next => cases h; rfl
  next =>
    split at h
    next => cases h
    next =>
      split at h
      next =>
        split at h
        next => cases h
        next => cases h; rfl
      next =>
        split at h
        next => cases h
        next => cases h; rfl

/-- Settles O30: the pooled tuple finds its accumulator with room; the merged record's basket keeps its number. -/
theorem poolAndMerge : Obligations.PoolAndMerge := by
  intro s core x rest hr hring hve
  refine ⟨fun hx => ?pool, fun hx hlen b ch d1 b1 hb hch hm => ?merge⟩
  case pool =>
    intro d l a b hl hc ha hs hbag e d1 hroom
    have hpool := Dev.poolTuple_of_held (c := s.ctl) hc ha hs hbag rfl rfl hroom
    exact leaves_of_onDev hr (by rw [exec, execPoolPass]) (by simp [hring, hx, hve, d, hl, hpool, d1, e])
  case merge =>
    have hnum : b1.num = b.num := Dev.mergePass_num (b := { b with chain := some ch }) hm
    exact leaves_of_onDev hr (by rw [exec, execMergePass]) (by simp [hring, hx, hve, hb, hlen, hch, hm, hnum])

end Sys2Proof.Machine
end

section
/-! SUPPORT. Table maintenance (R84, R94, R104 to R118): the op at the head of the queue, the outcomes of a cutover, writes of the Gather Engine's areas. -/

namespace Sys2Proof.Machine
open Sys2Proof.Claims

/-- Outside replay, the maintenance op at the head of the queue runs by its table rules and leaves the queue, unless it waits. -/
theorem Dev.maintHead_of_runs {c : Ctl} {d d1 : Dev} {core o : Nat} {q : QOp} {rest : List QOp} {r : MaintRes} (hq : (d.ge core).queue = q :: rest)
    (ho : q.op % 256 = o) (hw : d.withheld core q = false) (hn : ((d.ge core).maint.filter (fun m => m.mirror.isNone)).length < 16)
    (hf : d.forced c q.own.ch 8 = false) (hm : d.maintDo c core { op := q, facet := c.facetOfCore core } none = (d1, r)) (hr : r ≠ .wait) :
    d.maintHead c core o = (d1.popOp core .ge).maintTook c core { op := q, facet := c.facetOfCore core } r := by
  cases r with
  | wait => exact absurd rfl hr
  | done old st => simp [Dev.maintHead, hq, ho, hw, hn, hf, hm]
  | sent p => simp [Dev.maintHead, hq, ho, hw, hn, hf, hm]

/-- The six maintenance ops are one command, by opcode. -/
theorem exec_eq_maintCmd {core : Fin 128} {o : Nat} {i : Instr} (s : State)
    (hi : (o, i) ∈ [(0x51, Instr.rowPut core), (0x52, .rowMove core), (0x53, .shardSet core), (0x54, .tableStage core), (0x55, .tableCutover core),
      (0x56, .tableRelease core)]) : exec i s = maintCmd core o s := by
  simp only [List.mem_cons, Prod.mk.injEq, List.not_mem_nil, or_false] at hi
  rcases hi with ⟨rfl, rfl⟩ | ⟨rfl, rfl⟩ | ⟨rfl, rfl⟩ | ⟨rfl, rfl⟩ | ⟨rfl, rfl⟩ | ⟨rfl, rfl⟩ <;> rfl

/-- Settles O31: the op at the head runs; the answers that are due follow. -/
theorem maintenanceOps : Obligations.MaintenanceOps := by
  intro s core o i q rest d1 r hr hi d hq ho hw hn hf hm hwait
  exact leaves_of_onDev hr (by rw [exec_eq_maintCmd s hi, maintCmd]) (by rw [Dev.maintHead_of_runs hq ho hw hn hf hm hwait])

/-! ### The outcomes of TABLE_CUTOVER (R104) -/

section Cutover
variable (c : Ctl) (d : Dev) (core as op : Nat) (e : List Byte) (k : Bool)

theorem Dev.tableCutover_notStaged (h : slotIn e 1 = none) : d.tableCutover c core as op e k = d.tableAnswer c core as op 2 := by
  rw [Dev.tableCutover, h]

variable {x : Nat} (h : slotIn e 1 = some x)
include h

theorem Dev.tableCutover_otherEpoch (he : (slotVer e x).epoch ≠ mtEpoch op) : d.tableCutover c core as op e k = d.tableAnswer c core as op 3 := by
  simp only [Dev.tableCutover, h, if_pos he]

variable (he : (slotVer e x).epoch = mtEpoch op)
include he

theorem Dev.tableCutover_retiring (hy : slotState e (1 - x) = 3) : d.tableCutover c core as op e k = d.tableAnswer c core as op 4 := by
  simp only [Dev.tableCutover, h, if_neg (not_not_intro he), if_pos hy]

theorem Dev.tableCutover_takesEffect (hy : slotState e (1 - x) ≠ 3) :
    (d.tableCutover c core as op e k).2 = .done 0 0 ∨ (d.tableCutover c core as op e k).2 = .wait := by
  simp only [Dev.tableCutover, h, if_neg (not_not_intro he), if_neg hy]
  split
  next => exact .inr rfl
  next => exact .inl rfl

end Cutover

/-- Settles O32: each status by the branch of the cutover. -/
theorem cutoverStatus : Obligations.CutoverStatus := fun c d core as op e k =>
  ⟨fun h => congrArg Prod.snd (d.tableCutover_notStaged c core as op e k h),
    fun _ h he => congrArg Prod.snd (d.tableCutover_otherEpoch c core as op e k h he),
    fun _ h he hy => congrArg Prod.snd (d.tableCutover_retiring c core as op e k h he hy),
    fun _ h he hy => d.tableCutover_takesEffect c core as op e k h he hy⟩

/-- Settles O33: each clause's conditions choose one branch of its command. -/
theorem putsAtTheHomeOwner : Obligations.PutsAtTheHomeOwner := by
  intro s core hr
  refine ⟨fun j hin hj hph hack => ?written, fun j hl hj hph hin => ?roundsEnded, fun x rest j ht hm => ?arrival,
    fun x rest src as table epoch shard slot b d1 ht hm hown hw => ?rowData, fun asp table d1 e bad r ht he hret hmay => ?retire⟩
  case written => exact leaves_of_onDev hr (by rw [exec, execRowWriteAck]) (by simp [hin, hj, hph, hack])
  case roundsEnded => exact leaves_of_onDev hr (by rw [exec, execPutRoundsEnded]) (by simp [hl, hj, hph, hin])
  case arrival =>
    intro d hown
    refine leaves_of_onDev hr (by rw [exec, execHomeOwnerPutArrival]) ?_
    generalize hy : takeMsg _ _ = y
    cases hy.symm.trans ht
    simp [hm, d, hown]
  case rowData =>
    refine leaves_of_onDev hr (by rw [exec, execRemoteShardRowDataArrival]) ?_
    generalize hy : takeMsg _ _ = y
    cases hy.symm.trans ht
    simp [hm, hown, hw]
  case retire => exact leaves_of_onDev hr (by rw [exec, execVersionRetire]) (by simp [ht, he, hret, hmay])

/-- An admitted write of an area of a Gather Engine that holds no basket and no list: the bound is the area's end in Core Store (R117). -/
theorem geAreaWrite_of_idle {c : Ctl} {d : Dev} {fn core area val : Nat} (hg : (checkWrite c d fn (baseGE core + 4 * area) 4).2 = true)
    (hb : (d.ge core).baskets = []) (hl : (d.ge core).lists = []) :
    geAreaWrite c d fn core area val =
      if storeBytes < (if area = 0 then bits val 14 0 * 256 + 64 * 256 else (bits val 10 0 + bits val 26 16) * 4096) then
        dropWrite d 1 fn (baseGE core + 4 * area)
      else writeFields d (baseGE core + 4 * area) val := by
  simp [geAreaWrite, hostWrite_admitted _ _ _ _ _ _ hg, hb, hl]

/-- Settles O34: the check admits the write, and the clause's conditions choose what it does. -/
theorem directoryAndRegistryWrites : Obligations.DirectoryAndRegistryWrites := by
  intro s fn asp core area high val hr
  refine ⟨fun hg => ⟨fun has => ?flush, fun has => ?flushOutside, ?flushAll⟩, fun hg hused _ => ⟨_, rfl, fun hl => ?registry⟩,
    fun hg hused => ?registryInUse,
    fun hg hb hl => ⟨fun htop => ?area, fun htop => ?areaOutside⟩, fun d1 hg hheld hreg => ?graphs⟩
  case flush => exact leaves_of_onDev hr (by rw [exec, execFlushAs]) (by simp [hostWrite_admitted _ _ _ _ _ _ hg, has, Dev.rdDrop])
  case flushOutside => exact leaves_of_onDev hr (by rw [exec, execFlushAs]) (by simp [hostWrite_admitted _ _ _ _ _ _ hg, has])
  case flushAll => exact leaves_of_onDev hr (by rw [exec, execFlushAll]) (by simp [hostWrite_admitted _ _ _ _ _ _ hg, Dev.rdDrop])
  case registry =>
    exact leaves_of_onDev hr (by rw [exec, execRdTregWrite]) (by simp [rdTregWrite, hostWrite_admitted _ _ _ _ _ _ hg, hused, hl])
  case registryInUse =>
    exact leaves_of_onDev hr (by rw [exec, execRdTregWrite]) (by simp [rdTregWrite, hostWrite_admitted _ _ _ _ _ _ hg, hused])
  case area =>
    exact leaves_of_onDev hr (by rw [exec, execGeAreaWrite]) ((geAreaWrite_of_idle hg hb hl).trans (if_neg (Nat.not_lt.mpr htop)))
  case areaOutside => exact leaves_of_onDev hr (by rw [exec, execGeAreaWrite]) ((geAreaWrite_of_idle hg hb hl).trans (if_pos htop))
  case graphs => exact leaves_of_onDev hr (by rw [exec, execFeGregWrite]) (by simp [feGregWrite, hostWrite_admitted _ _ _ _ _ _ hg, hheld, hreg])

end Sys2Proof.Machine
end

section
/-! SUPPORT. The Matrix Engine (R151 to R175): the level's ramp, what the engine's updates leave of its part of a core, and the group at the head
of the queue. -/

namespace Sys2Proof.Machine
open Sys2Proof.Claims

/-! ### The level (R170 to R173) -/

/-- What one cycle without an issue does to the level: it stays, it falls from 8 after 64 gap cycles without work, it rises with work after 16
cycles, or it falls without work. -/
theorem Me.nextLevel_cases (m : Me) (ready : Bool) :
    (m.nextLevel ready).1 = m.level ∨
    (m.level = 8 ∧ ready = false ∧ 64 ≤ m.gap ∧ (m.nextLevel ready).1 = 7) ∨
    (m.level ≠ 8 ∧ ready = true ∧ 16 ≤ m.held ∧ (m.nextLevel ready).1 = m.level + 1) ∨
    (m.level ≠ 8 ∧ m.level ≠ 0 ∧ 16 ≤ m.held ∧ (m.nextLevel ready).1 = m.level - 1) := by
  unfold Me.nextLevel
  split
  next h8 =>
    split
    next => exact .inl h8.symm
    next hidle =>
      obtain ⟨hready, hgap⟩ : ready = false ∧ 64 ≤ m.gap := by simpa using hidle
      exact .inr (.inl ⟨h8, hready, hgap, rfl⟩)
  next h8 =>
    split
    next => exact .inl rfl
    next hheld =>
      split
      next hready => exact .inr (.inr (.inl ⟨h8, hready, Nat.le_of_not_lt hheld, rfl⟩))
      next =>
        split
        next h0 => exact .inl h0.symm
        next h0 => exact .inr (.inr (.inr ⟨h8, h0, Nat.le_of_not_lt hheld, rfl⟩))

/-- Settles O38: in each case of the next level the bounds are arithmetic. -/
theorem levelRamp : Obligations.LevelRamp := by
  intro m ready hle
  rcases m.nextLevel_cases ready with h | ⟨h8, hready, hgap, h⟩ | ⟨h8, hready, hheld, h⟩ | ⟨h8, h0, hheld, h⟩
  · rw [h]; omega
  · rw [h, h8]; exact ⟨by omega, by omega, by omega, by omega, fun _ _ => ⟨hready, hgap⟩, by omega⟩
  · rw [h]; exact ⟨by omega, by omega, by omega, fun _ => ⟨hready, hheld⟩, by omega, by omega⟩
  · rw [h]; omega

/-! ### Ops that enter an engine's queue (R350) -/

/-- The op at the program counter enters the queue where there is room. -/
theorem Dev.issue_of_ready {s : State} {core o op : Nat} {e : Eng} {t : Task} (h : Claims.Ready s core o e t op) :
    s.dev.issue core o e = (issued s.dev core e t op, true) := by
  obtain ⟨hop, hroom⟩ := h
  simp [Dev.issue, hop, Nat.not_le.mpr hroom, issued]

/-- An op of the Matrix Engine that enters the queue lets act what can act at once. -/
theorem leaves_of_meIssue {i : Instr} {s : State} {core : Fin 128} {o op : Nat} {t : Task} (hr : Runs s) (hi : exec i s = meIssue core o s)
    (h : Claims.Ready s core o .me t op) : Leaves i s ((issued s.dev core .me t op).meDrain s.ctl core 64) :=
  leaves_of_onDev hr (by rw [hi, meIssue]) (by simp [Dev.issue_of_ready h])

/-- Settles O35: the five ops are one command, by opcode. -/
theorem matrixOpsEnter : Obligations.MatrixOpsEnter := fun _ _ _ _ hr =>
  ⟨leaves_of_meIssue hr rfl, leaves_of_meIssue hr rfl, leaves_of_meIssue hr rfl, leaves_of_meIssue hr rfl, leaves_of_meIssue hr rfl⟩

/-! ### The engine's part of a core -/

section Updates
variable (d : Dev) (core : Nat)

@[simp] theorem Dev.me_updMe (f : Me → Me) : (d.updMe core f).me core = f (d.me core) := by
  simp only [Dev.me, Dev.updMe, Dev.updCore, Dev.core_setCore_self]

@[simp] theorem Dev.me_count (off n : Nat) : (d.count off n).me core = d.me core := rfl

@[simp] theorem Dev.me_meTake (ids : List Nat) : (d.meTake core ids).me core =
    { d.me core with queue := (d.me core).queue.filter (fun q => !ids.contains q.id), issues := (d.me core).issues + ids.length } := d.me_updMe core _

/-- Two updates that agree on the engine as it stands leave the same. -/
theorem Dev.updMe_congr {f g : Me → Me} (h : f (d.me core) = g (d.me core)) : d.updMe core f = d.updMe core g := by
  have hk : ({ d.core core with me := f (d.core core).me } : Core) = { d.core core with me := g (d.core core).me } := by
    rw [show f (d.core core).me = g (d.core core).me from h]
  simp only [Dev.updMe, Dev.updCore, hk]

/-- Whether rows are left to issue is a fact about the groups. -/
theorem Me.issuing_congr {m m' : Me} (h : m.groups = m'.groups) : m.issuing = m'.issuing := by simp only [Me.issuing, h]

theorem Me.issuing_eq_false_of_groups {m : Me} (h : m.groups = []) : m.issuing = false := by simp [Me.issuing, h]

/-- Without rows left to issue, no row issues. -/
theorem Dev.issueRow_of_not_issuing (h : (d.me core).issuing = false) : d.issueRow core = d := by
  have hk : (d.core core).me.issuing = false := h
  simp [Dev.issueRow, hk]

/-- Without a load in progress the Expander gets no session. -/
theorem Dev.meSession_of_no_load (h : (d.me core).started = []) : d.meSession core = d := by
  have hk : (d.core core).me.started = [] := h
  simp [Dev.meSession, hk]

/-- Where nothing can take effect and no load is in progress, the drain leaves the state. -/
theorem Dev.meDrain_of_meStep_none {c : Ctl} (n : Nat) (h : d.meStep c core = none) (hs : (d.me core).started = []) : d.meDrain c core n = d := by
  cases n with
  | zero => exact d.meSession_of_no_load core hs
  | succ n => simp only [Dev.meDrain, h, d.meSession_of_no_load core hs]

end Updates

/-! ### Weight sets (R152, R165) -/

/-- Settles O36: with no load to start and no group at work, the op at the head of the queue decides the step. -/
theorem weightSets : Obligations.WeightSets := by
  intro c d core q rest hq hw hreload hstarted hgroups hrun _ hclean
  have hissuing : (d.me core).issuing = false := Me.issuing_eq_false_of_groups hgroups
  refine ⟨fun hswap hlevel => ?swaps, fun hswap hlevel => ?waits, fun hswap hinval => ?invalidates⟩
  case swaps => simp [Dev.meStep, hq, hw, hreload, hrun, hswap, hclean, hstarted, hlevel, hissuing]
  case waits => simp [Dev.meStep, hq, hw, hreload, hrun, hswap, hclean, hlevel]
  case invalidates => simp [Dev.meStep, hq, hw, hreload, hrun, hswap, hinval, hclean, hstarted, hgroups]

/-! ### The group at the head of the queue (R154) -/

/-- Every member of the head group is an ME_MM. -/
theorem isMm_of_mem_headGroup {l qs : List QOp} (h : headGroup l = some qs) : ∀ q ∈ qs, isMm q = true := by
  unfold headGroup at h
  dsimp only at h
  split at h
  next last _ _ =>
    split at h
    next hlast =>
      cases h
      intro q hq
      rcases List.mem_append.mp hq with hq | hq
      · exact (Bool.and_eq_true_iff.mp (show isJoin q = true from List.mem_takeWhile_imp hq)).1
      · rw [List.mem_singleton.mp hq]; exact hlast
    next => cases h
  next => cases h

theorem headGroup_ne_nil {l qs : List QOp} (h : headGroup l = some qs) : l ≠ [] := by
  rintro rfl
  cases h

/-- An ME_MM is no op of another kind. -/
theorem kinds_of_isMm {q : QOp} (h : isMm q = true) : isLoad q = false ∧ isSwap q = false ∧ isInval q = false ∧ q.op % 256 ≠ 0x14 := by
  have hop : q.op % 256 = 0x12 := by simpa [isMm] using h
  simp [isLoad, isSwap, isInval, hop]

/-- A good group that is the whole queue takes effect at its issue alone. -/
theorem Dev.meStep_of_good_group {c : Ctl} {d : Dev} {core : Nat} {qs : List QOp} (hq : (d.me core).queue = qs) (hg : headGroup qs = some qs)
    (hrun : openRun [] qs = none) (hf : groupFault (d.me core) qs = none) (hreload : (d.me core).reload = none)
    (hw : ∀ q ∈ qs, d.withheld core q = false) : d.meStep c core = none := by
  have hmm := isMm_of_mem_headGroup hg
  have hload : (qs.takeWhile (fun x => !isSwap x && !isInval x)).find? isLoad = none :=
    List.find?_eq_none.mpr fun q hq => by simp [(kinds_of_isMm (hmm q ((List.takeWhile_sublist _).subset hq))).1]
  cases qs with
  | nil => exact absurd rfl (headGroup_ne_nil hg)
  | cons q rest =>
    obtain ⟨-, hswap, hinval, hscales⟩ := kinds_of_isMm (hmm q List.mem_cons_self)
    simp only [Dev.meStep, hq, hw q List.mem_cons_self, hreload, hrun, hload, hswap, hinval, hscales, hg, hf, Bool.false_eq_true, if_false]

/-! ### The members of a group (R145, R177) -/

theorem length_insertMember (x : MeMember) (l : List MeMember) : (insertMember x l).length = l.length + 1 := by
  induction l with
  | nil => rfl
  | cons y r ih =>
    unfold insertMember
    split
    · rfl
    · simp [ih]

theorem length_foldl_insertMember (xs l : List MeMember) : (xs.foldl (fun l x => insertMember x l) l).length = xs.length + l.length := by
  induction xs generalizing l with
  | nil => simp
  | cons x xs ih => rw [List.foldl_cons, ih, length_insertMember, List.length_cons]; omega

/-! ### The start of a group (R154, R159, R161) -/

/-- The member that op q of a group becomes when its descriptors read as t: its sub-array and scale registers as they stand. -/
def Dev.groupMember (d : Dev) (core : Nat) (q : QOp) (t : Desc × Desc) : MeMember :=
  let sub := ((d.me core).subOf q.op).getD {}
  (d.core core).passSkipped {
    op := q, sub := sub, sparse := (d.me core).active.sparse, adesc := t.1, odesc := t.2
    scales := (List.range sub.n).map (fun i => d.scaleReg (baseMeScale core) (d.me core).scalePoison (opf q.op 6 11 0 + i)) }

theorem Dev.groupMember_op (d : Dev) (core : Nat) (q : QOp) (t : Desc × Desc) : (d.groupMember core q t).op = q := rfl

/-- Ops qs start to issue as a group of members xs: those with rows are its work, those without rows end. -/
def Dev.startGroup (d : Dev) (core : Nat) (qs : List QOp) (xs : List MeMember) : Dev :=
  let work := (xs.filter (fun x => opn x.op.op 4 2 ≠ 0)).foldl (fun l x => insertMember x l) []
  let e := (d.meTake core (qs.map (·.id))).updMe core (fun m => { m with
    groups := if work.isEmpty then m.groups else m.groups ++ [numberTiles m.tile work]
    tile := m.tile + work.length, period := groupPeriod (d.me core) qs })
  let e := (e.count (baseME core + 0x48) (work.foldl (fun a x => a + x.out) 0)).issueRow core
  (qs.filter (fun q => opn q.op 4 2 = 0)).foldl (fun d q => d.opDone core q) e

/-- ME_GROUP_ISSUE starts the group at the head of the queue where nothing holds it back and its descriptors are good. -/
theorem leaves_of_startGroup {s : State} {core : Fin 128} {d : Dev} {qs : List QOp} {ao : QOp → Desc × Desc} (hr : Runs s)
    (hdrain : s.dev.meDrain s.ctl core 64 = d) (hg : headGroup (d.me core).queue = some qs)
    (hrows : (∀ q ∈ qs, opn q.op 4 2 = 0) ∨ ((d.me core).level = 8 ∧ d.permits (s.ctl.facetOfCore core) = true))
    (hissuing : (d.me core).issuing = false) (hw : ∀ q ∈ qs, d.withheld core q = false)
    (hao : ∀ q ∈ qs, (d.core core).mmDescs q.op = .inl (ao q)) :
    Leaves (.meGroupIssue core) s ((d.startGroup core qs (qs.map fun q => d.groupMember core q (ao q))).meDrain s.ctl core 64) := by
  refine leaves_of_onDev hr (by rw [exec, execMeGroupIssue]) ?_
  have hstart : ((qs.any (fun q => opn q.op 4 2 ≠ 0) && ((d.me core).level ≠ 8 || !d.permits (s.ctl.facetOfCore core))) ||
      ((d.me core).issuing || qs.any (d.withheld core))) = false := by
    have hfree : qs.any (d.withheld core) = false := by simpa using hw
    rcases hrows with hnone | ⟨hlevel, hpermits⟩
    · have hnone' : qs.any (fun q => opn q.op 4 2 ≠ 0) = false := by simpa using hnone
      simp only [hnone', hissuing, hfree, Bool.false_and, Bool.or_self]
    · simp [hlevel, hpermits, hissuing, hfree]
  have hdesc : qs.find? (fun q => ((d.core core).mmDescs q.op).isRight) = none := List.find?_eq_none.mpr fun q hq => by simp [hao q hq]
  simp only [hdrain, hg, hstart, hdesc, Bool.false_eq_true, if_false]
  generalize hxs : (qs.map _ : List MeMember) = xs
  have hmembers : xs = qs.map fun q => d.groupMember core q (ao q) := hxs.symm.trans (List.map_congr_left fun q hq => by simp [hao q hq, Dev.groupMember])
  rw [hmembers]
  rfl

/-- Members with rows become the one group at work. -/
theorem Dev.startGroup_of_rows {d : Dev} {core : Nat} {qs : List QOp} {xs : List MeMember} (hq : ∀ q ∈ qs, opn q.op 4 2 ≠ 0)
    (hx : ∀ x ∈ xs, opn x.op.op 4 2 ≠ 0) (hne : xs ≠ []) (hg : (d.me core).groups = []) :
    let work := xs.foldl (fun l x => insertMember x l) []
    d.startGroup core qs xs = (((d.meTake core (qs.map (·.id))).updMe core (fun m => { m with
      groups := [numberTiles m.tile work], tile := m.tile + work.length, period := groupPeriod (d.me core) qs })).count (baseME core + 0x48)
        (work.foldl (fun a x => a + x.out) 0)).issueRow core := by
  intro work
  have hwork : work ≠ [] := fun h => hne (List.length_eq_zero_iff.mp (by simpa [work, h] using (length_foldl_insertMember xs []).symm))
  have hxs : xs.filter (fun x => opn x.op.op 4 2 ≠ 0) = xs := List.filter_eq_self.mpr (by simpa using hx)
  have hqs : qs.filter (fun q => opn q.op 4 2 = 0) = [] := List.filter_eq_nil_iff.mpr (by simpa using hq)
  simp only [Dev.startGroup, hxs, hqs, List.foldl_nil]
  congr 2
  exact Dev.updMe_congr _ _ (by simp [hg, hwork, work])

/-- A member without rows ends at once. -/
theorem Dev.startGroup_of_no_rows {d : Dev} {core : Nat} {q : QOp} {x : MeMember} (hq : opn q.op 4 2 = 0) (hx : x.op = q)
    (hissuing : (d.me core).issuing = false) :
    d.startGroup core [q] [x] = ((((d.meTake core [q.id]).updMe core (fun m => { m with period := groupPeriod (d.me core) [q] })).count
      (baseME core + 0x48) 0).opDone core q) := by
  let e := ((d.meTake core [q.id]).updMe core (fun m => { m with period := groupPeriod (d.me core) [q] })).count (baseME core + 0x48) 0
  have he : (e.me core).issuing = false := by rw [Me.issuing_congr (m' := d.me core) (by simp [e]), hissuing]
  simpa [Dev.startGroup, hx, hq] using congrArg (fun d : Dev => d.opDone core q) (e.issueRow_of_not_issuing core he)

/-! ### The engine at work (R154 to R175) -/

theorem Dev.mmWrite_op (d : Dev) (core : Nat) (x : MeMember) : (d.mmWrite core x).2.op = x.op := rfl

theorem Dev.mmWrite_row (d : Dev) (core : Nat) (x : MeMember) : (d.mmWrite core x).2.row = x.row + 1 := rfl

/-- Without an op queued and a group at work, no work is ready (R173). -/
theorem Me.ready_of_no_work {m : Me} (hq : m.queue = []) (hg : m.groups = []) (p g : Bool) : m.ready p g = false := by
  simp [Me.ready, Me.issuing_eq_false_of_groups hg, hq]

/-- Such a gap cycle counts as one without work (R175). -/
theorem gapCounter_of_no_work {m : Me} (hq : m.queue = []) (hg : m.groups = []) (p g : Bool) : gapCounter m p g = 0x68 := by
  simp [gapCounter, Me.issuing_eq_false_of_groups hg, hq]

/-- Settles O37: each clause's conditions choose one branch of its command. -/
theorem matrixEngineEvents : Obligations.MatrixEngineEvents := by
  intro s core hr
  refine ⟨fun r rest hstarted hplain => ?load, fun hg => ?noGroup, fun qs ao => ?group, fun q => ?noRows, fun x rest hg hrow hmore => ?row,
    fun p hq hg hl hheld => ?idle, fun p hq hg hl hgap => ?stepDown⟩
  case load =>
    have hk : (s.dev.core core).me.started = r :: rest := hstarted
    exact leaves_of_onDev hr (by rw [exec, execMeLoadComplete]) (by simp [hk, hplain])
  case noGroup => exact leaves_of_onDev hr (by rw [exec, execMeGroupIssue]) (by simp [hg])
  case group =>
    intro m hq hg hrun hf hreload hstarted hgroups hlevel hpermits hw hd xs work d
    have hdrain : s.dev.meDrain s.ctl core 64 = s.dev :=
      s.dev.meDrain_of_meStep_none core 64 (Dev.meStep_of_good_group hq hg hrun hf hreload hw) hstarted
    have hstart := Dev.startGroup_of_rows (core := core) (xs := xs) (fun q hq => (hd q hq).2)
      (by rintro x hx; obtain ⟨q, hq, rfl⟩ := List.mem_map.mp hx; exact (hd q hq).2) (List.map_eq_nil_iff.not.mpr (headGroup_ne_nil hg)) hgroups
    have hleaves := leaves_of_startGroup hr hdrain ((congrArg headGroup hq).trans hg) (.inr ⟨hlevel, hpermits⟩)
      (Me.issuing_eq_false_of_groups hgroups) hw (fun q hq => (hd q hq).1)
    exact hstart ▸ hleaves
  case noRows =>
    intro d hg hrows ⟨a, o, hao⟩ hissuing hw
    have hleaves := leaves_of_startGroup (ao := fun _ => (a, o)) hr rfl hg (.inl (by simpa using hrows)) hissuing (by simpa using hw) (by simpa using hao)
    rw [List.map_singleton, Dev.startGroup_of_no_rows hrows (d.groupMember_op core q (a, o)) hissuing] at hleaves
    exact hleaves
  case row =>
    intro y
    have hwritable : (s.dev.me core).writable = true := by simp [Me.writable, hg, hrow]
    have hleft : ¬ opn y.2.op.op 4 2 ≤ y.2.row := by rw [Dev.mmWrite_op, Dev.mmWrite_row]; exact Nat.not_le.mpr hmore
    exact leaves_of_onDev hr (by rw [exec, execMeRowWrite]) (by simp [hwritable, hg, hrow, hleft, y])
  case idle =>
    have hnext : (s.dev.me core).nextLevel false = (0, (s.dev.me core).held + 1, (s.dev.me core).gap + 1) := by simp [Me.nextLevel, hl, hheld]
    refine leaves_of_onDev hr (by rw [exec, execMeLevelStep]) ?_
    simp only [Me.ready_of_no_work hq hg, gapCounter_of_no_work hq hg, hnext, Bool.and_false, Bool.false_eq_true, if_false]
    exact congrArg (fun d : Dev => (d.count _ 1).count _ 0) (Dev.updMe_congr _ _ rfl)
  case stepDown =>
    have hnext : (s.dev.me core).nextLevel false = (7, 1, (s.dev.me core).gap + 1) := by simp [Me.nextLevel, hl, hgap]
    refine leaves_of_onDev hr (by rw [exec, execMeLevelStep]) ?_
    simp only [Me.ready_of_no_work hq hg, gapCounter_of_no_work hq hg, hnext, Bool.and_false, Bool.false_eq_true, if_false]
    exact congrArg (fun d : Dev => (((d.count _ 1).count _ 0).count _ 1).count _ 1) (Dev.updMe_congr _ _ rfl)

end Sys2Proof.Machine
end

section
/-! SUPPORT. The Matrix-Vector Path (R182 to R197): when no lookup can run, and what the end of an op leaves of the ops under way and of the sync
objects. -/

namespace Sys2Proof.Machine
open Sys2Proof.Claims

/-- An op of the Matrix-Vector Path that enters the queue lets act what can act at once. -/
theorem leaves_of_mvIssue {i : Instr} {s : State} {core : Fin 128} {o op : Nat} {t : Task} (hr : Runs s) (hi : exec i s = mvIssue core o s)
    (h : Claims.Ready s core o .mv t op) : Leaves i s ((issued s.dev core .mv t op).mvDrain s.ctl core 9) :=
  leaves_of_onDev hr (by rw [hi, mvIssue]) (by simp [Dev.issue_of_ready h])

/-! ### Lookups that cannot run (R184, R189) -/

section Lookups
variable {c : Ctl} {d : Dev} {core : Nat}

/-- Without an op at work there is nothing to look up. -/
theorem Dev.mvLook_of_no_run (n : Nat) (h : (d.core core).mv.run = none) : d.mvLook c core n = d := by
  cases n with
  | zero => rfl
  | succ n => simp only [Dev.mvLook, h]

/-- With no chunk built and not yet looked up, and chunks left, the lookups wait for a build. -/
theorem Dev.mvLook_of_no_bank {r : MvRun} (n : Nat) (h : (d.core core).mv.run = some r) (hb : r.banks = []) (hl : r.looked < mvChunks r.op.op) :
    d.mvLook c core n = d := by
  cases n with
  | zero => rfl
  | succ n => simp only [Dev.mvLook, h, hb, hl, decide_true, Bool.true_or, if_true]

end Lookups

/-! ### The ops under way (R190) -/

/-- The ops under way in the Matrix-Vector Path of a core, the one at work and the one that drains, and the sync objects. -/
def Dev.mvWork (d : Dev) (core : Nat) : Option MvRun × Option MvRun × Sparse SyncObj :=
  ((d.core core).mv.run, (d.core core).mv.drain, d.sync)

section Work
variable (d : Dev) (core : Nat)

theorem Dev.mvWork_setCore {k : Core} (h : k.mv = (d.core core).mv) : (d.setCore core k).mvWork core = d.mvWork core := by
  simp only [Dev.mvWork, Dev.core_setCore_self, h, Dev.setCore_sync]

theorem Dev.mvWork_updMv (f : Mv → Mv) :
    (d.updMv core f).mvWork core = ((f (d.core core).mv).run, (f (d.core core).mv).drain, d.sync) := by
  simp only [Dev.mvWork, Dev.updMv, Dev.updCore, Dev.core_setCore_self, Dev.setCore_sync]

@[simp] theorem Dev.mvWork_setReg (off v : Nat) : (d.setReg off v).mvWork core = d.mvWork core := rfl
@[simp] theorem Dev.mvWork_count (off n : Nat) : (d.count off n).mvWork core = d.mvWork core := rfl
@[simp] theorem Dev.mvWork_raise (off i cnt : Nat) : (d.raise off i cnt).mvWork core = d.mvWork core := rfl
@[simp] theorem Dev.mvWork_updOwnCmd (o : Owner) (f : Cmd → Cmd) : (d.updOwnCmd o f).mvWork core = d.mvWork core := rfl
@[simp] theorem Dev.mvWork_mvGaps (g : Gaps) : (d.mvGaps core g).mvWork core = d.mvWork core := rfl

@[simp] theorem Dev.mvWork_markIf (b : Bool) (o : Owner) (i : Nat) : (d.markIf b o i).mvWork core = d.mvWork core := by
  cases b <;> rfl

theorem Dev.mvWork_raiseIf (b : Bool) (off i cnt : Nat) : (if b then d.raise off i cnt else d).mvWork core = d.mvWork core := by
  cases b <;> rfl

@[simp] theorem Dev.mvWork_violate (v : Violation) : (d.violate v).mvWork core = d.mvWork core := by
  simp only [Dev.mvWork, Dev.core, Dev.violate_cores, Dev.violate_sync]

@[simp] theorem Dev.mvWork_updSeq (f : Seq → Seq) : (d.updSeq core f).mvWork core = d.mvWork core := d.mvWork_setCore core rfl

@[simp] theorem Dev.mvWork_updOwnTask (o : Owner) (f : Task → Task) : (d.updOwnTask core o f).mvWork core = d.mvWork core :=
  d.mvWork_setCore core rfl

@[simp] theorem Dev.mvWork_retired (o : Owner) : (d.retired core o).mvWork core = d.mvWork core := by
  unfold Dev.retired
  split
  · rfl
  · simp

@[simp] theorem Dev.mvWork_opDone (q : QOp) : (d.opDone core q).mvWork core = d.mvWork core := by
  simp [Dev.opDone, Dev.dropOutst]

@[simp] theorem Dev.mvWork_putScales (base : Nat) (l : List (Nat × Nat × Bool)) : (d.putScales base l).mvWork core = d.mvWork core :=
  Dev.foldl_keeps (Dev.mvWork · core) (fun d (x : Nat × Nat × Bool) => d.setReg (base + 4 * x.1) x.2.1) (fun _ _ => rfl) l d

/-! ### Refusals and MV_SCALES (R195, R196) -/

@[simp] theorem Dev.mvWork_refusedFor (o : Owner) (eng code : Nat) : (d.refusedFor core o eng code).mvWork core = d.mvWork core := by
  unfold Dev.refusedFor
  dsimp only
  split <;> simp [Dev.noteRefusal]

@[simp] theorem Dev.mvWork_mvRefuse (c : Ctl) (q : QOp) (code : Nat) (logged : Bool) : (d.mvRefuse c core q code logged).mvWork core = d.mvWork core := by
  cases logged <;> simp [Dev.mvRefuse, Dev.opRefused, Dev.dropOutst]

/-- MV_SCALES that take effect leave the ops under way. -/
@[simp] theorem Dev.mvWork_mvDrain (c : Ctl) (n : Nat) : (d.mvDrain c core n).mvWork core = d.mvWork core := by
  induction n generalizing d with
  | zero => rfl
  | succ n ih =>
    unfold Dev.mvDrain
    dsimp only
    split
    next q rest hq hrun hdrain =>
      split
      next => rfl
      next =>
        have hpop : (d.updMv core (fun m => { m with queue := rest })).mvWork core = d.mvWork core := d.mvWork_updMv core _
        split
        next => rw [ih, Dev.mvWork_mvRefuse, hpop]
        next l _ =>
          rw [ih, Dev.mvWork_opDone, Dev.mvWork_updMv, ← hpop, ← Dev.mvWork_markIf _ core (l.any (·.2.2)) q.own 0,
            ← Dev.mvWork_putScales _ core (baseMvScale core) l]
          rfl
    next => rfl

/-! ### Outputs (R145, R197, R268) -/

@[simp] theorem Dev.mvWork_writeElems (l : List (Nat × List PByte)) (prior : Nat → Bool) : (d.writeElems core l prior).mvWork core = d.mvWork core :=
  d.mvWork_setCore core (List.foldlRecOn (motive := fun k : Core => k.mv = (d.core core).mv) _ _ rfl fun _ h _ _ => h)

@[simp] theorem Dev.mvWork_oobDrop (eng : Nat) (t : Desc) (o : Owner) (n : Nat) (first : Option (Nat × Nat)) (report : Bool) :
    (d.oobDrop core eng t o n first report).mvWork core = d.mvWork core := by
  unfold Dev.oobDrop
  dsimp only
  split
  · rfl
  split
  · rw [Dev.mvWork_raise]
    split
    · rfl
    · cases first <;> rfl
  · rfl

@[simp] theorem Dev.mvWork_placeSpecial (status i cnt rec_ : Nat) (o : Owner) (v : Nat) :
    (d.placeSpecial status i cnt rec_ o v).mvWork core = d.mvWork core := by
  unfold Dev.placeSpecial
  dsimp only
  split <;> rfl

@[simp] theorem Dev.mvWork_putRow (eng : Nat) (t : Desc) (o : Owner) (r row0 col0 : Nat) (l : List (Nat × Nat × Nat × Bool)) (report : Bool) :
    (d.putRow core eng t o r row0 col0 l report).1.mvWork core = d.mvWork core := by
  simp [Dev.putRow]

end Work

/-- The end of the op that drained: with none at work no lookup follows, and MV_SCALES leave the ops under way. -/
theorem Dev.mvWork_drained {c : Ctl} {d : Dev} {core : Nat} {q : QOp} {drain : Option MvRun} {sync : Sparse SyncObj}
    (h : d.mvWork core = (none, drain, sync)) :
    ((((d.updMv core (fun m => { m with drain := none, tile := m.tile + 1 })).opDone core q).mvLook c core 3).mvDrain c core 9).mvWork core =
      (none, none, sync) := by
  obtain ⟨hrun, -, hsync⟩ : (d.core core).mv.run = none ∧ (d.core core).mv.drain = drain ∧ d.sync = sync := by simpa [Dev.mvWork] using h
  have hend : ((d.updMv core (fun m => { m with drain := none, tile := m.tile + 1 })).opDone core q).mvWork core = (none, none, sync) := by
    rw [Dev.mvWork_opDone, Dev.mvWork_updMv, hrun, hsync]
  rw [Dev.mvLook_of_no_run 3 (congrArg Prod.fst hend), Dev.mvWork_mvDrain, hend]

/-- The op that drains ends at MV_OP_COMPLETE where no op is at work: then none is under way, and the sync objects stay (R190, R197). -/
theorem leaves_of_mvDraining {s : State} {core : Fin 128} {g : Gaps} {r : MvRun} (hr : Runs s) (hrun : (s.dev.core core).mv.run = none)
    (hdrain : (s.dev.core core).mv.drain = some r) :
    ∃ d, Leaves (.mvOpComplete core g) s d ∧ d.mvWork core = (none, none, s.dev.sync) := by
  refine ⟨_, leaves_of_onDev hr (by rw [exec, execMvOpComplete]) rfl, ?_⟩
  simp only [Dev.mvLook_of_no_run 3 hrun, hdrain]
  generalize hx : List.foldl _ _ _ = x
  have hrows : x.1.mvWork core = (none, some r, s.dev.sync) :=
    hx ▸ List.foldlRecOn (motive := fun acc : Dev × Option (Nat × Nat × Nat) × Bool => acc.1.mvWork core = (none, some r, s.dev.sync)) _ _
      (by simp only [Dev.mvWork, hrun, hdrain]) fun acc h x _ => (Dev.mvWork_putRow acc.1 core ..).trans h
  obtain ⟨d, special, poison⟩ := x
  apply Dev.mvWork_drained (drain := some r)
  rw [Dev.mvWork_mvGaps, Dev.mvWork_count, Dev.mvWork_markIf, Dev.mvWork_raiseIf]
  cases special with
  | none => exact hrows
  | some x => exact (Dev.mvWork_placeSpecial ..).trans hrows

/-- Settles O39: each clause's conditions choose one branch of its command. -/
theorem matrixVectorOps : Obligations.MatrixVectorOps := by
  intro s core t op hr
  refine ⟨leaves_of_mvIssue hr rfl, leaves_of_mvIssue hr rfl, fun q rest a o w hq hrun hop hpermits hw hf hd hrows hcoding hlv => ?starts,
    fun r hrun hbuilt hbanks hlooked => ?builds, fun r g hrun hbanks hlooked hdrain => ?waits, fun r g hrun hdrain => ?ends⟩
  case starts =>
    refine ⟨(List.range (opn q.op 6 2)).map (fun i => s.dev.scaleReg (baseMvScale core) (s.dev.core core).mv.scalePoison (opn q.op 28 2 + i)),
      leaves_of_onDev hr (by rw [exec, execMvLeadIn]) ?_⟩
    simp [hq, hrun, hop, hpermits, hw, hf, hd, hrows, hcoding, hlv]
    rfl
  case builds =>
    have hlook : s.dev.mvLook s.ctl core 3 = s.dev := Dev.mvLook_of_no_bank 3 hrun hbanks (hlooked ▸ hbuilt)
    exact leaves_of_onDev hr (by rw [exec, execMvChunkBuildDone]) (by simp [hlook, hrun, hbanks, Nat.not_le.mpr hbuilt])
  case waits =>
    have hlook : s.dev.mvLook s.ctl core 3 = s.dev := Dev.mvLook_of_no_bank 3 hrun hbanks hlooked
    exact leaves_of_onDev hr (by rw [exec, execMvOpComplete]) (by simp [hlook, hdrain])
  case ends =>
    obtain ⟨d, hd, hwork⟩ := leaves_of_mvDraining (g := g) hr hrun hdrain
    obtain ⟨-, hdrained, hsync⟩ : (d.core core).mv.run = none ∧ (d.core core).mv.drain = none ∧ d.sync = s.dev.sync := by simpa [Dev.mvWork] using hwork
    exact ⟨_, hd, rfl, rfl, hdrained, hsync⟩

end Sys2Proof.Machine
end

section
/-! SUPPORT. The Vector Engine (R217 to R222): ops that enter the queues of an engine or wait for room, and when the op at the head of the queue
starts and completes. -/

namespace Sys2Proof.Machine
open Sys2Proof.Claims

/-! ### Ops that enter an engine's queue, and ops that wait for room (R217, R350) -/

/-- An op issues nothing while the queue that it would enter is full, whatever stands at the program counter. -/
theorem Dev.issue_of_full {d : Dev} {core : Nat} {e : Eng} (o : Nat) (h : e.cap ≤ (d.core core).queued e) : d.issue core o e = (d, false) := by
  unfold Dev.issue
  split
  next => rfl
  next => rw [if_pos h]

section Queues
variable {i : Instr} {s : State} {core : Fin 128} {o op : Nat} {t : Task}

/-- A GE_BASKET that finds room enters the queue of the Gather Engine; it starts by an event of its own. -/
theorem leaves_of_geBasket (hr : Runs s) (h : Claims.Ready s core 0x50 .ge t op) : Leaves (.geBasket core) s (issued s.dev core .ge t op) :=
  leaves_of_onDev hr (by rw [exec, execGeBasket]) (by rw [Dev.issue_of_ready h])

/-- A VE op that finds room enters the queue; the op at its head starts where it can. -/
theorem leaves_of_veIssue (hr : Runs s) (hi : exec i s = veIssue core o s) (h : Claims.Ready s core o .ve t op) :
    Leaves i s ((issued s.dev core .ve t op).veStart s.ctl core) :=
  leaves_of_onDev hr (by rw [hi, veIssue]) (by rw [Dev.issue_of_ready h])

/-- A VE op that finds the queue full waits; the op at the queue's head starts where it can. -/
theorem leaves_of_veFull (hr : Runs s) (hi : exec i s = veIssue core o s) (h : 8 ≤ (s.dev.core core).ve.queue.length) :
    Leaves i s (s.dev.veStart s.ctl core) :=
  leaves_of_onDev hr (by rw [hi, veIssue]) (by rw [Dev.issue_of_full (e := .ve) o h])

/-- A DMA op that finds room enters the queue. -/
theorem leaves_of_dmaIssue (hr : Runs s) (hi : exec i s = dmaIssue core o s) (h : Claims.Ready s core o .dma t op) :
    Leaves i s (issued s.dev core .dma t op) :=
  leaves_of_onDev hr (by rw [hi, dmaIssue]) (by rw [Dev.issue_of_ready h])

/-- A DMA op that finds the queue full waits. -/
theorem leaves_of_dmaFull (hr : Runs s) (hi : exec i s = dmaIssue core o s) (h : 8 ≤ (s.dev.core core).dma.queue.length) : Leaves i s s.dev :=
  leaves_of_onDev hr (by rw [hi, dmaIssue]) (by rw [Dev.issue_of_full (e := .dma) o h])

/-- The five VE ops are one command, by opcode. -/
theorem exec_eq_veIssue (s : State) (hi : i ∈ [Instr.veChain core, .veLoad core, .veStore core, .veFill core, .veLive core]) :
    ∃ o, exec i s = veIssue core o s := by
  simp only [List.mem_cons, List.not_mem_nil, or_false] at hi
  rcases hi with rfl | rfl | rfl | rfl | rfl
  · exact ⟨0x30, rfl⟩
  · exact ⟨0x31, rfl⟩
  · exact ⟨0x32, rfl⟩
  · exact ⟨0x33, rfl⟩
  · exact ⟨0x34, rfl⟩

/-- The three DMA ops are one command, by opcode. -/
theorem exec_eq_dmaIssue (s : State) (hi : i ∈ [Instr.dmaCopy core, .dmaTensor core, .dmaRelay core]) : ∃ o, exec i s = dmaIssue core o s := by
  simp only [List.mem_cons, List.not_mem_nil, or_false] at hi
  rcases hi with rfl | rfl | rfl
  · exact ⟨0x60, rfl⟩
  · exact ⟨0x61, rfl⟩
  · exact ⟨0x62, rfl⟩

end Queues

/-- Settles O19: an op enters the queue of its engine where it has room; at a full queue nothing issues. -/
theorem opsEnterTheirQueues : Obligations.OpsEnterTheirQueues := by
  intro s core t op hr
  refine ⟨leaves_of_geBasket hr, leaves_of_veIssue hr rfl, leaves_of_veIssue hr rfl, leaves_of_veIssue hr rfl, leaves_of_veIssue hr rfl,
    leaves_of_veIssue hr rfl, leaves_of_dmaIssue hr rfl, leaves_of_dmaIssue hr rfl, leaves_of_dmaIssue hr rfl, fun hfull i hi => ?veWaits,
    fun hfull i hi => ?dmaWaits⟩
  case veWaits =>
    obtain ⟨o, ho⟩ := exec_eq_veIssue s hi
    exact leaves_of_veFull hr ho hfull
  case dmaWaits =>
    obtain ⟨o, ho⟩ := exec_eq_dmaIssue s hi
    exact leaves_of_dmaFull hr ho hfull

/-! ### The op at the head of the queue (R217, R222, R495) -/

section Head
variable (c : Ctl) {d : Dev} {core : Nat}

/-- While an op runs, no other starts. -/
theorem Dev.veStart_of_running (h : (d.core core).ve.running = true) : d.veStart c core = d := by
  cases hq : (d.core core).ve.queue with
  | nil => simp [Dev.veStart, hq]
  | cons q rest => simp [Dev.veStart, hq, h]

/-- While the governor does not permit, no op starts. -/
theorem Dev.veStart_of_held (h : d.permits (c.facetOfCore core) = false) : d.veStart c core = d := by
  cases hq : (d.core core).ve.queue with
  | nil => simp [Dev.veStart, hq]
  | cons q rest => simp [Dev.veStart, hq, h]

end Head

/-- The op at the head has left the queue, and its gap cycles are counted (R222). -/
def Dev.veTaken (d : Dev) (core : Nat) (g : Gaps) : Dev :=
  ((((d.popOp core .ve).updVe core (fun v => { v with running := false, turn := 0 })).count (baseVE core + 0x50) g.port).count
    (baseVE core + 0x54) g.governor).count (baseVE core + 0x58) g.idle

/-- What a VE op does when it completes, by its opcode (R217, R218); see leaves_of_veRunning. -/
def Dev.veCarryOut (c : Ctl) (d : Dev) (core : Nat) (q : QOp) : Dev :=
  match q.op % 256 with
  | 0x30 => d.veChain c core q
  | 0x33 => d.veFill c core q
  | 0x34 => d.veLive c core q
  | _ => d.veMove c core q

section Complete
variable {s : State} {core : Fin 128} {q : QOp} {rest : List QOp} {g : Gaps}

/-- An op that the governor holds back does not complete. -/
theorem leaves_of_veHeld (hr : Runs s) (hq : (s.dev.core core).ve.queue = q :: rest) (hrun : (s.dev.core core).ve.running = false)
    (hheld : s.dev.permits (s.ctl.facetOfCore core) = false) : Leaves (.veOpComplete core g) s s.dev :=
  leaves_of_onDev hr (by rw [exec, execVeOpComplete]) (by simp [Dev.veStart_of_held s.ctl hheld, hq, hrun])

/-- The op that runs is the one at the head: it leaves the queue and is carried out, and the next starts where it can. -/
theorem leaves_of_veRunning {d : Dev} (hr : Runs s) (hq : (s.dev.core core).ve.queue = q :: rest) (hrun : (s.dev.core core).ve.running = true)
    (hd : (s.dev.veTaken core g).veCarryOut s.ctl core q = d) : Leaves (.veOpComplete core g) s (d.veStart s.ctl core) := by
  subst hd
  refine leaves_of_onDev hr (by rw [exec, execVeOpComplete]) ?_
  simp only [Dev.veStart_of_running s.ctl hrun, hq, hrun]
  rfl

end Complete

/-- Settles O40: no op starts while the governor holds or beside one that runs, so the op at the head is the one that completes, by its opcode. -/
theorem vectorOpsComplete : Obligations.VectorOpsComplete := by
  intro s core q rest g hr hq
  refine ⟨leaves_of_veHeld hr hq, fun hrun => ⟨fun hop => ?chain, fun hop => ?move, fun hop => ?fill, fun hop => ?live⟩⟩
  case chain => exact leaves_of_veRunning hr hq hrun (by rw [Dev.veCarryOut, hop]; rfl)
  case move =>
    rcases hop with hop | hop
    · exact leaves_of_veRunning hr hq hrun (by rw [Dev.veCarryOut, hop]; rfl)
    · exact leaves_of_veRunning hr hq hrun (by rw [Dev.veCarryOut, hop]; rfl)
  case fill => exact leaves_of_veRunning hr hq hrun (by rw [Dev.veCarryOut, hop]; rfl)
  case live => exact leaves_of_veRunning hr hq hrun (by rw [Dev.veCarryOut, hop]; rfl)

end Sys2Proof.Machine
end

section
/-! SUPPORT. The Expander (R232, R240 to R256): an op that takes effect as it issues, the block that a session reads next, and the block that the
Expander decodes. -/

namespace Sys2Proof.Machine
open Sys2Proof.Claims

/-! ### Ops of the Expander (R246, R256) -/

section Issue
variable {d : Dev} {core op : Nat} {t : Task}

/-- The op that has just entered the Expander's queue stands at its end. -/
theorem Dev.xpQueue_issued : ((issued d core .xp t op).core core).xp.queue = (d.core core).xp.queue ++ [queuedOp d core t op] := by
  simp only [issued, Dev.updTask, Dev.updSeq, Dev.updCore, Dev.enqueueOp, Dev.core_setCore_self]
  rfl

/-- An op that enters the empty queue and leaves it again changes nothing of the core but its sequencer. -/
theorem Dev.core_issued_popOp (hq : (d.core core).xp.queue = []) :
    ((issued d core .xp t op).popOp core .xp).core core =
      { d.core core with seq := ((issued d core .xp t op).core core).seq } := by
  simp only [issued, Dev.popOp, Dev.updTask, Dev.updSeq, Dev.updCore, Dev.enqueueOp, Dev.core_setCore_self, Core.setEngQueue,
    Core.engQueue, hq, List.nil_append, List.drop_succ_cons, List.drop_zero]
  rw [← hq]

theorem Dev.slot_issued_popOp (hq : (d.core core).xp.queue = []) (i : Nat) :
    (((issued d core .xp t op).popOp core .xp).core core).slot i = (d.core core).slot i := by
  rw [Dev.core_issued_popOp hq]; rfl

theorem Dev.csRead_issued_popOp (hq : (d.core core).xp.queue = []) (a n : Nat) :
    (((issued d core .xp t op).popOp core .xp).core core).csRead a n = (d.core core).csRead a n := by
  rw [Dev.core_issued_popOp hq]; rfl

end Issue

/-- An XP op that enters an empty queue leaves it at once and takes effect. -/
theorem leaves_of_xpIssue {i : Instr} {s : State} {core : Fin 128} {o op : Nat} {t : Task} {k : Ctl → Dev → Nat → QOp → Dev} {d : Dev} (hr : Runs s)
    (hi : exec i s = xpIssue core o k s) (h : Claims.Ready s core o .xp t op) (hq : (s.dev.core core).xp.queue = [])
    (hk : k s.ctl ((issued s.dev core .xp t op).popOp core .xp) core (queuedOp s.dev core t op) = d) : Leaves i s d :=
  leaves_of_onDev hr (by rw [hi, xpIssue]) (by simp only [Dev.issue_of_ready h, Dev.xpQueue_issued, hq, List.nil_append, if_true]; exact hk)

section Ops
variable {c : Ctl} {d : Dev} {core : Nat} {q : QOp}

/-- A load of a good image into a slot without references, its mirror off (R240, R243, R245). -/
theorem Dev.xpTload_of_good {b : List PByte} (hclean : opClean q.op [(1, 4, 0), (4, 22, 0), (8, 16, 0)] = true) (hoff : offOk (opn q.op 4 4) 256 = true)
    (hmirror : opt q.op 1 4 = false) (hsync : opn q.op 8 4 = 0) (hrefs : ((d.core core).slot (opf q.op 1 3 0)).refs = 0)
    (hb : (d.core core).csRead (opn q.op 4 4) 256 = b) (hpoison : anyPoison b = false) (hok : tableOk (plain b) = true) :
    d.xpTload c core q =
      ((((d.unmirror core (opf q.op 1 3 0)).updSlot core (opf q.op 1 3 0) (fun _ =>
          { image := plain b, version := le (plain b) 4 2, valid := true, mirror := false, refSync := 0 })).mirrorSlot core (opf q.op 1 3 0)).count
        (baseXP core + 0x5C) 1).opDone core q := by
  simp [Dev.xpTload, hclean, hoff, hmirror, hsync, hrefs, hb, hpoison, hok, Dev.mirrorTag]

/-- A slot without references is freed (R245). -/
theorem Dev.xpTfree_of_unused (hclean : opClean q.op [(1, 3, 0)] = true) (hrefs : ((d.core core).slot (opf q.op 1 3 0)).refs = 0) :
    d.xpTfree c core q = ((d.unmirror core (opf q.op 1 3 0)).updSlot core (opf q.op 1 3 0) (fun _ => {})).opDone core q := by
  simp [Dev.xpTfree, hclean, hrefs]

end Ops

/-! ### The next block of a session (R232, R249) -/

section Blocks
variable {c : Ctl} {d : Dev} {core : Nat} {x : XpClient} {se : XpSess}

/-- Core Store answers a read inside it at once. -/
theorem Dev.xpBytes_of_store {a n : Nat} (hs : se.desc.space = 0) (h : a + n ≤ storeBytes) :
    d.xpBytes c core se a n = (d, .got ((d.core core).csRead a n)) := by
  simp [Dev.xpBytes, hs, h]

/-- Block b of a stream in Core Store, its index entry and header good, is read whole. -/
theorem Dev.xpIndexed_of_good {h : StreamHdr} {b a : Nat} {e hd : List PByte} (hs : se.desc.space = 0) (hindex : h.index + 8 * b + 8 ≤ storeBytes)
    (he : (d.core core).csRead (h.index + 8 * b) 8 = e) (hclean : anyPoison e = false) (hzero : le (plain e) 0 2 = 0)
    (ha : h.origin + 64 * (leNat (plain e) / 65536) = a) (hhd : (d.core core).csRead a 32 = hd)
    (hfits : a + 32 + (le (plain hd) 0xC 2 + le (plain hd) 0x10 2) ≤ storeBytes) (hpoison : anyPoison hd = false)
    (hgood : blockBad h se.desc.fmt b (plain hd) = false) (hslot : (d.core core).mismatch (plain hd) = false) :
    d.xpIndexed c core se h b =
      (d, .piece (mkPiece hd (h.span se.desc.fmt b) ((d.core core).csRead (a + 32) (le (plain hd) 0xC 2 + le (plain hd) 0x10 2)) a)) := by
  have hheader : a + 32 ≤ storeBytes := by omega
  simp [Dev.xpIndexed, Dev.xpBytes_of_store hs hindex, he, hclean, hzero, ha, Dev.xpBytes_of_store hs hheader, hhd, hpoison, hgood, hslot,
    Dev.xpBytes_of_store hs hfits]

/-- A block without a base block that has been read goes into the session. -/
theorem Dev.xpNextBlock_of_piece {h : StreamHdr} {b : Nat} {more : List Nat} {p : XpPiece} (hs : se.desc.space ≠ 2) (htodo : se.todo = b :: more)
    (hbase : se.baseHdr = none) (hp : d.xpIndexed c core se h b = (d, .piece p)) :
    d.xpNextBlock c core x se h = (d.xpAhead core x se b p none, .ok) := by
  simp [Dev.xpNextBlock, htodo, hs, hp, hbase]

/-- An open session with room reads its next block: that is its header step, and what it took from outside is dropped. -/
theorem Dev.xpHeaderStep_of_open {h : StreamHdr} {d1 : Dev} (hse : (d.core core).sess x = some se) (hh : se.hdr = some h) (hroom : se.ahead.length < 4)
    (hnext : d.xpNextBlock c core x se h = (d1, .ok)) : d.xpHeaderStep c core x = (d1.doneOutside core 3, .ok) := by
  simp [Dev.xpHeaderStep, hse, hh, Nat.not_le.mpr hroom, hnext]

end Blocks

/-! ### The block that decodes (R243, R248, R249) -/

/-- A block that the Expander has delivered: the pieces, spans and cycles are counted, the bytes and exponents have gone from the blocks read ahead to
the session's output, and the references are given back; see xpDecodeStep_of_rebuilt. -/
def Dev.xpDelivered (d : Dev) (core : Nat) (x : XpClient) (se : XpSess) (blk : XpBlock) (more : List XpBlock) (bytes exps : List Byte) : Dev :=
  let a := baseXP core
  let pieces := [blk.coding] ++ (match blk.base with | some q => [q.1] | none => [])
  let inb := blk.payload.length + (match blk.base with | some q => q.2.2.1.length | none => 0)
  let d1 := ((((d.count (a + 0x40) (pieces.filter (· == 1)).length).count (a + 0x44) (pieces.filter (· == 2)).length).count
    (a + 0x4C) (cdiv blk.span 64)).count (a + 0x50) (cdiv inb 64)).count (a + 0x58) (d.xpCycles blk)
  let d2 := ({ d1 with freeCtr := d1.freeCtr + 1 } : Dev).setSess core x (some { se with
    ahead := more, out := se.out ++ [{ num := blk.num, bytes := bytes, exps := exps, poison := false }] })
  blk.refs.foldl (fun d r => d.delRef core r) d2

/-- The oldest block read ahead, not poisoned and rebuilt, is delivered. -/
theorem Dev.xpDecodeStep_of_rebuilt {d : Dev} {core : Nat} {x : XpClient} {se : XpSess} {blk : XpBlock} {more : List XpBlock} {bytes exps : List Byte}
    (hse : (d.core core).sess x = some se) (hahead : se.ahead = blk :: more) (hpoison : blk.poison = false)
    (hrebuild : (d.core core).rebuild blk = .inl (bytes, exps)) :
    d.xpDecodeStep core x = (d.xpDelivered core x se blk more bytes exps, .ok) := by
  simp only [Dev.xpDecodeStep, hse, hahead, hpoison, hrebuild, Bool.false_eq_true, if_false]
  rfl

/-! ### Events of the Expander (R249, R250) -/

section Events
variable {s : State} {core : Fin 128} {d : Dev}

/-- A header step that goes on leaves a block for the Expander to take up. -/
theorem leaves_of_xpHeaderRead {ask : XpAsk} (hr : Runs s)
    (hstep : (s.dev.mvGaps core ask.gaps).xpHeaderStep s.ctl core ask.client = (d, .ok)) : Leaves (.xpHeaderRead core ask) s (d.xpReady core) :=
  leaves_of_onDev hr (by rw [exec, execXpHeaderRead]) (by simp only [hstep])

/-- After a block that decodes, the Expander turns to the next, and lookups run as far as they can. -/
theorem leaves_of_xpBlockDecoded {client : XpClient} {gaps : Gaps} (hr : Runs s) (hcur : (s.dev.core core).xp.cur = some (decide (client = .me)))
    (hstep : (s.dev.mvGaps core gaps).xpDecodeStep core client = (d, .ok)) :
    Leaves (.xpBlockDecoded core client gaps) s ((d.xpTurn core (some (decide (client = .me)))).mvLook s.ctl core 3) :=
  leaves_of_onDev hr (by rw [exec, execXpBlockDecoded]) (by simp only [hcur, hstep, ne_eq, not_true, if_false])

end Events

/-- Settles O41: each clause's conditions choose one branch of its command; the MVP's gap cycles that an event counts leave the cores. -/
theorem expanderOps : Obligations.ExpanderOps := by
  intro s core hr
  refine ⟨fun t op h hq hclean hrefs => ?frees, fun t op h hq hclean hoff hmirror hsync hrefs hpoison hok => ?loads,
    fun ask se h b more hse hh hbase htodo hroom hs hindex hclean hzero hfits hpoison hgood hslot => ?reads,
    fun client gaps se blk more bytes exps hcur hse hahead hpoison hrebuild => ?decodes⟩
  case frees => exact leaves_of_xpIssue hr rfl h hq (Dev.xpTfree_of_unused hclean ((Dev.slot_issued_popOp hq _).symm ▸ hrefs))
  case loads =>
    exact leaves_of_xpIssue hr rfl h hq (Dev.xpTload_of_good hclean hoff hmirror hsync ((Dev.slot_issued_popOp hq _).symm ▸ hrefs)
      (Dev.csRead_issued_popOp hq _ _) hpoison hok)
  case reads =>
    have hpiece := Dev.xpIndexed_of_good (c := s.ctl) (d := s.dev.mvGaps core ask.gaps) hs hindex rfl hclean hzero rfl rfl hfits hpoison hgood hslot
    exact leaves_of_xpHeaderRead hr (Dev.xpHeaderStep_of_open hse hh hroom (Dev.xpNextBlock_of_piece (by omega) htodo hbase hpiece))
  case decodes => exact leaves_of_xpBlockDecoded hr hcur (Dev.xpDecodeStep_of_rebuilt hse hahead hpoison hrebuild)

end Sys2Proof.Machine
end

section
/-! SUPPORT. Commands of the memory system (R273 to R291): what a slice and a channel's point queue do with a request where a statement's conditions
choose the branch, and the statement on these commands. -/

namespace Sys2Proof.Machine
open Sys2Proof.Claims

/-! ### Accesses at a slice (R273, R277) -/

/-- Where a granule starts, its own start is there too. -/
theorem granule_idem (pa : Nat) : pa / 64 * 64 / 64 * 64 = pa / 64 * 64 := by rw [Nat.mul_div_cancel _ (by decide)]

/-- A read outside the requester's valid HBM is refused: the violation is reported, and the answer is poisoned zeros with the error (R273). -/
theorem Dev.sliceRead_of_outside {c : Ctl} (d : Dev) {w : Who} {pa : Nat} (hint : Nat) (prot : Bool) (kind : ReadKind) (post : Bool)
    (h : c.inHbm w.facet (pa / 64 * 64) 64 = false) :
    Dev.sliceRead c d w pa hint prot kind post = (d.violate (rangeViolation w (pa / 64 * 64)), zeros 64, true, true) := by
  simp [Dev.sliceRead, h]

/-- A mask of ones picks every byte of the data. -/
theorem writeMask_allOnes (data : List Byte) :
    (List.range 64).map (fun i => if bit (BitVec.allOnes 64).toNat i then some (nth 0 (padTo 64 data) i) else none) = (padTo 64 data).map some := by
  refine List.ext_getElem (by simp [length_padTo]) fun i hi _ => ?_
  have hi : i < 64 := by simpa using hi
  have hbit : bit (BitVec.allOnes 64).toNat i = true := by
    rw [bit_eq_testBit, BitVec.testBit_toNat, BitVec.getLsbD_allOnes, decide_eq_true hi]
  have hlen : i < (padTo 64 data).length := by rwa [length_padTo]
  simp only [List.getElem_map, List.getElem_range, hbit, if_true, nth, List.head?_drop, List.getElem?_eq_getElem hlen, Option.getD_some]

/-! ### Point queues (R278, R279) -/

/-- A queue with room for all that waits accepts it. -/
theorem Chan.accept_of_room {k : Chan} (h : k.queue.length + k.waiting.length ≤ 64) :
    k.accept = { k with queue := k.queue ++ k.waiting, waiting := [] } := by
  have hn : k.waiting.length ≤ 64 - k.queue.length := by omega
  simp [Chan.accept, List.take_of_length_le hn, List.drop_eq_nil_of_le hn]

/-- A request enters a queue that has room and that nothing waits for. -/
theorem Dev.pointQueue_of_room {d : Dev} {ch : Nat} (r : PointReq) (hroom : (d.mchan ch).queue.length < 64) (hwait : (d.mchan ch).waiting = []) :
    d.pointQueue ch [r] = d.setMchan ch { d.mchan ch with queue := (d.mchan ch).queue ++ [r], waiting := [] } := by
  rw [Dev.pointQueue, hwait, Chan.accept_of_room (by simpa using hroom)]
  rfl

/-- An overtaken read without an error answers its clients with the granule kept for it. -/
theorem Dev.overtakenRead_of_clean {c : Ctl} {d : Dev} {ch loc : Nat} {b : List Byte} {answer : Dev → List Byte → Bool → Bool → Dev}
    (h : (d.mchan ch).state = .ready) : d.overtakenRead c ch loc false .clean (b, false) answer = answer d b false false := by
  simp [Dev.overtakenRead, h]

/-- Settles O42: each clause's conditions choose one branch of its command. A variable stands for the read of a slice throughout: to
compare branches the kernel would evaluate it. -/
theorem memorySystemCommands : Obligations.MemorySystemCommands := by
  intro s fn facet slice pa ch hint val hr
  obtain ⟨read, hname⟩ := exists_eq (a' := Dev.sliceRead)
  rw [← hname]
  refine ⟨fun how d1 b p e hp hread => ?read, fun how hp hfacet hout => ?readOutside, fun data d1 e poison prot hwrite => ?write,
    fun cls hp hin hline hroom hwait => ?request, fun n => ?aged,
    fun r ecc age hnext hmerged => ⟨fun hsnap hready => ⟨fun hnone => ?scrubEnds, fun d1 b p e hsome hread => ?clientsEnd⟩,
      fun b hsnap _ hecc hsome hready => ?overtaken⟩,
    fun hg => ?flush, fun hg => ?unkeep, fun unkeep hbit => ?flushDone, fun n ecc hready hscrub => ?scrub, fun hready => ?fails,
    fun hdown hmap howner => ⟨?trained, ?untrained⟩⟩
  case read =>
    refine leaves_of_onDev hr (by rw [exec, execSliceRead, ← hname]) ?_
    cases hline : s.dev.findLine (s.ctl.place facet (pa / 64 * 64)).1 (s.ctl.place facet (pa / 64 * 64)).2 <;>
      (simp only [hline] at hread
       simp only [hp, hline, hread, Bool.not_true, Bool.false_eq_true, if_false, flagNat])
  case readOutside =>
    have hrefused : s.ctl.inHbm (anyWho s.ctl facet).facet (pa / 64 * 64 / 64 * 64) 64 = false := by rwa [hfacet, granule_idem]
    have hread := hname ▸ Dev.sliceRead_of_outside s.dev hint.num how.prot .stream true hrefused
    exact leaves_of_onDev hr (by rw [exec, execSliceRead, ← hname])
      (by simp only [hp, hout, hread, granule_idem, Bool.not_true, Bool.false_eq_true, if_false, flagNat, if_true])
  case write =>
    refine leaves_of_onDev hr (by rw [exec, execSliceWrite]) ?_
    extract_lets b m
    rw [show m = b.map some from writeMask_allOnes data, hwrite]
  case request =>
    exact leaves_of_onDev hr (by rw [exec, execPointReadRequest, ← hname])
      (by simp only [hp, hin, hline, Bool.not_true, Bool.false_eq_true, if_false, Dev.pointQueue_of_room _ hroom hwait])
  case aged => exact leaves_of_onDev hr (by rw [exec, execPointRequestAged]) rfl
  case scrubEnds =>
    exact leaves_of_onDev hr (by rw [exec, execHbmReadComplete, ← hname])
      (by simp only [hnext, hmerged, hsnap, hready, hnone, Bool.false_eq_true, if_false, if_true, decide_true, Bool.true_and])
  case clientsEnd =>
    exact leaves_of_onDev hr (by rw [exec, execHbmReadComplete, ← hname])
      (by simp only [hnext, hmerged, hsnap, hready, if_neg hsome, Bool.false_eq_true, if_false, if_true, decide_true, Bool.true_and, hread, flagNat])
  case overtaken =>
    exact leaves_of_onDev hr (by rw [exec, execHbmReadComplete, ← hname])
      (by simp only [hnext, hmerged, hsnap, hecc, decide_eq_false hsome, Dev.overtakenRead_of_clean hready, Bool.false_eq_true, if_false, flagNat])
  case flush => exact leaves_of_onDev hr (by rw [exec, execMsFlush]) (hostWrite_admitted _ _ _ _ _ _ hg)
  case unkeep => exact leaves_of_onDev hr (by rw [exec, execMsUnkeep]) (hostWrite_admitted _ _ _ _ _ _ hg)
  case flushDone => exact leaves_of_onDev hr (by rw [exec, execMsFlushDone]) (if_pos hbit)
  case scrub =>
    have hruns : (decide ((s.dev.mchan ch).state = .ready) && s.dev.flag (baseMc ch + 0x14) 16) = true := by simp [hready, hscrub]
    exact leaves_of_onDev hr (by rw [exec, execScrubRead]) (if_pos hruns)
  case fails => exact leaves_of_onDev hr (by rw [exec, execChannelFailed]) (if_pos hready)
  case trained => exact leaves_of_onDev hr (by rw [exec, execChannelTrainingEnd]) (by simp [hdown, hmap, howner])
  case untrained => exact leaves_of_onDev hr (by rw [exec, execChannelTrainingEnd]) (ite_self _)

end Sys2Proof.Machine
end

section
/-! SUPPORT. Leaves (R302, R303): fields of a number with one more bit set, the bits that a TLB entry takes of its leaf, and what they grant. -/

namespace Sys2Proof.Machine
open Sys2Proof.Claims

/-- A bit of a field stands in the number at the field's lowest bit and so many places up. -/
theorem testBit_bits (w hi lo j : Nat) : (bits w hi lo).testBit j = (decide (j < hi + 1 - lo) && w.testBit (lo + j)) := by
  rw [bits, Nat.testBit_mod_two_pow, Nat.testBit_shiftRight]

theorem bit_bits {w hi lo j : Nat} (h : lo + j ≤ hi) : bit (bits w hi lo) j = bit w (lo + j) := by
  rw [bit_eq_testBit, bit_eq_testBit, testBit_bits, decide_eq_true (by omega), Bool.true_and]

/-- A bit set outside a field leaves the field. -/
theorem bits_setBit_of_outside {w i hi lo : Nat} (h : i < lo ∨ hi < i) : bits (setBit w i true) hi lo = bits w hi lo := by
  refine Nat.eq_of_testBit_eq fun j => ?_
  rw [testBit_bits, testBit_bits]
  by_cases hj : j < hi + 1 - lo
  · rw [← bit_eq_testBit, ← bit_eq_testBit, bit_setBit_ne w i (lo + j) (by omega)]
  · rw [decide_eq_false hj, Bool.false_and, Bool.false_and]

/-- The permission bits of a leaf say nothing of whether its entry is bad. -/
theorem badEntry_setBit_of_leaf {c : Ctl} {f level e i : Nat} (hi : i = 2 ∨ i = 3) (hleaf : bit e 1 = true) :
    badEntry c f level (setBit e i true) = badEntry c f level e := by
  have hbit {j : Nat} (hj : j = 1 ∨ j = 4) : bit (setBit e i true) j = bit e j := bit_setBit_ne e i j (by omega)
  have hfield {hi lo : Nat} (h : 5 < lo) : bits (setBit e i true) hi lo = bits e hi lo := bits_setBit_of_outside (by omega)
  simp only [badEntry, hbit (.inl rfl), hbit (.inr rfl), hfield (show 5 < 48 by decide), hfield (show 5 < 6 by decide), hfield (show 5 < 8 by decide),
    hleaf, if_true]

/-- An access needs its own permission bit of the leaf: read at bit 2, write at bit 3. -/
theorem leafGrants_leafEntry (as level va e : Nat) (scout write : Bool) :
    leafGrants (leafEntry as level va e scout).bits write = bit e (if write then 3 else 2) := by
  cases write <;> exact bit_bits (by decide)

theorem entryStep_of_leaf {c : Ctl} {f level e : Nat} (hvalid : bit e 0 = true) (hleaf : bit e 1 = true) (hgood : badEntry c f level e = false) :
    entryStep c f level e false = .leaf e := by
  simp [entryStep, hvalid, hleaf, hgood]

/-- Settles O43: a leaf's two permission bits grant its reads and its writes, and decide nothing else of it. -/
theorem leafPermissions : Obligations.LeafPermissions := by
  intro as level va e scout
  simp only [leafGrants_leafEntry, if_true, Bool.false_eq_true, if_false, true_and]
  refine fun hr hw => ⟨fun c f => ?_, fun c f => entryStep_of_leaf, fun write => ?_⟩
  · cases hleaf : bit e 1 with
    | false => exact .inr rfl
    | true =>
      have hleaf' : bit (setBit e 2 true) 1 = true := (bit_setBit_ne e 2 1 (by decide)).trans hleaf
      exact .inl (by rw [badEntry_setBit_of_leaf (.inr rfl) hleaf', badEntry_setBit_of_leaf (.inl rfl) hleaf])
  · cases write
    · exact hr
    · exact hw

end Sys2Proof.Machine
end

section
/-! SUPPORT. Commands of translation (R306 to R331): misses, walks, the scout, the fault table and invalidations where a statement's conditions choose the
branch, and the statement on these commands. -/

namespace Sys2Proof.Machine
open Sys2Proof.Claims

/-! ### Misses and walks (R306, R307, R313) -/

@[simp] theorem Dev.openFaults_of_noFaults {d : Dev} (h : d.xl.faults = []) : d.openFaults = [] := by rw [Dev.openFaults, h]; rfl

/-- A miss in an enabled address space, with no fault open and no walk in flight, starts a walk with the requester as its waiter. -/
theorem Dev.miss_of_idle {c : Ctl} {d : Dev} {core eng as : Nat} (va : Nat) (write : Bool) (hstop : d.stopped (4 * core + eng) = false)
    (hfaults : d.xl.faults = []) (hwalks : d.xl.walks = []) (hon : d.ctxOn as = true) :
    d.miss c core eng as va write =
      { ((d.count (baseTC core + 0x24) 1).count (baseTR + 0x40) 1).count (baseTR + 0x48) (d.walkStart as va).1 with
        xl := { d.xl with walks := [{ as := as, va := va, level := (d.walkStart as va).1, table := (d.walkStart as va).2,
                                      waiters := [(4 * core + eng, va, write)] }] } } := by
  simp [Dev.miss, hstop, hfaults, hwalks, hon]

/-! ### The scout (R309 to R311) -/

/-- A scout at its limits starts no walk, however often it tries. -/
theorem Dev.foldl_scoutNext_of_mayNot {d : Dev} {core : Nat} (eng : Nat) (pages : List (Nat × Nat)) (l : List Nat) (h : d.scoutMay core = false) :
    l.foldl (fun d _ => d.scoutNext core eng pages) d = d :=
  List.foldl_fixed' (fun _ => by simp [Dev.scoutNext, h]) l

/-- A walk starts where the walk cache and the root of its address space say. -/
theorem Dev.walkStart_congr {a b : Dev} {as va : Nat} (hcache : a.xl.wcache = b.xl.wcache) (hroot : a.ctxRoot as = b.ctxRoot as) :
    a.walkStart as va = b.walkStart as va := by
  simp only [Dev.walkStart, hcache, hroot]

theorem Dev.ctxRoot_of_regs {a b : Dev} {as : Nat} (h : a.regs = b.regs) : a.ctxRoot as = b.ctxRoot as := by
  simp only [Dev.ctxRoot, Dev.fld, Dev.reg, h]

theorem Dev.regs_count {a b : Dev} {off n : Nat} (h : a.regs = b.regs) : (a.count off n).regs = (b.count off n).regs := by
  rw [Dev.count, Dev.count, Dev.setReg, Dev.setReg, Dev.reg, Dev.reg, h]

theorem Dev.reg_count_ne {d : Dev} {off n x : Nat} (h : x ≠ off) : (d.count off n).reg x = d.reg x := d.reg_setReg_ne _ _ _ h

/-- The registers of a context are none of the scout's counters. -/
theorem ctx_ne_scoutCounters (core as : Nat) {o : Nat} (ho : o < 0x30) : baseCtx as + o ≠ baseTC core + 0x30 ∧ baseCtx as + o ≠ baseTR + 0x4C := by
  simp only [baseCtx, baseTR, baseTC, baseCore]
  omega

theorem Dev.ctxRoot_scoutCounted (d : Dev) (core as : Nat) :
    ((d.count (baseTR + 0x4C) 1).count (baseTC core + 0x30) 1).ctxRoot as = d.ctxRoot as := by
  have hreg {o : Nat} (ho : o < 0x30) : ((d.count (baseTR + 0x4C) 1).count (baseTC core + 0x30) 1).reg (baseCtx as + o) = d.reg (baseCtx as + o) := by
    obtain ⟨hcore, hmodule⟩ := ctx_ne_scoutCounters core as ho
    rw [Dev.reg_count_ne hcore, Dev.reg_count_ne hmodule]
  simp only [Dev.ctxRoot, Dev.fld, hreg (show 4 < 0x30 by decide), hreg (show 8 < 0x30 by decide)]

/-- With no walk in flight, the scout takes a slot of its own; what it counts and notes does not move the walk's start. -/
theorem Dev.scoutStart_of_idle {d : Dev} (core eng as page : Nat) (hwalks : d.xl.walks = []) :
    d.scoutStart core eng as page =
      { ((d.count (baseTR + 0x4C) 1).count (baseTC core + 0x30) 1).count (baseTR + 0x48) (d.walkStart as (page * 65536)).1 with
        xl := { d.xl with
          scouted := d.xl.scouted ++ [(4 * core + eng, as, page)]
          walks := [{ as := as, va := page * 65536, level := (d.walkStart as (page * 65536)).1, table := (d.walkStart as (page * 65536)).2,
                      scouts := [core] }] } } := by
  unfold Dev.scoutStart
  extract_lets _ _ e
  have hidle : e.xl.walks = [] := hwalks
  have hregs : e.regs = ((d.count (baseTR + 0x4C) 1).count (baseTC core + 0x30) 1).regs := rfl
  have hstart : e.walkStart as (page * 65536) = d.walkStart as (page * 65536) :=
    Dev.walkStart_congr rfl ((Dev.ctxRoot_of_regs hregs).trans (d.ctxRoot_scoutCounted core as))
  rw [hidle, hstart]
  exact congrArg (fun r => ({ d with regs := r, xl := _ } : Dev)) (Dev.regs_count hregs)

/-- A scout within its limits takes the first page that it wants. -/
theorem Dev.scoutNext_of_wanted {d : Dev} {core eng : Nat} {pages : List (Nat × Nat)} {p : Nat × Nat} (hmay : d.scoutMay core = true)
    (hp : pages.find? (fun p => d.scoutWants core eng p.1 p.2) = some p) : d.scoutNext core eng pages = d.scoutStart core eng p.1 p.2 := by
  simp only [Dev.scoutNext, hmay, hp, Bool.not_true, Bool.false_eq_true, if_false]

/-! ### The fault table (R315, R316) -/

theorem Dev.faults_openWaiting {c : Ctl} {d : Dev} (hwait : d.xl.tableWait = []) : (d.openWaiting c).xl.faults = d.xl.faults := by
  rw [Dev.openWaiting, hwait]
  rfl

/-- The entry freed is free where no fault waits for room. -/
theorem Dev.faults_freeFault {c : Ctl} {d : Dev} {n : Nat} (hwait : d.xl.tableWait = []) :
    Sparse.get none (d.freeFault c n).xl.faults n = none := by
  unfold Dev.freeFault
  split
  next hfree => exact hfree
  next e _ =>
    have hxl := Dev.foldl_keeps Dev.xl (fun (d : Dev) (x : Nat × Nat × Bool) => d.countFree (baseTC (x.1 / 4) + 0x2C)) (fun _ _ => rfl) e.waiters
      (d.setFault n none)
    rw [Dev.faults_openWaiting (by rw [hxl]; exact hwait), hxl]
    exact Sparse.get_set_self none d.xl.faults n none

/-! ### Invalidations (R319, R320) -/

/-- RANGE, ASPACE and FACET write TR_INV_CTRL with their own kind. -/
theorem exec_invalidation {fn : Fin 16} {val : Word} {k : Nat} {i : Instr} (s : State)
    (h : (k, i) ∈ [(0, Instr.range fn val), (1, .aspace fn val), (2, .facet fn val)]) :
    exec i s = onDev s fun c d => invCtrlWrite c d fn (setBits val.toNat 29 28 k) := by
  simp only [List.mem_cons, Prod.mk.injEq, List.not_mem_nil, or_false] at h
  obtain ⟨rfl, rfl⟩ | ⟨rfl, rfl⟩ | ⟨rfl, rfl⟩ := h
  · rw [exec, execRange]
  · rw [exec, execAspace]
  · rw [exec, execFacet]

/-- Settles O44: each clause's conditions choose one branch of its command. -/
theorem translationCommands : Obligations.TranslationCommands := by
  intro s fn core who va write entry slot val hr
  refine ⟨fun hstop hmiss hfaults hwalks hon => ?miss,
    fun w d1 hw hrestart hon hp => ⟨fun t hstep => ?next, fun e hstep => ?leaf, fun k e hstep => ?fault⟩,
    fun eng n d1 tiles htiles => ⟨fun hmay => ?scoutHeld, fun p hn hmay hpage hwalks => ?scout⟩,
    fun hg => ⟨?retry, fun e he => ?abort⟩, fun d n hwait => Dev.faults_freeFault hwait,
    fun hg k i hi => ⟨fun haccept => ?accepted, fun kind hrefuse => ?refused⟩,
    fun v rest hinvs => ⟨fun hblock => ?blockEnd, fun hblock hout => ⟨fun hcmd => ?done, fun o hcmd => ?doneCmd⟩⟩, fun hg => ?flush,
    fun f hg => ?clear⟩
  case miss =>
    refine leaves_of_onDev hr (by rw [exec, execTlbMiss]) ?_
    simp only [hon, hmiss, if_true]
    exact Dev.miss_of_idle va write hstop hfaults hwalks hon
  case next | leaf | fault => exact leaves_of_onDev hr (by rw [exec, execWalkLevelReadDone]) (by simp [hw, hrestart, hon, hp, hstep])
  case scoutHeld =>
    refine leaves_of_onDev hr (by rw [exec, execScoutWalk]) ?_
    simp only [htiles]
    exact Dev.foldl_scoutNext_of_mayNot _ _ _ hmay
  case scout =>
    subst hn
    refine leaves_of_onDev hr (by rw [exec, execScoutWalk]) ?_
    simp only [htiles]
    exact (Dev.scoutNext_of_wanted hmay hpage).trans (Dev.scoutStart_of_idle _ _ _ _ hwalks)
  case retry => exact leaves_of_onDev hr (by rw [exec, execRetry]) (hostWrite_admitted _ _ _ _ _ _ hg)
  case abort => exact leaves_of_onDev hr (by rw [exec, execAbort]) (by rw [hostWrite_admitted _ _ _ _ _ _ hg]; simp only [he])
  case accepted => exact leaves_of_onDev hr (exec_invalidation s hi) (by rw [invCtrlWrite, hostWrite_admitted _ _ _ _ _ _ hg]; simp only [haccept])
  case refused => exact leaves_of_onDev hr (exec_invalidation s hi) (by rw [invCtrlWrite, hostWrite_admitted _ _ _ _ _ _ hg]; simp only [hrefuse])
  case blockEnd => exact leaves_of_onDev hr (by rw [exec, execInvBlockEnd]) (by simp [hinvs, hblock, findIdx, nth, modNth, Dev.dropCovered])
  case done | doneCmd =>
    exact leaves_of_onDev hr (by rw [exec, execInvDone]) (by simp only [hinvs, hblock, hout, hcmd, Bool.or_self, Bool.false_eq_true, if_false])
  case flush => exact leaves_of_onDev hr (by rw [exec, execTrCoreFlush]) (hostWrite_admitted _ _ _ _ _ _ hg)
  case clear => exact leaves_of_onDev hr (by rw [exec, execClear]) (hostWrite_admitted _ _ _ _ _ _ hg)

end Sys2Proof.Machine
end

section
/-! SUPPORT. Windows and import entries (R298, R324, R327, R328): a lookup in a disabled entry, writes of entries that are locked while enabled, and the
statement on these commands. -/

namespace Sys2Proof.Machine
open Sys2Proof.Claims

/-- An import entry whose enable is 0 denies every access. -/
theorem Dev.importCheck_of_disabled {c : Ctl} {d : Dev} {port src k : Nat} {write : Bool} (h : d.flag (baseImport k) 31 = false) :
    d.importCheck c port src k write = some (2, 2) := by
  simp [Dev.importCheck, h]

section Locked
variable {c : Ctl} {d : Dev} {fn base word val : Nat} {firstFree : Bool} (hg : (checkWrite c d fn (base + 4 * word) 4).2 = true)
include hg

/-- A write of an entry that is not locked, or of its first word where that is free or clears the enable, is admitted. -/
theorem lockedWrite_of_open (h : d.flag base 31 = false ∨ (word = 0 ∧ (firstFree = true ∨ bit val 31 = false))) :
    lockedWrite c d fn base word val firstFree = writeFields d (base + 4 * word) val := by
  rw [lockedWrite, hostWrite_admitted _ _ _ _ _ _ hg]
  refine if_neg ?_
  obtain h | ⟨h0, h | h⟩ := h <;> simp [*]

/-- Any other write of a locked entry is dropped and logged. -/
theorem lockedWrite_of_locked (hon : d.flag base 31 = true) (h : ¬ (word = 0 ∧ (firstFree = true ∨ bit val 31 = false))) :
    lockedWrite c d fn base word val firstFree = dropWrite d 4 fn (base + 4 * word) := by
  rw [lockedWrite, hostWrite_admitted _ _ _ _ _ _ hg]
  refine if_pos ?_
  simpa [hon, imp_iff_not_or] using h

end Locked

/-- The writes of contexts, host windows and import entries are writes of entries that are locked while enabled. -/
theorem exec_entryWrite {fn : Fin 16} {asp w : Fin 1024} {k : Fin 4096} {val : Word} {i : Instr} {base n : Nat} {free : Bool} (s : State)
    (h : (∃ word : Fin 5, i = .contextWrite fn asp word val ∧ base = baseCtx asp ∧ n = word ∧ free = true) ∨
      (∃ word : Fin 4, i = .hostWindowEntryWrite fn w word val ∧ base = baseTR + 0x20000 + 0x10 * w ∧ n = word ∧ free = false) ∨
      (∃ word : Fin 4, i = .importEntryWrite fn k word val ∧ base = baseImport k ∧ n = word ∧ free = false)) :
    exec i s = onDev s fun c d => lockedWrite c d fn base n val.toNat free := by
  obtain ⟨word, rfl, rfl, rfl, rfl⟩ | ⟨word, rfl, rfl, rfl, rfl⟩ | ⟨word, rfl, rfl, rfl, rfl⟩ := h
  · rw [exec, execContextWrite]
  · rw [exec, execHostWindowEntryWrite]
  · rw [exec, execImportEntryWrite]

/-- Settles O45: each clause's conditions choose one branch of its command. -/
theorem windowsAndTheirTables : Obligations.WindowsAndTheirTables := by
  intro s fn core eng asp w k va pa len val hr
  refine ⟨fun data counted poison hasp hlo hhi => ?host, fun data poison hasp hlo hhi => ?remote, fun port src b hinbox hreq => ?imported,
    fun d port src id n o len m hoff => ?denied,
    fun i base n free hi hg => ⟨fun hopen => ?written, fun hon hlocked => ?dropped⟩⟩
  case host => exact leaves_of_onDev hr (by rw [exec, execHostWindowAccess]) (by simp only [hasp, hlo, hhi, decide_true, Bool.and_self, if_true])
  case remote => exact leaves_of_onDev hr (by rw [exec, execRemoteWindowAccess]) (by simp only [hasp, hlo, hhi, decide_true, Bool.and_self, if_true])
  case imported => exact leaves_of_onDev hr (by rw [exec, execImportAccess]) (by simp [hinbox, hreq, findIdx])
  case denied => simp [Dev.importAccess, Dev.importCheck_of_disabled hoff]
  case written => exact leaves_of_onDev hr (exec_entryWrite s hi) (lockedWrite_of_open hg hopen)
  case dropped => exact leaves_of_onDev hr (exec_entryWrite s hi) (lockedWrite_of_locked hg hon hlocked)

end Sys2Proof.Machine
end

section
/-! SUPPORT. The front end's LAUNCH (R345) where two commands of a channel have one sequence number, and the statement on the commands of Table 12.3. -/

namespace Sys2Proof.Machine
open Sys2Proof.Claims

/-- A started LAUNCH of graph g, with sequence number 0. -/
def startedLaunch (g : Byte) : Cmd := { raw := [0, 0, 1] ++ zeros 13 ++ [g], phase := .started }

/-- A running module whose channel 0 holds started LAUNCHes of graphs 0 and 1 under one sequence number. The graph registry of address space 0 is at
4 KiB; graph 0 has revision 1, whose image is those same bytes, read as an image of 128 B that reserves nothing. -/
def clashingLaunches : State :=
  let c : Ctl := { map := some { chan := [0] } }
  let d : Dev := { mem := { chans := [(0, { state := .ready })] }, chans := [(0, { cmds := [startedLaunch 0, startedLaunch 1] })] }
  { ctl := c
    dev := Dev.paPut c (d.setReg (baseGreg 0) 0x1000) (whoChan 0 0) 0x1000
      (toLe 4 1 ++ zeros 4 ++ toLe 8 128 ++ toLe 4 1 ++ zeros 4 ++ toLe 8 0x1000) }

/-- The LAUNCH of graph 0 may start; its check leaves both commands. -/
theorem launchCheck_clashingLaunches : ∃ d a e i b n,
    clashingLaunches.dev.launchCheck clashingLaunches.ctl 0 (startedLaunch 0) = (d, .go a e i b n) ∧
      (d.chan 0).cmds = [startedLaunch 0, startedLaunch 1] := by
  have hgo : (match (clashingLaunches.dev.launchCheck clashingLaunches.ctl 0 (startedLaunch 0)).2 with | .go .. => true | _ => false) = true := by
    decide +kernel
  have hcmds : ((clashingLaunches.dev.launchCheck clashingLaunches.ctl 0 (startedLaunch 0)).1.chan 0).cmds = [startedLaunch 0, startedLaunch 1] := by
    decide +kernel
  revert hgo hcmds
  generalize clashingLaunches.dev.launchCheck clashingLaunches.ctl 0 (startedLaunch 0) = x
  obtain ⟨d, r⟩ := x
  cases r with
  | go a e i b n => exact fun _ hcmds => ⟨d, a, e, i, b, n, rfl, hcmds⟩
  | fail _ _ _ => exact nofun
  | waitResv => exact nofun
  | waitCore => exact nofun

/-- A change of the commands with a sequence number changes each of them. -/
theorem Dev.cmds_updCmd (d : Dev) (ch seq : Nat) (f : Cmd → Cmd) :
    ((d.updCmd ch seq f).chan ch).cmds = (d.chan ch).cmds.map (fun x => if x.seq == seq then f x else x) := by
  simp only [Dev.updCmd, Dev.updChan, Dev.chan, Dev.setChan, Sparse.get_set_self]

/-- The graphs that channel 0's launches name. -/
def launchGraphs : Host.Outcome State Fault Refusal → List (Option Nat)
  | .next t => (t.dev.chan 0).cmds.map (fun k => k.launch.map (·.graph))
  | _ => []

/-- LAUNCH names for each of the two commands its own graph. -/
theorem launchGraphs_clashingLaunches : launchGraphs (exec (.launch 0) clashingLaunches) = [some 0, some 1] := by decide +kernel

/-- Refutes O47: LAUNCH prepares every command with the started one's sequence number, each with the graph of its own bytes; the statement gives all of
them the graph of the started one. They differ where two commands have one sequence number, which no clause excludes. -/
theorem not_hostCommands : ¬ Obligations.HostCommands := by
  intro h
  obtain ⟨d, a, e, i, b, n, hgo, hcmds⟩ := launchCheck_clashingLaunches
  obtain ⟨-, -, -, -, -, -, hlaunch, -, -⟩ := h clashingLaunches 0 0 (startedLaunch 0) rfl
  obtain ⟨hleaves, -⟩ := hlaunch (by decide +kernel) d a e i b n hgo
  rw [Leaves] at hleaves
  have hgraphs := launchGraphs_clashingLaunches
  simp only [hleaves, launchGraphs, Fin.val_zero, Dev.cmds_updCmd, hcmds, startedLaunch, List.map_cons, List.map_nil, beq_self_eq_true, if_true,
    Option.map_some, List.cons.injEq, Option.some.injEq, and_true] at hgraphs
  omega

end Sys2Proof.Machine
end

section
/-! SUPPORT. Sync objects (R362 to R364): an object after its value is set, the other objects, and the owner tag after an OWN. -/

namespace Sys2Proof.Machine
open Sys2Proof.Claims

/-! ### What a completion and a test of waiters leave -/

/-- A command that completes reaches registers, its channel and its client alone. -/
theorem Dev.finish_frame (d : Dev) (ch seq : Nat) : ∃ r x y, d.finish ch seq = { d with regs := r, chans := x, clients := y } := by
  unfold Dev.finish
  split
  · exact ⟨_, _, _, rfl⟩
  · split
    · exact ⟨_, _, _, rfl⟩
    · dsimp only
      split <;> split <;> exact ⟨_, _, _, rfl⟩

section
variable (d : Dev)

@[simp] theorem Dev.finish_sync (ch seq : Nat) : (d.finish ch seq).sync = d.sync := by
  obtain ⟨r, x, y, h⟩ := d.finish_frame ch seq
  rw [h]

@[simp] theorem Dev.finish_mem (ch seq : Nat) : (d.finish ch seq).mem = d.mem := by
  obtain ⟨r, x, y, h⟩ := d.finish_frame ch seq
  rw [h]

@[simp] theorem Dev.finish_cores (ch seq : Nat) : (d.finish ch seq).cores = d.cores := by
  obtain ⟨r, x, y, h⟩ := d.finish_frame ch seq
  rw [h]

@[simp] theorem Dev.waitEnds_sync (n : Nat) : (d.waitEnds n).sync = d.sync := rfl

/-- Waiters that are tested leave the objects. -/
@[simp] theorem Dev.testWaiters_sync (o : Nat) : (d.testWaiters o).sync = d.sync := by
  unfold Dev.testWaiters
  dsimp only
  rw [Dev.foldl_keeps Dev.sync _ (fun d w => by split <;> simp), Dev.foldl_keeps Dev.sync _ Dev.waitEnds_sync]

/-! ### ADD and SET (R362, R364) -/

theorem Dev.syncObj_syncSet_self (o v : Nat) : (d.syncSet o v).syncObj o = { d.syncObj o with value := v % 2 ^ 64 } := by
  simp only [Dev.syncObj, Dev.syncSet, Dev.testWaiters_sync, Sparse.upd, Sparse.get_set_self]

theorem Dev.syncObj_syncSet_ne {o x : Nat} (v : Nat) (hx : x ≠ o) : (d.syncSet o v).syncObj x = d.syncObj x := by
  simp only [Dev.syncObj, Dev.syncSet, Dev.testWaiters_sync, Sparse.upd, Sparse.get_set_ne _ _ _ _ _ hx]

theorem syncObj_hostSyncSet_self (o v : Nat) : (hostSyncSet d o v).syncObj o = { d.syncObj o with value := v % 2 ^ 64, poison := false } := by
  rw [hostSyncSet, Dev.syncObj_syncSet_self]
  simp only [Dev.syncObj, Sparse.upd, Sparse.get_set_self]

theorem syncObj_hostSyncSet_ne {o x : Nat} (v : Nat) (hx : x ≠ o) : (hostSyncSet d o v).syncObj x = d.syncObj x := by
  rw [hostSyncSet, Dev.syncObj_syncSet_ne _ _ hx]
  exact Sparse.get_set_ne _ _ _ _ _ hx

end

/-! ### OWN (R363) -/

section
variable {x : SyncObj} {claim : Bool} {core : Nat}

theorem ownSucceeds_iff : ownSucceeds x claim core = true ↔ x.owner = some core ∨ (claim = true ∧ x.owner = none) := by
  simp [ownSucceeds]

theorem ownTag_of_failure (h : ownSucceeds x claim core = false) : ownTag x claim core = x := by
  simp [ownTag, h]

theorem ownTag_of_claim (h : ownSucceeds x true core = true) : ownTag x true core = { x with owner := some core } := by
  simp [ownTag, h]

theorem ownTag_of_release (h : ownSucceeds x false core = true) (hm : x.mirror = false) : ownTag x false core = { x with owner := none } := by
  simp [ownTag, h, hm]

/-- An OWN reaches the owner of its object alone. -/
theorem ownTag_frame (x : SyncObj) (claim : Bool) (core : Nat) : ∃ o, ownTag x claim core = { x with owner := o } := by
  unfold ownTag
  split
  · exact ⟨x.owner, rfl⟩
  · split
    · exact ⟨some core, rfl⟩
    · split
      · exact ⟨x.owner, rfl⟩
      · exact ⟨none, rfl⟩

end

/-- Settles O23: an OWN writes the owner alone; a SET writes the value alone, and an ADD is a SET of the sum. -/
theorem syncOperations : Obligations.SyncOperations := by
  refine ⟨fun x claim core => ?own, fun d o v x => ?values⟩
  case own =>
    obtain ⟨w, hw⟩ := ownTag_frame x claim core
    exact ⟨ownSucceeds_iff, ownTag_of_failure, ownTag_of_claim, ownTag_of_release, by rw [hw], by rw [hw]⟩
  case values =>
    have hother := fun v => d.syncObj_syncSet_ne (o := o) (x := x) v
    simp only [Dev.syncAdd, Dev.syncObj_syncSet_self, syncObj_hostSyncSet_self, true_and]
    exact ⟨hother v, hother _, syncObj_hostSyncSet_ne d v⟩

end Sys2Proof.Machine
end

section
/-! SUPPORT. The ops that the core sequencer carries out itself (R350 to R364): an op at the program counter with its reserved bits clear acts, one with
a reserved bit set is refused. -/

namespace Sys2Proof.Machine
open Sys2Proof.Claims

section ControlOp
variable {i : Instr} {s : State} {core : Fin 128} {o op : Nat} {fields : List (Nat × Nat × Nat)} {k : Ctl → Dev → Task → Nat → Dev} {t : Task} {d : Dev}

/-- A fetched op with no reserved bit set acts. -/
theorem leaves_of_cleanOp (hr : Runs s) (hi : exec i s = onDev s fun c d => ctlOp c d core o fields (k c)) (h : s.dev.curOp core o = some (t, op))
    (hc : opClean op fields = true) (hd : k s.ctl s.dev t op = d) : Leaves i s d :=
  leaves_of_onDev hr hi (by simp only [ctlOp, h, hc, if_true, hd])

/-- A fetched op with a reserved bit set is refused with BAD_FIELD (R352). -/
theorem leaves_of_reservedOp (hr : Runs s) (hi : exec i s = onDev s fun c d => ctlOp c d core o fields (k c)) (h : s.dev.curOp core o = some (t, op))
    (hc : opClean op fields = false) : Leaves i s (s.dev.sqRefuse core t op 2 (opViolation s.ctl core 0 3 2 t.pc t.as)) :=
  leaves_of_onDev hr hi (by simp only [ctlOp, h, hc, Bool.false_eq_true, if_false])

end ControlOp

/-- Settles O21: the three ops are refused alike. -/
theorem reservedOpBitsAreRefused : Obligations.ReservedOpBitsAreRefused := by
  intro s core t op hr
  exact ⟨leaves_of_reservedOp hr (by rw [exec, execSetc]), leaves_of_reservedOp hr (by rw [exec, execFence]),
    leaves_of_reservedOp hr (by rw [exec, execRelayRing])⟩

/-- Outside replay of the channel, a value is recorded and used (R466). -/
theorem Dev.valueOf_of_unforced {c : Ctl} {d : Dev} {t : Task} (core opc n v flags : Nat) (k : Dev → Nat → Dev) (h : d.forced c t.own.ch 5 = false) :
    d.valueOf c core t opc n v flags k =
      k (d.tripFor c t.own 5 flags core 0 (toLe 8 t.pc ++ toLe 1 opc ++ toLe 1 n ++ zeros 2 ++ toLe 4 v)) v := by
  simp only [Dev.valueOf, h, Bool.false_eq_true, if_false]

/-! ### Counters and branches (R351, R352) -/

/-- Settles O20: each op acts, and the clause's conditions choose what it does. -/
theorem countersAndBranches : Obligations.CountersAndBranches := by
  intro s core t op hr
  refine ⟨fun h hc => ?endOp, fun h hc => ?setc, fun h hc => ?addc, fun h hc => ?ldc, fun h hc => ?br, fun h hc hcond => ?brc, fun h hc => ?loop⟩
  case endOp => exact leaves_of_cleanOp hr (by rw [exec, execEndOp]) h hc (by rfl)
  case setc => exact leaves_of_cleanOp hr (by rw [exec, execSetc]) h hc (by rfl)
  case addc => exact leaves_of_cleanOp hr (by rw [exec, execAddc]) h hc (by rfl)
  case ldc =>
    intro a ha hin hfree hclean v
    have hplace : (decide (a % 4 ≠ 0) || decide (storeBytes < a + 4)) = false := by simp [ha, Nat.not_lt.mpr hin]
    refine leaves_of_cleanOp hr (by rw [exec, execLdc]) h hc ((if_neg (ne_true_of_eq_false hplace)).trans ?_)
    simp only [a] at hclean
    simp only [hclean, Dev.markIf, Bool.false_eq_true, if_false]
    exact Dev.valueOf_of_unforced _ _ _ _ _ _ hfree
  case br => exact leaves_of_cleanOp hr (by rw [exec, execBr]) h hc (by simp only [Bool.or_eq_true, beq_iff_eq])
  case brc => exact leaves_of_cleanOp hr (by rw [exec, execBrc]) h hc (if_neg (Nat.not_lt.mpr hcond))
  case loop => exact leaves_of_cleanOp hr (by rw [exec, execLoop]) h hc (by rfl)

/-! ### Order (R351, R359, R362, R363) -/

/-- The oldest deferred SIGNAL acts once its engines' earlier ops have completed. -/
theorem leaves_of_deferredHead {s : State} {core : Fin 128} {x : Deferred} {rest : List Deferred} (hr : Runs s)
    (hx : (s.dev.seq core).deferred = x :: rest) (h : s.dev.drainedFor core x.own x.mask x.before = true) :
    Leaves (.signalDeferredAct core) s
      ((s.dev.updSeq core (fun q => { q with deferred := q.deferred.eraseIdx 0 })).actSignal x.set x.sync x.operand) :=
  leaves_of_onDev hr (by rw [exec, execSignalDeferredAct]) (by simp [hx, findIdx, h])

/-- Settles O22: each op acts, and the clause's conditions choose what it does. -/
theorem orderingOps : Obligations.OrderingOps := by
  intro s core t op hr next o
  refine ⟨fun h hc => ?fence, fun m n ht hw hdone => ?fenceRelease, fun h hc ho => ?wait, fun h hc ho => ?signal,
    fun x rest hx hdone => leaves_of_deferredHead hr hx hdone, fun h hc ho hfree => ?own,
    fun h hc => ⟨fun hrewind => ?rewind, fun hfrees hroom hfull => ?free⟩⟩
  case fence => exact leaves_of_cleanOp hr (by rw [exec, execFence]) h hc (by rfl)
  case fenceRelease => exact leaves_of_onDev hr (by rw [exec, execFenceRelease]) (by simp only [ht, hw, hdone, if_true])
  case wait => exact leaves_of_cleanOp hr (by rw [exec, execWait]) h hc (by exact if_neg (not_not.mpr ho))
  case signal => exact leaves_of_cleanOp hr (by rw [exec, execSignal]) h hc (by exact if_neg (not_not.mpr ho))
  case own =>
    refine leaves_of_cleanOp hr (by rw [exec, execOwn]) h hc ((if_neg (not_not.mpr ho)).trans ?_)
    exact Dev.valueOf_of_unforced _ _ _ _ _ _ hfree
  case rewind => exact leaves_of_cleanOp hr (by rw [exec, execRelayRing]) h hc (by exact if_pos hrewind)
  case free =>
    refine leaves_of_cleanOp hr (by rw [exec, execRelayRing]) h hc ?_
    simp only [hfrees, Nat.not_lt.mpr hroom, hfull, Bool.false_and, Bool.false_eq_true, if_false]
    rfl

/-! ### Op fetch, self-enqueue, the end of a task (R346, R350, R358, R360, R366) -/

/-- Where one core's tasks end alone, the boundary is that core's (R375). -/
theorem boundaries_of_single {c : Ctl} {d d' : Dev} {n : Nat} (h : (d.cores.map (·.1)).filter (d.endedOn d') = [n]) :
    boundaries c d d' = (c.persistBin (boundary c d' n) n, d'.binEvent c (boundary c d' n) n) := by
  rw [boundaries, h, List.foldl_cons, List.foldl_nil]

/-- A command of the running logic that may end tasks. -/
theorem leaves_of_onTasks {i : Instr} {s : State} {f : Ctl → Dev → Dev} {d : Dev} (hr : Runs s) (hi : exec i s = onTasks s f) (hd : f s.ctl s.dev = d) :
    LeavesBoth i s (boundaries s.ctl s.dev d) := by
  rw [LeavesBoth, hi, onTasks, onAll_running s _ hr, hd]

/-- A task that is ending, and that nothing of its own holds, ends. -/
theorem leaves_of_taskEnd {s : State} {core : Fin 128} {t : Task} (hr : Runs s) (ht : (s.dev.seq core).task = some t) (hend : t.ending = true)
    (hmay : s.dev.mayEnd core t = true) :
    LeavesBoth (.taskEnd core) s (boundaries s.ctl s.dev ((s.dev.mergeClose core t.own).endTask core t t.status)) :=
  leaves_of_onTasks hr (by rw [exec, execTaskEnd]) (by simp [ht, hend, hmay])

/-- Settles O24: each clause's conditions choose one branch of its command. -/
theorem fetchEnqueueAndEnd : Obligations.FetchEnqueueAndEnd := by
  intro s core t hr
  refine ⟨fun d1 ps d2 b ht hbuf => ?fetch, fun op h hc => ?enqueue,
    fun ht hend hmay => ⟨leaves_of_taskEnd hr ht hend hmay, fun hone => ?alone⟩⟩
  case fetch =>
    intro n hresolved hfetched hgood hclean hknown
    exact leaves_of_onDev hr (by rw [exec, execOpFetch])
      (by simp only [ht, hbuf, hresolved, hfetched, hgood, hclean, hknown, n, Bool.false_eq_true, if_false, Bool.not_true])
  case enqueue =>
    intro q named va hva hq hnamed hfree hfails num
    have hfacets : ¬ (s.ctl.queueFacet q ≠ s.ctl.coreFacet core || (named ≠ 0xFF && s.ctl.coreFacet named ≠ s.ctl.coreFacet core)) = true := by
      simpa [hq, imp_iff_not_or] using hnamed
    refine leaves_of_cleanOp hr (by rw [exec, execEnqueue]) h hc ((if_neg (not_not.mpr hva)).trans ((if_neg hfacets).trans ?_))
    rw [if_neg (ne_true_of_eq_false hfree)]
    simp only [show s.dev.enqueueFails t (opb op 2) = none from hfails]
    rfl
  case alone =>
    rw [← boundaries_of_single hone]
    exact leaves_of_taskEnd hr ht hend hmay

/-! ### The landing ring and the save area (R359, R379) -/

/-- Settles O27: the check admits the write, and the clause's conditions choose what it does. -/
theorem sequencerRegisterWrites : Obligations.SequencerRegisterWrites := by
  intro s fn core val hr
  refine ⟨fun hg => ?relay, fun hg => ?save⟩
  case relay =>
    have heffect := hostWrite_admitted s.ctl s.dev fn (baseSQ core + 0x30) 4
    refine ⟨fun hempty hland => leaves_of_onDev hr (by rw [exec, execSqRelayWrite]) ?_,
      fun hbusy => leaves_of_onDev hr (by rw [exec, execSqRelayWrite]) ?_⟩
    · rw [sqRelayWrite, heffect _ hg]
      simp only [hempty, hland, ne_eq, not_true, decide_false, List.isEmpty_nil, Bool.not_true, Bool.or_self, Bool.false_eq_true, if_false]
    · rw [sqRelayWrite, heffect _ hg]
      exact if_pos (by simpa using hbusy)
  case save =>
    have heffect := hostWrite_admitted s.ctl s.dev fn (baseSQ core + 0x80) 4
    refine ⟨fun hsaved hin => leaves_of_onDev hr (by rw [exec, execSqSaveWrite]) ?_,
      fun hsaved => leaves_of_onDev hr (by rw [exec, execSqSaveWrite]) ?_,
      fun hsaved hon hout => leaves_of_onDev hr (by rw [exec, execSqSaveWrite]) ?_⟩
    · have hfits : bit val.toNat 31 = true → ¬ 1536 < bits val.toNat 10 0 + 99 := fun hon => Nat.not_lt.mpr (hin hon)
      rw [sqSaveWrite, heffect _ hg]
      exact (if_neg (by simp [hsaved])).trans (if_neg (by simpa using hfits))
    · rw [sqSaveWrite, heffect _ hg]
      exact if_pos (by simpa using hsaved)
    · rw [sqSaveWrite, heffect _ hg]
      simp [hsaved, hon, hout]

end Sys2Proof.Machine
end

section
/-! SUPPORT. Submission channels (R333, R339 to R342, R354, R358, R365 to R369, R424): writes of a channel's registers, slots, the start of a command,
completion records, and an abort that finds no task. -/

namespace Sys2Proof.Machine
open Sys2Proof.Claims

/-! ### Configuration (R333, R358, R369) -/

section Config
variable {c : Ctl} {d : Dev} {fn ch val : Nat}

/-- The write that enables a channel takes effect where its rings are placed and its address space and client are the facet's. -/
theorem feChCfgWrite_of_placed (hg : (checkWrite c d fn (baseCh ch + 4 * 0) 4).2 = true) (hoff : d.chOn ch = false) (hen : bit val 31 = true)
    (h : (writeFields d (baseCh ch + 4 * 0) val).enableRefused c ch = none) :
    feChCfgWrite c d fn ch 0 val = (writeFields d (baseCh ch + 4 * 0) val).enableCh ch := by
  simp only [Nat.mul_zero, Nat.add_zero] at hg h
  simp [feChCfgWrite, hostWrite_admitted _ _ _ _ _ _ hg, hoff, hen, h]

/-- Elsewhere it is dropped and logged. -/
theorem feChCfgWrite_of_misplaced {kind : Nat} (hg : (checkWrite c d fn (baseCh ch + 4 * 0) 4).2 = true) (hoff : d.chOn ch = false)
    (hen : bit val 31 = true) (h : (writeFields d (baseCh ch + 4 * 0) val).enableRefused c ch = some kind) :
    feChCfgWrite c d fn ch 0 val = dropWrite d kind fn (baseCh ch + 4 * 0) := by
  simp only [Nat.mul_zero, Nat.add_zero] at hg h
  simp [feChCfgWrite, hostWrite_admitted _ _ _ _ _ _ hg, hoff, hen, h]

/-- The ring addresses of an enabled channel that is not held are locked. -/
theorem feChCfgWrite_of_locked {word : Nat} (hg : (checkWrite c d fn (baseCh ch + 4 * word) 4).2 = true) (hword : word ≠ 0) (hon : d.chOn ch = true)
    (hheld : (d.chan ch).held = false) : feChCfgWrite c d fn ch word val = dropWrite d 4 fn (baseCh ch + 4 * word) := by
  simp [feChCfgWrite, hostWrite_admitted _ _ _ _ _ _ hg, hword, hon, hheld]

theorem queueCfgWrite_of_off {q word : Nat} (hg : (checkWrite c d fn (baseQueue q + 4 * word) 4).2 = true) (hoff : d.queueOn q = false) :
    queueCfgWrite c d fn q word val = writeFields d (baseQueue q + 4 * word) val := by
  simp [queueCfgWrite, hostWrite_admitted _ _ _ _ _ _ hg, hoff]

/-- The addresses of an enabled device queue are locked. -/
theorem queueCfgWrite_of_locked {q word : Nat} (hg : (checkWrite c d fn (baseQueue q + 4 * word) 4).2 = true) (hon : d.queueOn q = true) (hword : word ≠ 0) :
    queueCfgWrite c d fn q word val = dropWrite d 4 fn (baseQueue q + 4 * word) := by
  simp [queueCfgWrite, hostWrite_admitted _ _ _ _ _ _ hg, hon, hword]

end Config

/-! ### Doorbells (R339, R468) -/

section Doorbell
variable {s : State} {fn : Fin 16} {ch : Fin 4096} {val : Word} (hr : Runs s) (hg : Grants s fn (baseCh ch + 0x14) 4)
include hr hg

theorem leaves_of_doorbell_off (hoff : s.dev.chOn ch = false) : Leaves (.doorbell fn ch val) s (dropWrite s.dev 5 fn (baseCh ch + 0x14)) :=
  leaves_of_onDev hr (by rw [exec, execDoorbell]) (by simp [hostWrite_admitted _ _ _ _ _ _ hg, hoff])

/-- While no facet replays, an enabled channel looks at the index that the doorbell names. -/
theorem leaves_of_doorbell_on (hon : s.dev.chOn ch = true) (hlive : ∀ f, (s.dev.replayOf f).state ≠ 1) :
    (doorbellIndex (s.dev.chan ch).cons (s.dev.ringSlots ch) (bits val.toNat 15 0) (bits val.toNat 31 16) = none →
      Leaves (.doorbell fn ch val) s (dropWrite (s.dev.raise (baseCh ch + 0x18) 4 (baseCh ch + 0x4C)) 5 fn (baseCh ch + 0x14))) ∧
    (∀ x, doorbellIndex (s.dev.chan ch).cons (s.dev.ringSlots ch) (bits val.toNat 15 0) (bits val.toNat 31 16) = some x →
      Leaves (.doorbell fn ch val) s ((s.dev.ring' ch x).trip s.ctl ch 2 0 {}
        (toLe 2 (bits val.toNat 31 16) ++ toLe 2 (bits val.toNat 15 0) ++ zeros 4 ++ toLe 8 ((s.dev.ring' ch x).chan ch).prod)).1) := by
  have hreplay : ((s.ctl.chFacet ch).map (fun f => (s.dev.replayOf f).state == 1)).getD false = false := by
    cases s.ctl.chFacet ch <;> simp [hlive]
  refine ⟨fun hx => ?_, fun x hx => ?_⟩
  · exact leaves_of_onDev hr (by rw [exec, execDoorbell]) (by simp [hostWrite_admitted _ _ _ _ _ _ hg, hon, hreplay, hx])
  · exact leaves_of_onDev hr (by rw [exec, execDoorbell]) (by simp [hostWrite_admitted _ _ _ _ _ _ hg, hon, hreplay, hx])

end Doorbell

/-! ### Abort (R354) -/

/-- A core without tasks has nothing that an abort could end. -/
theorem Dev.abortOn_of_idle {d : Dev} (ch : Nat) {n : Nat} (hsaved : (d.core n).saved = []) (htask : (d.seq n).task = none) : Dev.abortOn ch d n = d := by
  simp [Dev.abortOn, hsaved, htask]

/-- On a core without tasks none ends. -/
theorem Dev.endedOn_of_idle {d : Dev} (d' : Dev) {n : Nat} (hsaved : (d.core n).saved = []) (htask : (d.seq n).task = none) : d.endedOn d' n = false := by
  simp [Dev.endedOn, Dev.tasksOn, hsaved, htask]

/-- Where no task ends, there is no boundary. -/
theorem boundaries_of_none {c : Ctl} {d d' : Dev} (h : (d.cores.map (·.1)).filter (d.endedOn d') = []) : boundaries c d d' = (c, d') := by
  rw [boundaries, h, List.foldl_nil]

/-- An abort that finds no task on a core reaches the ready tasks alone. -/
theorem leaves_of_abort_idle {s : State} {fn : Fin 16} {ch : Fin 4096} {d : Dev} (hr : Runs s) (hg : Grants s fn (baseCh ch + 0x1C) 4)
    (hd : (s.dev.abortNoted ch).abortReady ch = d)
    (hidle : ∀ n, ((d.core n).saved = [] ∧ (d.seq n).task = none) ∧ ((s.dev.core n).saved = [] ∧ (s.dev.seq n).task = none)) :
    LeavesBoth (.feChAbort fn ch) s (s.ctl, d.abortCheck ch) := by
  have hfold : (List.range 128).foldl (Dev.abortOn ch) d = d :=
    List.foldl_fixed' (fun n => Dev.abortOn_of_idle ch (hidle n).1.1 (hidle n).1.2) _
  have hnone : (s.dev.cores.map (·.1)).filter (s.dev.endedOn (d.abortCheck ch)) = [] :=
    List.filter_eq_nil_iff.mpr fun n _ => by simp [Dev.endedOn_of_idle _ (hidle n).2.1 (hidle n).2.2]
  rw [← boundaries_of_none hnone]
  exact leaves_of_onTasks hr (by rw [exec, execFeChAbort]) (by rw [hostWrite_admitted _ _ _ _ _ _ hg, hd, hfold])

/-! ### Commands and their records (R340 to R342, R365 to R368, R424) -/

/-- The next command of a channel that may start is recorded, and starts or completes with BAD_COMMAND. -/
theorem leaves_of_commandStart {s : State} {ch : Fin 4096} {k : Cmd} (hr : Runs s) (hnext : (s.dev.chan ch).nextCmd = some k)
    (hwait : (s.dev.chan ch).launchWaits = false) (hopen : s.dev.startsOpen s.ctl ch = true) (hserial : (s.dev.chan ch).serialHolds k = false)
    (hreplay : s.dev.replayLets s.ctl ch = true) :
    (∀ v, k.bad = some v → Leaves (.commandStart ch) s
      ((((s.dev.tripFor s.ctl { ch := ch, seq := k.seq } 1 0 0xFF 0xFF k.raw).violate v).count (baseCh ch + 0x54) 1).finishWith ch k.seq 1)) ∧
    (k.bad = none → byteAt k.raw 2 ≠ 1 → Leaves (.commandStart ch) s
      (((s.dev.tripFor s.ctl { ch := ch, seq := k.seq } 1 0 0xFF 0xFF k.raw).updCmd ch k.seq (fun k => { k with phase := .started })).count
        (baseCh ch + 0x54) 1)) := by
  refine ⟨fun v hbad => ?_, fun hbad hop => ?_⟩
  · exact leaves_of_onDev hr (by rw [exec, execCommandStart]) (by simp [hnext, hwait, hopen, hserial, hreplay, hbad])
  · exact leaves_of_onDev hr (by rw [exec, execCommandStart]) (by simp [hnext, hwait, hopen, hserial, hreplay, hbad, hop])

/-- Settles O46: each clause's conditions choose one branch of its command. -/
theorem channelCommands : Obligations.ChannelCommands := by
  intro s fn ch val host hr
  refine ⟨fun hg hoff hen => ⟨fun hplaced => ?enabled, fun kind hrefused => ?refused⟩, fun word hg hword hon hheld => ?locked,
    fun hg => ⟨leaves_of_doorbell_off hr hg, leaves_of_doorbell_on hr hg⟩, fun hg => ⟨?release, leaves_of_abort_idle hr hg rfl⟩,
    fun q word hg => ⟨fun hoff => ?queue, fun hon hword => ?queueLocked⟩,
    fun f hf hreplay hmay => ⟨fun hfirst => ?read, fun hagain => ?reread⟩,
    fun k hnext hwait hopen hserial hreplay => leaves_of_commandStart hr hnext hwait hopen hserial hreplay,
    fun seq rest k hrec hfin hk hfence hasked hlost => ?record, fun r hrec hback => ⟨fun hatt => ?written, ?failed⟩⟩
  case enabled => exact leaves_of_onDev hr (by rw [exec, execFeChCfgWrite]) (feChCfgWrite_of_placed hg hoff hen hplaced)
  case refused => exact leaves_of_onDev hr (by rw [exec, execFeChCfgWrite]) (feChCfgWrite_of_misplaced hg hoff hen hrefused)
  case locked =>
    exact leaves_of_onDev hr (by rw [exec, execFeChCfgWrite]) (feChCfgWrite_of_locked hg (Fin.val_ne_of_ne hword) hon hheld)
  case release => exact leaves_of_onDev hr (by rw [exec, execReleaseHold]) (hostWrite_admitted _ _ _ _ _ _ hg)
  case queue => exact leaves_of_onDev hr (by rw [exec, execDeviceQueueConfigWrite]) (queueCfgWrite_of_off hg hoff)
  case queueLocked =>
    exact leaves_of_onDev hr (by rw [exec, execDeviceQueueConfigWrite]) (queueCfgWrite_of_locked hg hon (Fin.val_ne_of_ne hword))
  case read => exact leaves_of_onDev hr (by rw [exec, execSlotRead]) (by simp [hf, hreplay, hmay, hfirst])
  case reread => exact leaves_of_onDev hr (by rw [exec, execSlotReread]) (by simp [hmay, hagain])
  case record =>
    exact leaves_of_onDev hr (by rw [exec, execCompletionRecordWrite]) (by simp [hrec, hfin, hk, hfence, hasked, hlost])
  case written => exact leaves_of_onDev hr (by rw [exec, execCompletionReadbackDone]) (by simp [hrec, hback, hatt])
  case failed => exact leaves_of_onDev hr (by rw [exec, execCompletionReadbackDone]) (by simp [hrec, hback])

end Sys2Proof.Machine
end

section
/-! SUPPORT. The DMA engine's head op (R355, R357, R378): a DMA_COPY within Core Store from its start to its end, and relay bytes that land at a core that
does not send them (R359). -/

namespace Sys2Proof.Machine
open Sys2Proof.Claims

@[simp] theorem Dev.core_updCore_self (d : Dev) (n : Nat) (f : Core → Core) : (d.updCore n f).core n = f (d.core n) := d.core_setCore_self n _

/-! ### The end of an op (R355, R370) -/

section Done
variable (d : Dev) (core : Nat)

/-- The end of a command's own op completes the command, or leaves it. -/
theorem Dev.cmdOpDone_cases (o : Owner) : d.cmdOpDone core o = d ∨ d.cmdOpDone core o = d.finish o.ch o.seq := by
  unfold Dev.cmdOpDone
  split
  · exact .inl rfl
  split
  · exact .inl rfl
  split
  · exact .inr rfl
  split
  · exact .inr rfl
  · exact .inl rfl

/-- Either way it reaches neither memory nor sync objects nor cores. -/
theorem Dev.cmdOpDone_frame (o : Owner) :
    (d.cmdOpDone core o).mem = d.mem ∧ (d.cmdOpDone core o).sync = d.sync ∧ (d.cmdOpDone core o).core core = d.core core := by
  rcases d.cmdOpDone_cases core o with h | h
  · rw [h]
    exact ⟨rfl, rfl, rfl⟩
  · rw [h]
    exact ⟨d.finish_mem _ _, d.finish_sync _ _, by rw [Dev.core, Dev.finish_cores]; rfl⟩

/-- An op that retires reaches the tasks of its core alone, beside counters. -/
theorem Dev.retired_frame (o : Owner) :
    (d.retired core o).mem = d.mem ∧ (d.retired core o).sync = d.sync ∧
      ∃ q v, (d.retired core o).core core = { d.core core with seq := q, saved := v } := by
  unfold Dev.retired
  split
  · exact ⟨rfl, rfl, _, _, rfl⟩
  · exact ⟨rfl, rfl, _, _, Dev.core_updCore_self _ _ _⟩

/-- The op that leaves the head takes its progress with it. -/
theorem Dev.core_dmaPop (q : QOp) : (d.dmaPop core q).core core = { d.core core with dma := { (d.core core).dma with
    queue := (d.core core).dma.queue.drop 1
    runs := (d.core core).dma.runs.filter (fun x => x.id != q.id) } } := by
  show ((d.popOp core .dma).updRuns core (fun l => l.filter (fun x => x.id != q.id))).core core = _
  simp only [Dev.updRuns, Dev.popOp, Dev.core_updCore_self]
  rfl

/-- The head op without done_sync that completes leaves the queue; beside the op's progress and the tasks, its core stays as it was. -/
theorem Dev.dmaDone_frame (q : QOp) (h : (dmaSync q.op).1 = false) :
    (d.dmaDone core q).mem = d.mem ∧ (d.dmaDone core q).sync = d.sync ∧
      ∃ s v l, (d.dmaDone core q).core core =
        { d.core core with seq := s, saved := v, dma := { (d.core core).dma with queue := (d.core core).dma.queue.drop 1, runs := l } } := by
  have hdone : d.dmaDone core q = ((d.opDone core q).dmaPop core q).cmdOpDone core q.own := by
    rw [Dev.dmaDone, h]
    rfl
  obtain ⟨hmem, hsync, hcore⟩ := ((d.opDone core q).dmaPop core q).cmdOpDone_frame core q.own
  obtain ⟨hmem', hsync', s, v, hcore'⟩ := (d.dropOutst core q.id).retired_frame core q.own
  rw [hdone]
  refine ⟨hmem.trans hmem', hsync.trans hsync', s, v, (d.core core).dma.runs.filter (fun x => x.id != q.id), ?_⟩
  rw [hcore, Dev.core_dmaPop, Dev.opDone, hcore', Dev.dropOutst, Dev.updSeq, Dev.core_updCore_self]

end Done

/-! ### The head op (R355) -/

section Head
variable {c : Ctl} {d : Dev} {core : Nat} {q : QOp}

/-- An op whose bytes have all been issued moves no further. -/
theorem Dev.dmaMove_of_issued {r : DmaRun} (h : (d.core core).dmaRun q = some r) (hi : r.issued = true) : d.dmaMove c core q = d := by
  simp [Dev.dmaMove, h, Dev.dmaUnits, hi]

/-- The head op of a program or of a COPY moves, and completes where it is done. -/
theorem leaves_of_dmaHead {s : State} {core : Fin 128} {q : QOp} {rest : List QOp} {d : Dev} (hr : Runs s) (hq : (s.dev.core core).dma.queue = q :: rest)
    (hop : q.op % 256 ≠ inlineOp)
    (hd : (if (s.dev.dmaMove s.ctl core q).dmaComplete core q then (s.dev.dmaMove s.ctl core q).dmaDone core q else s.dev.dmaMove s.ctl core q) = d) :
    Leaves (.dmaOpComplete core) s d :=
  leaves_of_onDev hr (by rw [exec, execDmaOpComplete]) (by simp only [hq, hop, decide_false, Bool.false_and, Bool.false_eq_true, if_false, hd])

/-! ### The progress of an op -/

theorem Dev.core_setRun (d : Dev) (core : Nat) (r : DmaRun) :
    (d.setRun core r).core core = { d.core core with dma := { (d.core core).dma with runs := r :: (d.core core).dma.runs.filter (fun x => x.id != r.id) } } :=
  d.core_updCore_self core _

theorem Core.dmaRun_of_head {k : Core} {r : DmaRun} {l : List DmaRun} (h : k.dma.runs = r :: l) (hid : r.id = q.id) : k.dmaRun q = some r := by
  simp [Core.dmaRun, h, hid]

/-- A sequencer that stays holds back the same ops. -/
theorem Dev.withheld_congr {a b : Dev} (h : a.seq core = b.seq core) : a.withheld core q = b.withheld core q := by
  simp only [Dev.withheld, h]

theorem Dev.inlineOf_of_copy (d : Dev) (hop : q.op % 256 = 0x60) : d.inlineOf q = none := by
  simp [Dev.inlineOf, hop, inlineOp]

theorem Dev.dmaTotal_of_copy (d : Dev) {r : DmaRun} (hop : q.op % 256 = 0x60) (hr : r.descs = none) : d.dmaTotal q r = opn q.op 4 4 := by
  simp only [Dev.dmaTotal, d.inlineOf_of_copy hop, hr]

/-! ### Units (R378) -/

section Units
variable {r : DmaRun} (n : Nat) (hissued : r.issued = false) (hheld : d.withheld core q = false)
include hissued hheld

/-- A unit that has been issued moves the op on. -/
theorem Dev.dmaUnits_of_ok {d1 : Dev} {m : Nat} {a : Bool} (hpos : r.pos < d.dmaTotal q r) (hunit : d.dmaUnit c core q r = (d1, .ok m a)) :
    let r' := { r with pos := r.pos + m, moving := false, aborted := r.aborted || a, relay := (((d1.core core).dmaRun q).map (·.relay)).getD r.relay }
    d.dmaUnits c core q (n + 1) r = (d1.setRun core r').dmaUnits c core q n r' := by
  simp [Dev.dmaUnits, hissued, hheld, Nat.not_le.mpr hpos, hunit]

/-- After the last unit the op has been issued whole. -/
theorem Dev.dmaUnits_of_end (hpos : d.dmaTotal q r ≤ r.pos) : d.dmaUnits c core q (n + 1) r = d.setRun core { r with issued := true } := by
  simp [Dev.dmaUnits, hissued, hheld, hpos]

end Units

/-! ### A DMA_COPY within Core Store -/

/-- The op copies up to 4 KiB of its own Core Store: its fields are clean, its places lie inside, no object is signalled, no byte read is poisoned. -/
structure QOp.CopiesStore (q : QOp) (k : Core) : Prop where
  opcode : q.op % 256 = 0x60
  clean : opClean q.op [(1, 3, 0), (4, 31, 0), (8, 63, 0), (16, 63, 0), (24, 16, 0), (27, 7, 7)] = true
  hint : opf q.op 1 3 2 ≠ 3
  noSync : opt q.op 27 7 = false
  fromStore : opt q.op 1 0 = false
  toStore : opt q.op 1 1 = false
  nonempty : 0 < opn q.op 4 4
  oneUnit : opn q.op 4 4 ≤ 4096
  sourceInside : opn q.op 8 8 + opn q.op 4 4 ≤ storeBytes
  destInside : opn q.op 16 8 + opn q.op 4 4 ≤ storeBytes
  unpoisoned : anyPoison (k.csRead (opn q.op 8 8) (opn q.op 4 4)) = false

/-- Such an op has started, and its bytes are copied and counted. -/
def Dev.storeCopied (d : Dev) (core : Nat) (q : QOp) : Dev :=
  ((d.setRun core { id := q.id }).dmaMoved core (opn q.op 4 4)).updCore core
    (fun k => k.csWrite (opn q.op 16 8) ((d.core core).csRead (opn q.op 8 8) (opn q.op 4 4)))

/-- Its progress then says that it has been issued whole. -/
def Dev.storeCopyIssued (d : Dev) (core : Nat) (q : QOp) : Dev :=
  ((d.storeCopied core q).setRun core { id := q.id, pos := opn q.op 4 4 }).setRun core { id := q.id, pos := opn q.op 4 4, issued := true }

/-- The copy reaches the bytes of its core's store, and the op's progress. -/
theorem Dev.core_storeCopied : (d.storeCopied core q).core core =
    { (d.core core).csWrite (opn q.op 16 8) ((d.core core).csRead (opn q.op 8 8) (opn q.op 4 4)) with
      dma := { (d.core core).dma with runs := { id := q.id } :: (d.core core).dma.runs.filter (fun x => x.id != q.id) } } := by
  rw [Dev.storeCopied, Dev.core_updCore_self]
  show ((d.setRun core { id := q.id }).core core).csWrite _ _ = _
  rw [Dev.core_setRun]
  rfl

theorem Dev.core_storeCopyIssued : ∃ l, (d.storeCopyIssued core q).core core =
    { (d.core core).csWrite (opn q.op 16 8) ((d.core core).csRead (opn q.op 8 8) (opn q.op 4 4)) with dma := { (d.core core).dma with runs := l } } := by
  rw [Dev.storeCopyIssued, Dev.core_setRun, Dev.core_setRun, Dev.core_storeCopied]
  exact ⟨_, rfl⟩

section Copy
variable (h : q.CopiesStore (d.core core))
include h

/-- The checks find nothing, and the op starts. -/
theorem Dev.dmaStart_of_copiesStore : d.dmaStart c core q = (d.setRun core { id := q.id }, some { id := q.id }) := by
  obtain ⟨hop, hclean, hhint, hsync, hfrom, hto, hn, -, hsrc, hdst, -⟩ := h
  have hsync' : dmaSyncBad c core q.op = false := by simp [dmaSyncBad, dmaSync, hsync]
  have hsrc' : opn q.op 8 8 < storeBytes := by omega
  have hdst' : opn q.op 16 8 < storeBytes := by omega
  simp [Dev.dmaStart, d.inlineOf_of_copy hop, hop, inlineOp, hclean, hhint, hsync', hfrom, hto, hsrc, hdst, hsrc', hdst']

/-- Its only unit copies all its bytes. -/
theorem Dev.dmaUnit_of_copiesStore :
    (d.setRun core { id := q.id }).dmaUnit c core q { id := q.id } = (d.storeCopied core q, .ok (opn q.op 4 4) false) := by
  obtain ⟨hop, -, -, -, hfrom, hto, -, hunit, -, -, hclean⟩ := h
  have hread : ((d.setRun core { id := q.id }).core core).csRead (opn q.op 8 8) (opn q.op 4 4) =
      (d.core core).csRead (opn q.op 8 8) (opn q.op 4 4) := by rw [Dev.core_setRun]; rfl
  have hn : min 4096 (opn q.op 4 4) = opn q.op 4 4 := Nat.min_eq_right hunit
  simp [Dev.dmaUnit, Dev.inlineOf_of_copy _ hop, Dev.dmaTotal_of_copy _ hop, hop, Dev.dmaCopy, hfrom, hto, hn, hread, hclean, Dev.markIf, anyAborted,
    Dev.storeCopied]

/-- The op starts, copies, and has been issued whole. -/
theorem Dev.dmaMove_of_copiesStore (hnew : (d.core core).dmaRun q = none) (hheld : d.withheld core q = false) :
    d.dmaMove c core q = d.storeCopyIssued core q := by
  have htotal (e : Dev) (r : DmaRun) (hr : r.descs = none) : e.dmaTotal q r = opn q.op 4 4 := e.dmaTotal_of_copy h.opcode hr
  have hstarted : (d.setRun core { id := q.id }).withheld core q = false :=
    (Dev.withheld_congr (by rw [Dev.seq, Dev.core_setRun]; rfl)).trans hheld
  have hcopied (r : DmaRun) : ((d.storeCopied core q).setRun core r).withheld core q = false :=
    (Dev.withheld_congr (by rw [Dev.seq, Dev.core_setRun, Dev.core_storeCopied]; rfl)).trans hheld
  have hrun : ((d.storeCopied core q).core core).dmaRun q = some { id := q.id } := by
    rw [Dev.core_storeCopied]
    exact Core.dmaRun_of_head rfl rfl
  obtain ⟨m, hm⟩ : ∃ m, opn q.op 4 4 = m + 1 := ⟨opn q.op 4 4 - 1, (Nat.sub_add_cancel h.nonempty).symm⟩
  calc d.dmaMove c core q
      = (d.setRun core { id := q.id }).dmaUnits c core q (opn q.op 4 4 + 1) { id := q.id } := by
        simp only [Dev.dmaMove, hnew, hheld, Dev.dmaStart_of_copiesStore h, Bool.false_eq_true, if_false]
        rw [htotal _ _ rfl]
    _ = ((d.storeCopied core q).setRun core { id := q.id, pos := opn q.op 4 4 }).dmaUnits c core q (opn q.op 4 4)
          { id := q.id, pos := opn q.op 4 4 } := by
        rw [Dev.dmaUnits_of_ok _ rfl hstarted (by rw [htotal _ _ rfl]; exact h.nonempty) (Dev.dmaUnit_of_copiesStore h), hrun]
        simp only [Option.map_some, Option.getD_some, Nat.zero_add, Bool.or_self]
    _ = d.storeCopyIssued core q := by
        rw [hm, Dev.dmaUnits_of_end _ rfl (hcopied _) (by rw [htotal _ _ rfl, hm]), Dev.storeCopyIssued, hm]

end Copy

end Head

/-- After such a copy the head op is complete where no access of the module waits outside. -/
theorem Dev.dmaComplete_storeCopyIssued {d : Dev} {core : Nat} {q : QOp} (hext : d.hl.ext = []) : (d.storeCopyIssued core q).dmaComplete core q = true := by
  have hrun : ((d.storeCopyIssued core q).core core).dmaRun q = some { id := q.id, pos := opn q.op 4 4, issued := true } := by
    rw [Dev.storeCopyIssued, Dev.core_setRun]
    exact Core.dmaRun_of_head rfl rfl
  have hext' : (d.storeCopyIssued core q).hl.ext = [] := hext
  simp [Dev.dmaComplete, hrun, hext']

/-- A DMA_COPY within Core Store copies and completes. -/
theorem exec_dmaOpComplete_of_copiesStore {s : State} {core : Fin 128} {q : QOp} {rest : List QOp} (hr : Runs s)
    (hq : (s.dev.core core).dma.queue = q :: rest) (h : q.CopiesStore (s.dev.core core)) (hnew : (s.dev.core core).dmaRun q = none)
    (hheld : s.dev.withheld core q = false) (hext : s.dev.hl.ext = []) :
    ∃ t, exec (.dmaOpComplete core) s = .next t ∧ t.ctl = s.ctl ∧ t.pending = s.pending ∧ (t.dev.core core).dma.queue = rest ∧
      (∀ x, Memory.read (t.dev.core core).store x =
        Memory.read ((s.dev.core core).csWrite (opn q.op 16 8) ((s.dev.core core).csRead (opn q.op 8 8) (opn q.op 4 4))).store x) ∧
      t.dev.mem = s.dev.mem ∧ t.dev.sync = s.dev.sync := by
  have hop : q.op % 256 ≠ inlineOp := by rw [h.opcode]; decide
  have hquiet : (dmaSync q.op).1 = false := by simp [dmaSync, h.noSync]
  have hleaves : Leaves (.dmaOpComplete core) s ((s.dev.storeCopyIssued core q).dmaDone core q) :=
    leaves_of_dmaHead hr hq hop (by rw [Dev.dmaMove_of_copiesStore h hnew hheld, Dev.dmaComplete_storeCopyIssued hext, if_pos rfl])
  obtain ⟨hmem, hsync, e, v, l, hcore⟩ := (s.dev.storeCopyIssued core q).dmaDone_frame core q hquiet
  obtain ⟨l', hcopied⟩ := Dev.core_storeCopyIssued (d := s.dev) (core := core) (q := q)
  rw [hcopied] at hcore
  refine ⟨_, hleaves, rfl, rfl, ?_, fun x => by rw [hcore], hmem, hsync⟩
  rw [hcore]
  show (s.dev.core core).dma.queue.drop 1 = rest
  rw [hq, List.drop_succ_cons, List.drop_zero]

/-! ### Relay bytes that land (R357, R359) -/

/-- Bytes written into the landing ring leave the ring's counts. -/
theorem Core.arrived_ringWrite (k : Core) (base size p : Nat) (b : List PByte) : (k.ringWrite base size p b).arrived = k.arrived := by
  unfold Core.ringWrite
  generalize List.range (b.length / 64) = l
  induction l generalizing k with
  | nil => rfl
  | cons i l ih => rw [List.foldl_cons, ih]; rfl

/-- At a core that does not send them, bytes land as far as the ring has room, and go on to the next core. -/
theorem leaves_of_relayLand {s : State} {core : Fin 128} {x : Landing} {rest : List Landing} (hr : Runs s)
    (hl : (s.dev.core core).landing = x :: rest) (hsrc : x.src ≠ core.val) (hn : 0 < s.dev.landUnits core x) :
    Leaves (.relayLand core) s (s.dev.landed core x rest) := by
  refine leaves_of_onDev hr (by rw [exec, execRelayLand]) ?_
  have hmoves : ¬ (s.dev.landUnits core x = 0 || (x.src = core.val && ((s.dev.core core).dma.queue.head?.map (·.id)) ≠ some x.id)) = true := by
    simp [hsrc, Nat.pos_iff_ne_zero.mp hn]
  simp only [hl]
  refine (if_neg hmoves).trans ?_
  simp only [hsrc, decide_false, Bool.false_and, Bool.false_eq_true, if_false]
  split <;> rfl

/-- Settles O48: the head op moves, and completes or stays; a copy within Core Store does both in one step; a landing is `Dev.landed`. -/
theorem transfersComplete : Obligations.TransfersComplete := by
  intro s core hr
  refine ⟨fun q rest hq hop => ⟨fun hdone => ?completes, fun hleft => ?moves, fun r hrun hissued => Dev.dmaMove_of_issued hrun hissued,
    fun hnew hheld hcopy hclean hhint hquiet hfrom hto hext => ?copies⟩, fun x rest hl hsrc => ?lands⟩
  case completes => exact leaves_of_dmaHead hr hq hop (if_pos hdone)
  case moves => exact leaves_of_dmaHead hr hq hop (if_neg (ne_true_of_eq_false hleft))
  case copies =>
    intro n src dst hn hunit hsrc hdst hpoison
    exact exec_dmaOpComplete_of_copiesStore hr hq ⟨hcopy, hclean, hhint, hquiet, hfrom, hto, hn, hunit, hsrc, hdst, hpoison⟩ hnew hheld hext
  case lands =>
    intro k area n hn b d d'
    have hlanded := leaves_of_relayLand hr hl hsrc hn
    rw [Dev.landed, Core.arrived_ringWrite] at hlanded
    exact hlanded

end Sys2Proof.Machine
end

section
/-! SUPPORT. The dispatcher (R376 to R382): the order of the three keys by which a victim is chosen, placement, resume, preemption, and the save of a
victim. -/

namespace Sys2Proof.Machine
open Sys2Proof.Claims

/-! ### The choice of a victim (R377) -/

/-- Core m is a victim at least as good as core n: its task runs at a lower level, or at the same level was placed later, or was placed at
the same time and m is not the lower number. -/
def VictimAtLeast (d : Dev) (m n : Nat) : Prop :=
  let a := ((d.seq m).task).getD {}
  let b := ((d.seq n).task).getD {}
  a.level < b.level ∨ (a.level = b.level ∧ (b.placed < a.placed ∨ (b.placed = a.placed ∧ n ≤ m)))

theorem VictimAtLeast.refl (d : Dev) (m : Nat) : VictimAtLeast d m m := .inr ⟨rfl, .inr ⟨rfl, le_rfl⟩⟩

theorem VictimAtLeast.trans {d : Dev} {l m n : Nat} (hlm : VictimAtLeast d l m) (hmn : VictimAtLeast d m n) : VictimAtLeast d l n := by
  simp only [VictimAtLeast] at *
  omega

theorem victimAtLeast_total (d : Dev) (m n : Nat) : VictimAtLeast d m n ∨ VictimAtLeast d n m := by
  simp only [VictimAtLeast]
  omega

/-- The model's test of two cores is the strict part of the order. -/
theorem victimBefore_iff {d : Dev} {n m : Nat} : victimBefore d n m = true ↔ ¬ VictimAtLeast d m n := by
  simp only [victimBefore, VictimAtLeast]
  split_ifs <;> rw [decide_eq_true_iff] <;> omega

/-- Only a list without cores has no victim. -/
theorem eq_nil_of_victimOf_eq_none {d : Dev} {l : List Nat} (h : victimOf d l = none) : l = [] := by
  cases l with
  | nil => rfl
  | cons n r =>
    rw [victimOf] at h
    split at h
    · cases h
    · split at h <;> cases h

/-- The victim of a list with a first core: that core where it is alone or comes before the victim of the rest, else the victim of the rest. -/
theorem victimOf_cons_eq_some {d : Dev} {n m : Nat} {r : List Nat} (h : victimOf d (n :: r) = some m) :
    (m = n ∧ r = []) ∨ ∃ v, victimOf d r = some v ∧ ((m = n ∧ VictimAtLeast d n v) ∨ (m = v ∧ VictimAtLeast d v n)) := by
  rw [victimOf] at h
  split at h
  next hr => exact .inl ⟨(Option.some.inj h).symm, eq_nil_of_victimOf_eq_none hr⟩
  next v hv =>
    refine .inr ⟨v, hv, ?_⟩
    split at h
    next hn => exact .inl ⟨(Option.some.inj h).symm, (victimAtLeast_total d n v).resolve_right (victimBefore_iff.mp hn)⟩
    next hn => exact .inr ⟨(Option.some.inj h).symm, not_not.mp (mt victimBefore_iff.mpr hn)⟩

/-- The victim is one of the cores, and at least as good as each of them. -/
theorem victimOf_atLeast {d : Dev} {l : List Nat} {m : Nat} (h : victimOf d l = some m) : m ∈ l ∧ ∀ n ∈ l, VictimAtLeast d m n := by
  induction l generalizing m with
  | nil => cases h
  | cons n r ih =>
    rw [List.forall_mem_cons]
    obtain ⟨rfl, rfl⟩ | ⟨v, hv, ⟨rfl, hbetter⟩ | ⟨rfl, hbetter⟩⟩ := victimOf_cons_eq_some h
    · exact ⟨List.mem_cons_self, .refl d m, fun x hx => absurd hx List.not_mem_nil⟩
    · exact ⟨List.mem_cons_self, .refl d m, fun x hx => hbetter.trans ((ih hv).2 x hx)⟩
    · exact ⟨List.mem_cons_of_mem n (ih hv).1, hbetter, (ih hv).2⟩

/-- Settles O26, by induction on the list: its first core and the victim of the rest are ordered by the three keys. -/
theorem victimIsTheLowestLevel : Obligations.VictimIsTheLowestLevel := fun _ _ _ h => victimOf_atLeast h

/-! ### Placing, resuming, asking for a victim and saving it (R376 to R382) -/

/-- Settles O25: a free core does what `nextWork` chooses and an occupied one nothing; a request asks the victim of the rule; the save follows once
nothing of the core holds it back. -/
theorem dispatcher : Obligations.Dispatcher := by
  intro s core hr
  refine ⟨fun i r hfree hwork => ?place, fun v hfree hwork => ⟨?resumeAtPlace, ?resume⟩, fun hbusy => ⟨?busyPlace, ?busyResume⟩,
    fun n r m hready hasked hnone hvictim => ?ask, fun t latency htask hstop hsettled hfaults => ?save⟩
  case place => exact leaves_of_onDev hr (by rw [exec, execTaskPlace]) (by simp [hfree, hwork])
  case resumeAtPlace => exact leaves_of_onDev hr (by rw [exec, execTaskPlace]) (by simp [hfree, hwork])
  case resume => exact leaves_of_onDev hr (by rw [exec, execTaskResume]) (by simp [hfree, hwork])
  case busyPlace => exact leaves_of_onDev hr (by rw [exec, execTaskPlace]) (by simp [hbusy])
  case busyResume => exact leaves_of_onDev hr (by rw [exec, execTaskResume]) (by simp [hbusy])
  case ask =>
    refine leaves_of_onDev hr (by rw [exec, execPreemptRequest]) ?_
    simp only [hready, hasked, hnone, hvictim, Bool.or_self, Bool.false_eq_true, if_false]
  case save =>
    refine leaves_of_onDev hr (by rw [exec, execPreemptSave]) ?_
    have hsaves : (!(s.dev.seq core).stopping || (!(s.dev.core core).settled || s.dev.coreFaults core)) = false := by
      simp [hstop, hsettled, hfaults]
    simp only [htask, hsaves, Bool.false_eq_true, if_false]
    rw [Dev.reg_setReg_ne _ _ _ _ (by omega)]

end Sys2Proof.Machine
end

section
/-! SUPPORT. Every command answers a next state and leaves the queue as it was; in reset only the sideband controller, the supply, the pins and the
test port act (R503, R505, R506). -/

namespace Sys2Proof.Machine
open Sys2Proof.Claims

/-- A meaning that answers a next state from every state, with the queue as it was. -/
def Completes (m : State → Host.Outcome State Fault Refusal) : Prop := ∀ s : State, ∃ t, m s = .next t ∧ t.pending = s.pending

theorem completes_next {g : State → State} (h : ∀ s, (g s).pending = s.pending) : Completes (fun s => .next (g s)) := fun s => ⟨g s, rfl, h s⟩

theorem completes_skip : Completes (fun s => .next s) := completes_next fun _ => rfl

/-- A meaning that leaves the control part and the queue alone, such as an SMBus read. -/
theorem completes_dev (g : State → Dev) : Completes (fun s => .next { s with dev := g s }) := completes_next fun _ => rfl

theorem completes_onDev (f : Ctl → Dev → Dev) : Completes (fun s => onDev s f) := fun s => ⟨_, rfl, (onDev_next s _ f rfl).1⟩

theorem completes_onAll (f : Ctl → Dev → Ctl × Dev) : Completes (fun s => onAll s f) := fun s => ⟨_, rfl, onAll_next s _ f rfl⟩

theorem completes_onTasks (f : Ctl → Dev → Dev) : Completes (fun s => onTasks s f) := completes_onAll _

/-- A command outside touchesControl. -/
theorem completes_work (i : Instr) (hi : touchesControl i = false) : Completes (exec i) := by
  intro s
  obtain ⟨f, hf⟩ := exec_work i s hi
  rw [hf]
  exact completes_onDev f s

theorem completes_ite {p : Prop} [Decidable p] {m n : State → Host.Outcome State Fault Refusal} (hm : Completes m) (hn : Completes n) :
    Completes (if p then m else n) := by
  split
  · exact hm
  · exact hn

theorem completes_ifBit (v i : Nat) {m : State → Host.Outcome State Fault Refusal} (hm : Completes m) : Completes (ifBit v i m) :=
  completes_ite hm completes_skip

theorem completes_inTurn_nil : Completes (inTurn []) := completes_skip

theorem completes_inTurn_cons {m : State → Host.Outcome State Fault Refusal} {l : List (State → Host.Outcome State Fault Refusal)}
    (hm : Completes m) (hl : Completes (inTurn l)) : Completes (inTurn (m :: l)) := by
  intro s
  obtain ⟨t, ht, hp⟩ := hm s
  obtain ⟨u, hu, hq⟩ := hl t
  exact ⟨u, by simp [inTurn, ht, hu], hq.trans hp⟩

/-! ### A host write of a register (R39) -/

section RegisterWrite
variable (fn : Fin 16) (off v : Nat)

theorem fieldsOnly_completes : Completes (fieldsOnly off v) := completes_onDev _

theorem chipWrite_completes : Completes (chipWrite fn off v) := by
  unfold chipWrite
  extract_lets w
  have fields := fieldsOnly_completes off v
  refine completes_ite (completes_onAll _) <| completes_ite (completes_onAll _) <| completes_ite (completes_onAll _) <|
    completes_ite (completes_onAll _) <| completes_ite ?quar <| completes_ite (completes_ifBit v 0 (completes_onAll _)) <|
    completes_ite (completes_ifBit v 0 (completes_onAll _)) <| completes_ite ?measure <| completes_ite (completes_onAll _) <|
    completes_ite ?replay <| completes_ite (completes_onDev _) <| completes_ite ?attach <| completes_ite (completes_onDev _) <|
    completes_ite ?mirror <| completes_ite (completes_ifBit v 0 (completes_onDev _)) <|
    completes_ite (completes_ifBit v 0 (completes_onDev _)) fields
  case quar =>
    exact completes_inTurn_cons fields <| completes_inTurn_cons (completes_ifBit v 31 (completes_onTasks _)) <|
      completes_inTurn_cons (completes_ifBit v 30 (completes_onDev _)) completes_inTurn_nil
  case measure => exact completes_inTurn_cons fields <| completes_inTurn_cons (completes_ifBit v 0 (completes_onAll _)) completes_inTurn_nil
  case replay =>
    exact completes_inTurn_cons (completes_ifBit v 31 (completes_onAll _)) <|
      completes_inTurn_cons (completes_ifBit v 30 (completes_onDev _)) completes_inTurn_nil
  case attach =>
    exact completes_inTurn_cons fields <| completes_inTurn_cons (completes_ifBit v 0 (completes_onDev _)) <|
      completes_inTurn_cons (completes_ifBit v 1 (completes_onDev _)) <|
      completes_inTurn_cons (completes_ifBit v 2 (completes_onDev _)) completes_inTurn_nil
  case mirror => exact completes_ite (completes_ifBit v 4 (completes_onDev _)) (completes_onDev _)

theorem memWrite_completes : Completes (memWrite fn off v) := by
  unfold memWrite
  extract_lets w
  have fields := fieldsOnly_completes off v
  refine completes_ite (completes_ite (completes_onDev _) fields) <| completes_ite ?clear <|
    completes_ite (completes_ite (completes_onDev _) (completes_ite (completes_onDev _) completes_skip)) <|
    completes_ite (completes_onDev _) <| completes_ite (completes_onDev _) <| completes_ite (completes_onDev _) <| completes_ite ?flush <|
    completes_ite (completes_onDev _) <| completes_ite (completes_onDev _) <| completes_ite (completes_onDev _) fields
  case clear => exact completes_inTurn_cons fields <| completes_inTurn_cons (completes_ifBit v 4 (completes_onDev _)) completes_inTurn_nil
  case flush =>
    exact completes_inTurn_cons (completes_ifBit v 1 (completes_onDev _)) <|
      completes_inTurn_cons (completes_ifBit v 0 (completes_onDev _)) completes_inTurn_nil

theorem frontWrite_completes : Completes (frontWrite fn off v) := by
  unfold frontWrite
  extract_lets w o ch r
  have fields := fieldsOnly_completes off v
  refine completes_ite (completes_ite (completes_onDev _) <| completes_ite (completes_onDev _) <| completes_ite ?ctrl fields) <|
    completes_ite (completes_onDev _) <| completes_ite (completes_onDev _) fields
  exact completes_inTurn_cons (completes_ifBit v 1 (completes_onDev _)) <|
    completes_inTurn_cons (completes_ifBit v 0 (completes_onTasks _)) completes_inTurn_nil

theorem coreWrite_completes : Completes (coreWrite fn off v) := by
  unfold coreWrite
  extract_lets w n o
  exact completes_ite (completes_onDev _) <| completes_ite (completes_onDev _) <| completes_ite (completes_onDev _) <|
    completes_ite (completes_ifBit v 0 (completes_onDev _)) (fieldsOnly_completes off v)

theorem registerEffect_completes : Completes (registerEffect fn off v) :=
  completes_ite (chipWrite_completes fn off v) <| completes_ite (memWrite_completes fn off v) <| completes_ite (frontWrite_completes fn off v) <|
    completes_ite (coreWrite_completes fn off v) (fieldsOnly_completes off v)

/-- What a REGISTER_WRITE can do (R39, R427, log entry 6): nothing in reset, something to Dev, or its register's effect. -/
theorem execRegisterWrite_cases (who : HostId) (width : Nat) (val : BitVec 64) (s : State) :
    (∃ d, execRegisterWrite who off width val s = .next { s with dev := d }) ∨
      execRegisterWrite who off width val s = registerEffect who.fn off (val.toNat % 2 ^ 32) s := by
  simp only [execRegisterWrite]
  split
  next => exact .inl ⟨s.dev, rfl⟩
  split
  next => exact .inl ⟨_, rfl⟩
  split
  next => exact .inl ⟨_, rfl⟩
  split
  next => exact .inl ⟨_, rfl⟩
  next => exact .inr rfl

theorem execRegisterWrite_completes (who : HostId) (width : Nat) (val : BitVec 64) : Completes (execRegisterWrite who off width val) := by
  intro s
  obtain ⟨d, hd⟩ | he := execRegisterWrite_cases off who width val s
  · exact ⟨_, hd, rfl⟩
  · rw [he]
    exact registerEffect_completes who.fn off _ s

end RegisterWrite

theorem execRegisterWrite_reset (who : HostId) (off width : Nat) (val : BitVec 64) (s : State) (h : s.ctl.power.running = false) :
    execRegisterWrite who off width val s = .next s := by simp [execRegisterWrite, h]

/-! ### The supply, the pins and the test port -/

@[simp] theorem State.leaveReset_pending (s : State) : s.leaveReset.pending = s.pending := by
  unfold State.leaveReset
  split <;> rfl

theorem execVinOut_completes : Completes execVinOut := by
  refine completes_next fun s => ?_
  split <;> rfl

theorem execTrip_completes (cause : TripCause) : Completes (execTrip cause) := by
  refine completes_next fun s => ?_
  split <;> rfl

theorem execResetRelease_completes : Completes execResetRelease := by
  refine completes_next fun s => ?_
  split
  · exact State.leaveReset_pending _
  · rfl

theorem tapLoad_completes (i : TapInstr) : Completes (tapLoad i) := by
  refine completes_next fun s => ?_
  split
  · exact State.leaveReset_pending _
  · rfl

theorem execEnergy_completes : Completes execEnergy := by
  refine completes_next fun s => ?_
  split <;> rfl

theorem execPowerOnHour_completes : Completes execPowerOnHour := by
  refine completes_next fun s => ?_
  split <;> rfl

/-- The commands that act whether the logic runs or not. -/
theorem completes_sideband (i : Instr) (hi : sideband i = true) : Completes (exec i) := by
  cases i with
  | inputInRange | inputStop | railPowerGood | modRstNAssert | refclkLoss => exact completes_next fun _ => rfl
  | ident | status | tripCause | vin | iin | pin | tj | tcase | rails | smbusWrite => exact completes_dev _
  | bypass | samplePreload | extest | extestPulse | extestTrain | trstNAssert => exact tapLoad_completes _
  | vinOut => exact execVinOut_completes
  | trip cause => exact execTrip_completes cause
  | resetRelease => exact execResetRelease_completes
  | energy => exact execEnergy_completes
  | powerOnHour => exact execPowerOnHour_completes
  | _ => exact Bool.noConfusion (show false = true from hi)

/-- Settles O6: a command of the sideband, a register write, or one that acts through onDev or onAll. -/
theorem everyCommandCompletes : Obligations.EveryCommandCompletes := by
  intro i s
  cases hi : sideband i with
  | true => exact completes_sideband i hi s
  | false =>
    obtain ⟨who, off, width, val, rfl⟩ | ⟨f, hf⟩ | ⟨f, hf⟩ := exec_shape i s hi
    · exact execRegisterWrite_completes off who width val s
    · exact hf ▸ completes_onDev f s
    · exact hf ▸ completes_onAll f s

/-- Settles O5: onDev, onAll and REGISTER_WRITE do nothing in reset, and every command outside the sideband is one of them. -/
theorem resetHoldsEveryCommand : Obligations.ResetHoldsEveryCommand := by
  intro i s hr hi
  have hreset : s.ctl.power.running = false := Bool.eq_false_iff.mpr hr
  obtain ⟨who, off, width, val, rfl⟩ | ⟨f, hf⟩ | ⟨f, hf⟩ := exec_shape i s hi
  · exact execRegisterWrite_reset who off width val s hreset
  · exact hf.trans (onDev_reset s f hreset)
  · exact hf.trans (onAll_reset s f hreset)

/-- Settles O1: a step on a queue that is not empty is that branch of `step`. -/
theorem stepRunsFrontCommand : Obligations.StepRunsFrontCommand := by
  intro s i rest h
  rw [step, h]

end Sys2Proof.Machine
end

section
/-! SUPPORT. The supply, the pins, the sideband controller, the test port and the governor (R436, R489 to R496, R502 to R506). -/

namespace Sys2Proof.Machine
open Sys2Proof.Claims

/-! ### Supply and reset (R436, R491, R503) -/

/-- The first rail that is not good follows the good ones. -/
theorem findIdx_not_replicate (a : Nat) (b : List Bool) : findIdx (fun x => !x) (List.replicate a true ++ false :: b) = some a := by
  induction a with
  | zero => rfl
  | succ a ih => simp [List.replicate_succ, findIdx, ih]

/-- The rail after the good ones turns good. -/
theorem modNth_true_replicate (a : Nat) (b : List Bool) :
    modNth (fun _ => true) a (List.replicate a true ++ false :: b) = List.replicate a true ++ true :: b := by
  induction a with
  | zero => rfl
  | succ a ih => simp [List.replicate_succ, modNth, ih]

/-- The rails after a trip: two that may stay and four that are off (R491). -/
theorem exists_eq_tripRails {l : List Bool} (hl : l.length = 6) (cause : TripCause) :
    ∃ a b, tripRails cause l = a :: b :: List.replicate 4 false := by
  match l, hl with
  | a :: b :: _, _ =>
    cases cause with
    | railFault r => fin_cases r <;> exact ⟨_, _, rfl⟩
    | _ => exact ⟨a, b, rfl⟩

theorem take_tripRails {cause : TripCause} (l : List Bool) (hc : ∀ r, cause ≠ .railFault r) (hl : l.length = 6) :
    (tripRails cause l).take 2 = l.take 2 := by
  have htake : (l.take 2 ++ List.replicate 4 false).take 2 = l.take 2 := List.take_left' (by simp [hl])
  cases cause with
  | railFault r => exact absurd rfl (hc r)
  | _ => exact htake

theorem nth_tripRails_railFault {l : List Bool} (hl : l.length = 6) (r : Fin 6) : nth true (tripRails (.railFault r) l) r = false :=
  nth_modNth_self _ _ _ _ (by simp [hl])

theorem exec_trip_of_can {cause : TripCause} {s : State} (h : tripCan cause s.ctl.power = true) :
    exec (.trip cause) s = .next (s.holdInReset.updPower (fun p => { p with rails := tripRails cause p.rails, trip := cause.code })) := by
  rw [exec, execTrip, if_pos h]

/-- The logic leaves reset where nothing keeps it there. -/
theorem State.leaveReset_of_mayRun {s : State} (hmay : s.ctl.power.mayRun = true) (hrun : s.ctl.power.running = false) :
    s.leaveReset = { s with
      dev := s.dev.free.1
      ctl := { s.ctl with power := { s.ctl.power with running := true, energy := s.ctl.power.energy + s.dev.free.2.toNat } } } := by
  simp [State.leaveReset, hrun, hmay]

theorem State.leaveReset_of_running {s : State} (h : s.ctl.power.running = true) : s.leaveReset = s := by simp [State.leaveReset, h]

theorem State.leaveReset_of_held {s : State} (h : s.ctl.power.mayRun = false) : s.leaveReset = s := by simp [State.leaveReset, h]

/-- Settles O54: each event is one update of the supply, of the state in reset where the logic stops. -/
theorem supplyAndReset : Obligations.SupplyAndReset := by
  intro s mv
  refine ⟨⟨_, rfl, rfl, rfl, rfl, rfl⟩, fun i hi => ?holds, ?vin, fun a b hrails hin htrip => ?rail, fun cause hlegal hcan => ?trip,
    fun hgood htrip htap hrun => ?release⟩
  case holds =>
    simp only [List.mem_cons, List.not_mem_nil, or_false] at hi
    obtain rfl | rfl | rfl := hi
    · exact ⟨_, rfl, rfl, rfl, rfl, rfl, rfl, rfl, rfl, rfl, fun _ => ⟨rfl, rfl, rfl⟩, nofun, nofun⟩
    · exact ⟨_, rfl, rfl, rfl, rfl, rfl, rfl, rfl, rfl, rfl, nofun, fun _ => ⟨rfl, rfl⟩, nofun⟩
    · exact ⟨_, rfl, rfl, rfl, rfl, rfl, rfl, rfl, rfl, rfl, nofun, nofun, fun _ => ⟨rfl, rfl⟩⟩
  case vin => cases hrun : s.ctl.power.running <;> simp [exec, execVinOut, hrun]
  case rail =>
    refine ⟨_, rfl, ?_, rfl⟩
    simp [hin, htrip, hrails, findIdx_not_replicate, modNth_true_replicate]
  case trip =>
    obtain ⟨-, -, hlen, -, -⟩ := hlegal
    obtain ⟨a, b, hrails⟩ := exists_eq_tripRails hlen cause
    refine ⟨_, exec_trip_of_can hcan, rfl, rfl, congrArg (List.drop 2) hrails, rfl, rfl, fun hc => take_tripRails _ hc hlen, fun r hc => ?_⟩
    subst hc
    exact nth_tripRails_railFault hlen r
  case release =>
    have hmay : (s.updPower (fun p => { p with rstN := true, refclk := true })).ctl.power.mayRun = true :=
      Power.mayRun_iff.mpr ⟨hgood, htrip, rfl, rfl, htap⟩
    have hexec : exec .resetRelease s = .next (s.updPower (fun p => { p with rstN := true, refclk := true })).leaveReset := by
      simp [exec, execResetRelease, hgood, htrip]
    rw [State.leaveReset_of_mayRun hmay hrun] at hexec
    exact ⟨_, hexec, rfl, rfl, rfl, rfl⟩

/-! ### The sideband controller and the test port (R505, R506) -/

/-- A read answers its value in n bytes. -/
theorem smbRead_of_aux {s : State} {n x : Nat} (v : Power → Dev → Nat) (ha : s.ctl.power.aux = true) (hv : v s.ctl.power s.dev % 2 ^ (8 * n) = x) :
    smbRead s n v = .next { s with dev := { s.dev with reply := { data := x, bytes := toLe n x } } } := by
  rw [smbRead, if_pos ha, ← hv]

/-- A reading as wide as its answer is answered as it is. -/
theorem smbRead_of_reading {s : State} {n : Nat} (ha : s.ctl.power.aux = true) (m : BitVec (8 * n)) :
    smbRead s n (fun _ _ => m.toNat) = .next { s with dev := { s.dev with reply := { data := m.toNat, bytes := toLe n m.toNat } } } :=
  smbRead_of_aux _ ha (Nat.mod_eq_of_lt m.isLt)

theorem tapLoad_of_running {s : State} (ha : s.ctl.power.aux = true) (hr : Runs s) (i : TapInstr) :
    tapLoad i s = .next (s.updPower (fun p => { p with tap := if i.holds && p.rstN then .bypass else i })) := by
  rw [tapLoad, if_pos ha]
  exact congrArg _ (State.leaveReset_of_running hr)

theorem tapLoad_of_rstLow {s : State} (ha : s.ctl.power.aux = true) (hlow : s.ctl.power.rstN = false) (i : TapInstr) :
    tapLoad i s = .next (s.updPower (fun p => { p with tap := i })) := by
  rw [tapLoad, if_pos ha, State.leaveReset_of_held]
  · simp [State.updPower, hlow]
  · simp [Power.mayRun, hlow]

/-- Settles O55: each read by the value that it answers, each instruction by the pin MOD_RST_N. -/
theorem sidebandAndTestPort : Obligations.SidebandAndTestPort := by
  intro s ha
  refine ⟨fun i n x hi => ?reads, fun m i hi => ?words, fun m i hi => ?bytes, fun hr => ?energy, fun code => rfl,
    fun hr => ⟨fun i hi => ?bypass, tapLoad_of_running ha hr .samplePreload, fun hhigh i hi => ?high⟩, fun _ hlow i x hi => ?low⟩
  case energy =>
    have hexec : exec .energy s = smbRead s 8 (fun p _ => (p.energy + if p.running then 0 else s.dev.free.2.toNat) / 1000000) := by
      simp only [exec, execEnergy, hr, if_true]
    exact hexec.trans (smbRead_of_aux _ ha (by simp [hr]))
  all_goals simp only [List.mem_cons, List.not_mem_nil, or_false, Prod.mk.injEq] at hi
  case reads =>
    obtain ⟨rfl, rfl, rfl⟩ | ⟨rfl, rfl, rfl⟩ | ⟨rfl, rfl, rfl⟩ | ⟨rfl, rfl, rfl⟩ := hi
    · exact smbRead_of_aux (fun _ _ => buId) ha rfl
    · exact smbRead_of_aux (fun p _ => p.statusWord) ha rfl
    · exact smbRead_of_aux (fun p _ => p.trip) ha rfl
    · exact smbRead_of_aux (fun p _ => maskOf ((List.range 6).filter (fun r => nth false p.rails r))) ha rfl
  case words => obtain rfl | rfl | rfl := hi <;> exact smbRead_of_reading (n := 2) ha m
  case bytes => obtain rfl | rfl := hi <;> exact smbRead_of_reading (n := 1) ha m
  case bypass => obtain rfl | rfl := hi <;> exact tapLoad_of_running ha hr .bypass
  case high =>
    have hload {x : TapInstr} (hx : x.holds = true) :
        tapLoad x s = .next { s with ctl := { s.ctl with power := { s.ctl.power with tap := .bypass } } } := by
      rw [tapLoad_of_running ha hr]
      simp [State.updPower, hx, hhigh]
    obtain rfl | rfl | rfl := hi
    · exact hload (x := .extest) rfl
    · exact hload (x := .extestPulse) rfl
    · exact hload (x := .extestTrain) rfl
  case low => obtain ⟨rfl, rfl⟩ | ⟨rfl, rfl⟩ | ⟨rfl, rfl⟩ := hi <;> exact tapLoad_of_rstLow ha hlow _

/-! ### The governor (R493 to R496) -/

/-- A facet held at 16 may start nothing in any window (R495). -/
theorem Dev.permits_of_held {d : Dev} {f : Nat} (h : 16 ≤ (nth ({} : GovFacet) d.gov f).effective) : d.permits f = false := by
  simp [Dev.permits, Nat.sub_eq_zero_of_le h]

/-- Settles O59: the sample and the window boundary are their commands; a facet held at 16 has no window. -/
theorem governorSamplesAndWindows : Obligations.GovernorSamplesAndWindows := by
  intro s sample hr
  refine ⟨leavesBoth_of_onAll hr (by rw [exec, execGovernorSample]) (by simp), leaves_of_onDev hr (by rw [exec, execGovernorWindow]) ?window,
    fun f _ h => Dev.permits_of_held h⟩
  case window => by_cases h : (s.dev.window + 1) % 16 = 0 <;> simp [h]

/-- Under thermal hold a sample counts as over, whatever it measures (R496). -/
theorem level_govFacetStep_of_hold (c : Ctl) (g : GovFacet) (p : Frac) (share : Nat) :
    (govFacetStep c true g p share).1.level = min 16 (g.level + 1) := by
  simp [govFacetStep]

theorem Dev.gov_raise_ite (d : Dev) (p : Bool) (off i cnt : Nat) : (if p then d.raise off i cnt else d).gov = d.gov := by
  cases p <;> rfl

/-- A facet's account of a sample is the step of its governor state; its flags leave that as it is. -/
theorem Dev.gov_govFacet (c : Ctl) (x : PowerSample) (d : Dev) (f share : Nat) :
    (d.govFacet c x f share).gov =
      modNth (fun _ => (govFacetStep c c.power.thermalHold (nth {} d.gov f) (govPower c x f share) share).1) f d.gov := by
  simp only [Dev.govFacet, Dev.gov_raise_ite]

/-- Settles O60: each temperature by the command's condition; the hold level by the step of one facet's account. -/
theorem thermalHold : Obligations.ThermalHold := by
  intro s tj tcase hr
  refine ⟨fun hoff => ⟨fun hhot => ?starts, fun hcool => ?stays⟩,
    fun hon => ⟨fun hcool => ?ends, fun hwarm => ?lasts, fun d x f share hf => ?level⟩⟩
  case starts => exact leavesBoth_of_onAll hr (by rw [exec, execThermalHoldStart]) (by simp [hoff, hhot])
  case stays =>
    obtain ⟨hj, hc⟩ := not_or.mp hcool
    exact leavesBoth_of_onAll hr (by rw [exec, execThermalHoldStart]) (by simp [hoff, hj, hc])
  case ends => exact leavesBoth_of_onAll hr (by rw [exec, execThermalHoldEnd]) (by simp [hon, hcool])
  case lasts => exact leavesBoth_of_onAll hr (by rw [exec, execThermalHoldEnd]) (by simp [hon, hwarm])
  case level => rw [Dev.gov_govFacet, nth_modNth_self _ _ _ _ hf, hon, level_govFacetStep_of_hold]

end Sys2Proof.Machine
end

section
/-! SUPPORT. The torus ports and the router (R389 to R403): a packet that arrives while no other waits, and what it leaves the router to do. -/

namespace Sys2Proof.Machine
open Sys2Proof.Claims

/-! ### The router with at most one packet (R392, R397, R399) -/

/-- No packet waits, so no port sends. -/
theorem Dev.routeOne_of_empty {c : Ctl} {d : Dev} (h : d.waiting = []) : d.routeOne c = none := by
  simp [Dev.routeOne, h, headsFrom, Dev.sendNext, Dev.nextOn, firstOf]

theorem Dev.routeN_of_stuck {c : Ctl} {d : Dev} (h : d.routeOne c = none) (n : Nat) : Dev.routeN c n d = d := by
  cases n with
  | zero => rfl
  | succ n => rw [Dev.routeN, h]

/-- One act, after which nothing waits. -/
theorem Dev.routeN_of_last {c : Ctl} {d d' : Dev} (h : d.routeOne c = some d') (he : d'.waiting = []) (n : Nat) : Dev.routeN c (n + 1) d = d' := by
  simp only [Dev.routeN, h, Dev.routeN_of_stuck (Dev.routeOne_of_empty he)]

/-- A search that only one element can answer. -/
theorem findSome?_of_unique {α β : Type} {f : α → Option β} {l : List α} {x : α} (hx : x ∈ l) (h : ∀ y ∈ l, y ≠ x → f y = none) :
    l.findSome? f = f x := by
  induction l with
  | nil => exact absurd hx List.not_mem_nil
  | cons a l ih =>
    rw [List.findSome?_cons]
    by_cases ha : a = x
    · subst ha
      cases hf : f a with
      | some b => rfl
      | none =>
        refine List.findSome?_eq_none_iff.mpr fun y hy => ?_
        by_cases hya : y = a
        · rw [hya, hf]
        · exact h y (List.mem_cons_of_mem a hy) hya
    · rw [h a List.mem_cons_self ha]
      exact ih ((List.mem_cons.mp hx).resolve_left (Ne.symm ha)) fun y hy => h y (List.mem_cons_of_mem a hy)

/-- The state with one packet that waits. -/
def Dev.holding (d : Dev) (w : Waiting) : Dev := { d with waiting := [w] }

@[simp] theorem Dev.holding_waiting (d : Dev) (w : Waiting) : (d.holding w).waiting = [w] := rfl
@[simp] theorem Dev.holding_ltc (d : Dev) (w : Waiting) : (d.holding w).ltc = d.ltc := rfl
@[simp] theorem Dev.holding_portUp (d : Dev) (w : Waiting) (p : Nat) : (d.holding w).portUp p = d.portUp p := rfl
@[simp] theorem Dev.holding_credits (d : Dev) (w : Waiting) (q : Nat) (cls : PktClass) (vc : Nat) :
    (d.holding w).credits q cls vc = d.credits q cls vc := rfl

section Single
variable {c : Ctl} {d : Dev} {w : Waiting} {q : Nat}

/-- A packet that waits alone leaves nothing behind but its credits (R399). -/
theorem Dev.unbuffer_holding (hnone : d.waiting = []) (hin : w.inp ≠ 7) :
    (d.holding w).unbuffer w = d.emit (.credit w.inp w.pkt.cls w.pkt.vc w.pkt.flits) := by
  cases d
  cases hnone
  simp [Dev.unbuffer, Dev.holding, hin]

/-- The only packet that waits is for this module: it is delivered. -/
theorem Dev.routeN_holding_of_here {b : RemoteBody} (hnone : d.waiting = []) (hin : w.inp ≠ 7) (hexit : c.exitOf w = none)
    (hbody : w.pkt.body = .remote b) (n : Nat) :
    Dev.routeN c (n + 1) (d.holding w) =
      { (d.emit (.credit w.inp w.pkt.cls w.pkt.vc w.pkt.flits)).count (baseMF + 0x1044) 1 with inbox := d.inbox ++ [(w.inp, w.pkt.src, b)] } := by
  have hact : (d.holding w).routeOne c = some ((((d.holding w).unbuffer w).count (baseMF + 0x1044) 1).deliver c w.inp w.pkt) := by
    simp [Dev.routeOne, headsFrom, hexit]
  rw [Dev.unbuffer_holding hnone hin, Dev.deliver, hbody] at hact
  exact Dev.routeN_of_last hact hnone n

section Port
variable (hexit : c.exitOf w = some q) (hq : q < 7) (hup : d.portUp q = true)
include hexit hq hup

/-- The port of the only packet that waits is UP: that port alone may send, where it has credits for every flit. -/
theorem Dev.routeOne_holding :
    (d.holding w).routeOne c = if w.pkt.flits ≤ d.credits q w.pkt.cls (c.leaving d.ltc w q).vc then
      some ((((d.holding w).unbuffer w).count (baseMF + (if w.inp = 7 then 0x1048 else 0x1040)) 1).sendOn q (c.leaving d.ltc w q)) else none := by
  have hsend : (d.holding w).routeOne c = (List.range 7).findSome? ((d.holding w).sendNext c) := by
    simp [Dev.routeOne, headsFrom, hexit, hup]
  have hothers : ∀ x ∈ List.range 7, x ≠ q → (d.holding w).sendNext c x = none := fun x _ hx => by
    simp [Dev.sendNext, Dev.nextOn, headsFrom, hexit, firstOf, hx.symm]
  rw [hsend, findSome?_of_unique (List.mem_range.mpr hq) hothers]
  split <;> simp [Dev.sendNext, Dev.nextOn, headsFrom, firstOf, *]

theorem Dev.routeN_holding_of_credits (hnone : d.waiting = []) (hin : w.inp ≠ 7) (h : w.pkt.flits ≤ d.credits q w.pkt.cls (c.leaving d.ltc w q).vc)
    (n : Nat) :
    Dev.routeN c (n + 1) (d.holding w) =
      ((d.emit (.credit w.inp w.pkt.cls w.pkt.vc w.pkt.flits)).count (baseMF + 0x1040) 1).sendOn q (c.leaving d.ltc w q) := by
  have hact := Dev.routeOne_holding hexit hq hup
  rw [if_pos h, if_neg hin, Dev.unbuffer_holding hnone hin] at hact
  exact Dev.routeN_of_last hact hnone n

theorem Dev.routeN_holding_of_noCredits (h : d.credits q w.pkt.cls (c.leaving d.ltc w q).vc < w.pkt.flits) (n : Nat) :
    Dev.routeN c n (d.holding w) = d.holding w := by
  have hact := Dev.routeOne_holding hexit hq hup
  rw [if_neg (Nat.not_le_of_lt h)] at hact
  exact Dev.routeN_of_stuck hact n

end Port
end Single

/-! ### Packets that arrive on a torus port (R393, R397, R399) -/

theorem Ctl.exitOf_torus (c : Ctl) {p : Fin 7} (hp : p.val ≠ 6) (now : Nat) (pkt : Packet) :
    c.exitOf { inp := p, since := now, pkt := pkt } = c.nextPort pkt.dst := by
  simp [Ctl.exitOf, hp, Nat.ne_of_lt p.isLt]

section Arrival
variable {s : State} {p : Fin 7} {pkt : Packet} (hr : Runs s) (hp : p.val ≠ 6) (hup : s.dev.portUp p = true)
include hr hp hup

theorem leaves_of_packetOutside (hout : s.ctl.inTorus pkt.dst = false) :
    Leaves (.packetArrival p pkt) s
      (((s.dev.count (basePort p + 0x44) pkt.flits).emit (.credit p pkt.cls pkt.vc pkt.flits)).raise (baseMF + 0x1000) 0 (baseMF + 0x1004)) :=
  leaves_of_onDev hr (by rw [exec, execPacketArrival]) (by simp [hup, hp, hout])

/-- A packet that arrives while no other waits is left to the router. -/
theorem leaves_of_packetAlone {d : Dev} (hin : s.ctl.inTorus pkt.dst = true) (hnone : s.dev.waiting = [])
    (hd : Dev.routeN s.ctl 4 ((s.dev.count (basePort p + 0x44) pkt.flits).holding { inp := p, since := s.dev.ltc, pkt := pkt }) = d) :
    Leaves (.packetArrival p pkt) s d := by
  refine leaves_of_onDev hr (by rw [exec, execPacketArrival]) ?_
  simp only [hup, hin, if_neg hp, Bool.not_true, Bool.false_eq_true, if_false, Dev.runRouter, Dev.count_waiting, hnone, List.nil_append]
  exact hd

end Arrival

/-- Settles O51: each clause's conditions choose one branch of its command; a packet that arrives alone goes as far as its route and its port's credits
let the router take it. -/
theorem fabricEvents : Obligations.FabricEvents := by
  intro s fn p t hr
  refine ⟨fun htrain => ⟨fun hlanes => ?trained, ?failed, ?lanes⟩,
    fun peer htrain => ⟨fun hlanes => ?early, fun hlanes => ⟨fun hid => ?up, fun hid => ?mismatch⟩⟩, fun hlive => ?replay,
    fun hdown => ⟨?timer, fun hg => ?retrain⟩,
    fun pkt hp hup => ⟨leaves_of_packetOutside hr hp hup, fun hin hnone => ⟨fun b hhere hbody => ?here, fun q hnext hq => ⟨fun hcred => ?goes,
      fun hcred => ?waits⟩⟩⟩,
    fun port src id e hbox hopen hwrite hquar => ?acked, fun port src id hbox hopen => ?late⟩
  case trained => exact leaves_of_onDev hr (by rw [exec, execPortLanesTrained]) (by simp [htrain, hlanes])
  case failed => exact leaves_of_onDev hr (by rw [exec, execPortTrainingFailed]) (by simp [htrain])
  case lanes => exact leaves_of_onDev hr (by rw [exec, execLaneFailure]) (by simp [htrain])
  case early => exact leaves_of_onDev hr (by rw [exec, execIdentityFlitArrival]) (by simp [hlanes])
  case up => exact leaves_of_onDev hr (by rw [exec, execIdentityFlitArrival]) (by simp [htrain, hlanes, hid])
  case mismatch => exact leaves_of_onDev hr (by rw [exec, execIdentityFlitArrival]) (by simp [htrain, hlanes, hid])
  case replay => exact leaves_of_onDev hr (by rw [exec, execReplayFailure]) (by simp [hlive])
  case timer => exact leaves_of_onDev hr (by rw [exec, execPortRetrainTimer]) (by simp [Dev.retrain, hdown])
  case retrain =>
    exact leaves_of_onDev hr (by rw [exec, execRetrain]) (by rw [hostWrite_admitted _ _ _ _ _ _ hg]; simp [Dev.retrain, hdown])
  case here =>
    exact leaves_of_packetAlone hr hp hup hin hnone
      (Dev.routeN_holding_of_here (d := s.dev.count _ _) hnone (Nat.ne_of_lt p.isLt) ((s.ctl.exitOf_torus hp _ pkt).trans hhere) hbody 3)
  case goes =>
    exact leaves_of_packetAlone hr hp hup hin hnone
      (Dev.routeN_holding_of_credits (d := s.dev.count _ _) ((s.ctl.exitOf_torus hp _ pkt).trans hnext) q.isLt hq hnone (Nat.ne_of_lt p.isLt) hcred 3)
  case waits =>
    exact leaves_of_packetAlone hr hp hup hin hnone
      (Dev.routeN_holding_of_noCredits (d := s.dev.count _ _) ((s.ctl.exitOf_torus hp _ pkt).trans hnext) q.isLt hq hcred 4)
  case acked =>
    have hfound : Dev.extOpen { s.dev with inbox := [] } id false = some e := hopen
    have hheld : Dev.extQuarantined { s.dev with inbox := [] } e = false := hquar
    exact leaves_of_onDev hr (by rw [exec, execRemoteResponseArrival]) (by simp [hbox, findIdx, hfound, hwrite, hheld])
  case late =>
    have hended : Dev.extOpen { s.dev with inbox := [] } id false = none := hopen
    exact leaves_of_onDev hr (by rw [exec, execRemoteResponseArrival]) (by simp [hbox, findIdx, hended])

end Sys2Proof.Machine
end

section
/-! SUPPORT. The twin and mirroring (R405 to R412): each command where a statement's conditions choose its branch. -/

namespace Sys2Proof.Machine
open Sys2Proof.Claims

@[simp] theorem Dev.mirror_twinTakes (d : Dev) (cls : PktClass) (payload f : Nat) : (d.twinTakes cls payload).mirror f = d.mirror f := rfl

@[simp] theorem Dev.flag_updMirror (d : Dev) (x off i : Nat) (g : Mirror → Mirror) : (d.updMirror x g).flag off i = d.flag off i := rfl

/-- PAIRED is entered (R406). -/
theorem Dev.pairs_of_unpaired {d : Dev} (h : d.twin.state ≠ 2) :
    d.pairs = ((d.portGoesUp 6).updTwin (fun w => { w with
      state := 2, heard := false, mirrors := w.mirrors.map (fun m => { m with restarted := false }) })).raise baseTW 0 (baseTW + 0x20) :=
  if_neg h

section Config
variable {c : Ctl} {d : Dev} {fn f word val : Nat} (hg : (checkWrite c d fn (baseMirror f + 4 * word) 4).2 = true) (hword : word ≠ 0)
include hg hword

/-- The ring of an enabled mirror is locked (R407). -/
theorem twMirrorCfgWrite_of_locked (hon : d.flag (baseMirror f) 31 = true) :
    twMirrorCfgWrite c d fn f word val = dropWrite d 4 fn (baseMirror f + 4 * word) := by
  simp [twMirrorCfgWrite, hostWrite_admitted _ _ _ _ _ _ hg, hon, hword]

/-- The ring of a mirror that is off takes its place. -/
theorem twMirrorCfgWrite_of_off (hoff : d.flag (baseMirror f) 31 = false) (hsync : word ≠ 3) :
    twMirrorCfgWrite c d fn f word val = writeFields d (baseMirror f + 4 * word) val := by
  simp [twMirrorCfgWrite, hostWrite_admitted _ _ _ _ _ _ hg, hoff, hword, hsync]

end Config

/-- Settles O52: each clause's conditions choose one branch of its command. -/
theorem twinAndMirror : Obligations.TwinAndMirror := by
  intro s fn f val hr
  refine ⟨fun t peer htwin hen htrain => ⟨fun hlanes => ?early, fun hlanes => ⟨fun hgood hstate => ?pairs, fun hbad => ?mismatch⟩⟩,
    fun hpaired => ?lost,
    fun hpaired => ⟨?send, fun applied hheard => ?heartbeat, fun r d1 b z hdue hheard hnext => ?record, fun part hpart => ?arrives,
      fun seq status hacks hsync => ?acked, fun seq status hacks => ?stale⟩,
    fun word hg hword => ⟨fun hon => ?locked, fun hoff hword3 => ?config⟩, fun hg => ?restart⟩
  case early => exact leaves_of_onDev hr (by rw [exec, execTwinPairing]) (by simp [htwin, hlanes])
  case pairs =>
    refine leaves_of_onDev hr (by rw [exec, execTwinPairing]) ?_
    simp only [htwin, hen, htrain, hlanes, hgood]
    exact Dev.pairs_of_unpaired hstate
  case mismatch => exact leaves_of_onDev hr (by rw [exec, execTwinPairing]) (by simp [htwin, hen, htrain, hlanes, hbad])
  case lost =>
    have hready : s.dev.portReady 6 = s.dev.portUp 6 := by simp [Dev.portReady, hpaired]
    exact leaves_of_onDev hr (by rw [exec, execPartnerLost]) (by simp [hpaired, hready, Dev.readyLost])
  case send => exact leaves_of_onDev hr (by rw [exec, execHeartbeatSend]) (by simp [hpaired])
  case heartbeat => exact leaves_of_onDev hr (by rw [exec, execHeartbeatArrival]) (by simp [hpaired, hheard])
  case record =>
    intro m n hread
    refine leaves_of_onDev hr (by rw [exec, execMirrorRecordSend]) ?_
    simp only [m, n] at hread ⊢
    simp [hpaired, hdue, hheard, hnext, hread]
  case arrives => exact leaves_of_onDev hr (by rw [exec, execMirrorRecordArrival]) (by simp [hpaired, hpart])
  case acked => exact leaves_of_onDev hr (by rw [exec, execMirrorAckArrival]) (by simp [hpaired, hacks, hsync])
  case stale => exact leaves_of_onDev hr (by rw [exec, execMirrorAckArrival]) (by simp [hpaired, hacks])
  case locked => exact leaves_of_onDev hr (by rw [exec, execTwMirrorCfgWrite]) (twMirrorCfgWrite_of_locked hg (Fin.val_ne_of_ne hword) hon)
  case config =>
    exact leaves_of_onDev hr (by rw [exec, execTwMirrorCfgWrite])
      (twMirrorCfgWrite_of_off hg (Fin.val_ne_of_ne hword) hoff (Fin.val_ne_of_ne hword3))
  case restart => exact leaves_of_onDev hr (by rw [exec, execRestart]) (hostWrite_admitted _ _ _ _ _ _ hg)

end Sys2Proof.Machine
end

section
/-! SUPPORT. The host link (R415 to R434): a link loss that finds nothing outstanding, accesses of an aperture within one granule, attach. -/

namespace Sys2Proof.Machine
open Sys2Proof.Claims

/-! ### Link loss (R424, R428) -/

/-- With nothing outstanding, a lost link leaves the port DETACHED and no more. -/
theorem Dev.linkLoss_of_idle {c : Ctl} {d : Dev} (hext : d.hl.ext = []) (hatt : d.attached = false) (hflush : d.hl.flush = none)
    (hback : ∀ x ∈ d.chans, x.2.readback = false) : d.linkLoss c = d.updHl (fun h => { h with state := 0 }) := by
  have hleave : d.leave 0 = d.updHl (fun h => { h with state := 0 }) := by simp [Dev.leave, hatt]
  have hflush' : (d.updHl (fun h => { h with state := 0 })).hl.flush.isSome = false := by simp [Dev.updHl, hflush]
  have hext' : (d.updHl (fun h => { h with state := 0 })).hl.ext = [] := hext
  rw [Dev.linkLoss, hleave]
  simp only [hflush', hext', Bool.false_eq_true, if_false, List.filter_nil, List.foldl_nil]
  refine List.foldlRecOn (motive := fun d' => d' = d.updHl (fun h => { h with state := 0 })) _ _ rfl fun d' hd' x hx => ?_
  cases x.2.record with
  | none => exact hd'
  | some r => simpa [hback x hx] using hd'

/-! ### Accesses of an aperture (R418) -/

/-- An access within one granule is one piece. -/
theorem pieceSpans_of_granule {pa n : Nat} (hn : 0 < n) (hfit : pa % 64 + n ≤ 64) : pieceSpans pa n = [(pa, n)] := by
  have hone : (pa + n - 1) / 64 + 1 - pa / 64 = 1 := by omega
  have hlo : max pa (pa / 64 * 64) = pa := by omega
  have hhi : min (pa + n) (pa / 64 * 64 + 64) - pa = n := by omega
  simp [pieceSpans, granules, Nat.ne_of_gt hn, hone, hlo, hhi]

section Aperture
variable {s : State} {fn : Fin 16} {rid : BitVec 16} {off len : Nat} (hr : Runs s) (hrid : s.dev.ridRefuses rid = false) (hpos : 0 < len)
  (hlen : len ≤ 4096) (hend : off + len ≤ 2 ^ 32)
include hr hrid hpos hlen hend

theorem leaves_of_apertureRead {ep : Bool} {d : Dev} {b : List PByte} {err : Bool}
    (h : apertureRead s.ctl s.dev fn (pieceSpans (s.dev.aperturePa fn off) len) = (d, b, err)) :
    Leaves (.apertureAccess { fn := fn, rid := rid } off len none ep) s
      { d with reply := { error := err, data := if anyPoison b then 1 else 0, bytes := plain b } } := by
  refine leaves_of_onDev hr (by rw [exec, execApertureAccess]) ?_
  have hok : ¬ (len = 0 || (4096 < len || 2 ^ 32 < off + len)) = true := by simp; omega
  simp only [hrid, if_neg hok, h]
  rfl

theorem leaves_of_apertureWrite {ep : Bool} {d : Dev} {b : List Byte} {err : Bool}
    (h : apertureWrite s.ctl s.dev fn (s.dev.aperturePa fn off) (marked ep (padTo len b)) (pieceSpans (s.dev.aperturePa fn off) len) = (d, err)) :
    Leaves (.apertureAccess { fn := fn, rid := rid } off len (some b) ep) s (if err then { d with reply := { error := true } } else d) := by
  refine leaves_of_onDev hr (by rw [exec, execApertureAccess]) ?_
  have hok : ¬ (len = 0 || (4096 < len || 2 ^ 32 < off + len)) = true := by simp; omega
  simp only [hrid, if_neg hok, h]
  rfl

end Aperture

/-- A function's access is granted by its register and the Trail Map's access entry, and lies in the facet's HBM. -/
theorem apertureFault_of_granted {c : Ctl} {d : Dev} {fn a n : Nat} {e : HostAccess} (hon : d.flag (baseHL + 0x100 + 4 * fn) 31 = true)
    (he : c.tm.access.find? (fun e => e.fn == fn) = some e) (hbit : bit e.facets (d.apertureFacet fn) = true)
    (hin : c.inHbm (d.apertureFacet fn) a n = true) : apertureFault c d fn a n = none := by
  simp [apertureFault, hon, he, hbit, hin]

theorem apertureFault_of_off {c : Ctl} {d : Dev} {fn a n : Nat} (hoff : d.flag (baseHL + 0x100 + 4 * fn) 31 = false) :
    apertureFault c d fn a n = some 2 := by
  simp [apertureFault, hoff]

section Piece
variable {c : Ctl} {d : Dev} {fn a : Nat}

theorem apertureRead_of_piece {n : Nat} {d1 : Dev} {b : List PByte} {e : Bool} (h : apertureFault c d fn a n = none)
    (hread : Dev.paRead c d (whoHost fn (d.apertureFacet fn)) a n 0 false = (d1, b, e)) : apertureRead c d fn [(a, n)] = (d1, b, false) := by
  simp [apertureRead, h, hread]

theorem apertureRead_of_refused {n kind : Nat} (h : apertureFault c d fn a n = some kind) :
    apertureRead c d fn [(a, n)] = (apertureRefused d fn kind a, [], true) := by
  simp [apertureRead, h]

theorem apertureWrite_of_piece {b : List PByte} (h : apertureFault c d fn a b.length = none) :
    apertureWrite c d fn a b [(a, b.length)] = ((Dev.paWrite c d (whoHost fn (d.apertureFacet fn)) a b 0 false).1, false) := by
  simp [apertureWrite, h]

theorem apertureWrite_of_refused {n kind : Nat} {b : List PByte} (h : apertureFault c d fn a n = some kind) :
    apertureWrite c d fn a b [(a, n)] = (apertureRefused d fn kind a, true) := by
  simp [apertureWrite, h]

end Piece

/-! ### Attach (R428, R430) -/

/-- Only a port that leaves ATTACHED begins another session. -/
theorem Dev.leave_hl (d : Dev) (n : Nat) :
    (d.leave n).hl = { d.hl with state := n, session := if d.hl.state = 2 then w32 (d.hl.session + 1) else d.hl.session } := by
  by_cases h : d.hl.state = 2 <;> simp [Dev.leave, Dev.attached, h, Dev.updHl]

@[simp] theorem Dev.leave_mem (d : Dev) (n : Nat) : (d.leave n).mem = d.mem := by
  cases h : d.attached <;> simp [Dev.leave, h]

@[simp] theorem Dev.leave_cores (d : Dev) (n : Nat) : (d.leave n).cores = d.cores := by
  cases h : d.attached <;> simp [Dev.leave, h]

section Attach
variable {s : State} {fn : Fin 16} (hr : Runs s) (hg : Grants s fn (baseHL + 8) 4)
include hr hg

/-- An accepted request begins a session, once, whatever the state that it leaves. -/
theorem exec_request_of_granted (token : BitVec 16) : ∃ t, exec (.request fn token) s = .next t ∧
    t.dev.hl = { s.dev.hl with state := 1, fn := fn, echo := token.toNat, session := w32 (s.dev.hl.session + 1) } ∧ t.dev.mem = s.dev.mem ∧
    t.dev.cores = s.dev.cores := by
  refine ⟨_, leaves_of_onDev hr (by rw [exec, execRequest]) (hostWrite_admitted _ _ _ _ _ _ hg), ?_, ?_, ?_⟩
  · by_cases h : s.dev.hl.state = 2 <;> simp [Dev.updHl, Dev.leave_hl, Dev.attached, h]
  · simp
  · simp

theorem exec_detach_of_granted : ∃ t, exec (.detach fn) s = .next t ∧
    t.dev.hl = { s.dev.hl with state := 0, session := if s.dev.hl.state = 2 then w32 (s.dev.hl.session + 1) else s.dev.hl.session } ∧
    t.dev.mem = s.dev.mem ∧ t.dev.cores = s.dev.cores :=
  ⟨_, leaves_of_onDev hr (by rw [exec, execDetach]) (hostWrite_admitted _ _ _ _ _ _ hg), Dev.leave_hl _ _, Dev.leave_mem _ _, Dev.leave_cores _ _⟩

end Attach

/-- Settles O53: each clause's conditions choose one branch of its command. -/
theorem hostLinkCommands : Obligations.HostLinkCommands := by
  intro s fn n val hr
  refine ⟨leaves_of_onDev hr (by rw [exec, execEklLinkUp]) rfl, leaves_of_onDev hr (by rw [exec, execPcieLinkUp]) rfl,
    leaves_of_onDev hr (by rw [exec, execFunctionLevelReset]) rfl, fun hext hatt hflush hback => ⟨?pcieDown, fun hup => ?eklDown⟩,
    fun hg => ⟨fun token => ?request, ?detach, fun hasked hfn => ?complete, fun hnone => ?early⟩, fun hg => ?rid,
    fun rid off len hrid hpos hlen hend => ?aperture, fun hatt hnone hun => ?flush, fun m hm => ?flushed,
    fun e he hw hquar => ⟨fun b ep => ?answer, ?failed, ?timeout⟩,
    fun src hpend hroute hatt => ⟨?message, ?masked⟩⟩
  case pcieDown =>
    refine leaves_of_onDev hr (by rw [exec, execPcieLinkDown]) ?_
    exact Dev.linkLoss_of_idle hext hatt hflush hback
  case eklDown =>
    refine leaves_of_onDev hr (by rw [exec, execEklLinkDown]) ?_
    rw [if_pos hup]
    exact congrArg Dev.readyLost (Dev.linkLoss_of_idle hext hatt hflush hback)
  case request =>
    obtain ⟨t, ht, hhl, hmem, hcores⟩ := exec_request_of_granted hr hg token
    refine ⟨t, ht, ?_⟩
    simp [hhl, hmem, hcores, w32]
  case detach =>
    obtain ⟨t, ht, hhl, hmem, hcores⟩ := exec_detach_of_granted hr hg
    refine ⟨t, ht, ?_⟩
    simp [hhl, hmem, hcores, w32]
  case complete => exact leaves_of_onDev hr (by rw [exec, execComplete]) (by simp [hostWrite_admitted _ _ _ _ _ _ hg, hasked, hfn, Dev.updHl])
  case early => exact leaves_of_onDev hr (by rw [exec, execComplete]) (by simp [hostWrite_admitted _ _ _ _ _ _ hg, hnone])
  case rid => exact leaves_of_onDev hr (by rw [exec, execHlHostRidWrite]) (hostWrite_admitted _ _ _ _ _ _ hg)
  case aperture =>
    intro who r f pa
    refine ⟨fun e hfit hon he hbit hin => ⟨fun b ep => ?_, fun d1 b e1 ep hread => ?_⟩, fun hfit hoff data ep => ?_,
      fun ep d1 b err => leaves_of_apertureRead hr hrid hpos hlen hend⟩
    · have hbytes : (marked ep (padTo len b)).length = len := by simp [marked, length_padTo]
      have hwrite := apertureWrite_of_piece (b := marked ep (padTo len b)) (hbytes.symm ▸ apertureFault_of_granted hon he hbit hin)
      rw [hbytes, ← pieceSpans_of_granule hpos hfit] at hwrite
      exact leaves_of_apertureWrite hr hrid hpos hlen hend hwrite
    · have hpiece := apertureRead_of_piece (apertureFault_of_granted hon he hbit hin) hread
      rw [← pieceSpans_of_granule hpos hfit] at hpiece
      exact leaves_of_apertureRead hr hrid hpos hlen hend hpiece
    · have hfault : apertureFault s.ctl s.dev fn pa len = some 2 := apertureFault_of_off hoff
      cases data with
      | none =>
        have hpiece := apertureRead_of_refused hfault
        rw [← pieceSpans_of_granule hpos hfit] at hpiece
        exact leaves_of_apertureRead hr hrid hpos hlen hend hpiece
      | some b =>
        have hwrite := apertureWrite_of_refused (b := marked ep (padTo len b)) hfault
        rw [← pieceSpans_of_granule hpos hfit] at hwrite
        exact leaves_of_apertureWrite hr hrid hpos hlen hend hwrite
  case flush => exact leaves_of_onDev hr (by rw [exec, execFlushReadIssue]) (by simp [hatt, hnone, hun])
  case flushed => exact leaves_of_onDev hr (by rw [exec, execFlushReadDone]) (by simp [hm])
  case answer => exact leaves_of_onDev hr (by rw [exec, execHostWindowReadResponse]) (by simp [he, hw, hquar])
  case failed => exact leaves_of_onDev hr (by rw [exec, execHostWindowReadResponse]) (by simp [he, hw, hquar])
  case timeout => exact leaves_of_onDev hr (by rw [exec, execCompletionTimeout]) (by simp [he, hw, hquar])
  case message => exact leaves_of_onDev hr (by rw [exec, execMsixMessage]) (by simp [hpend, hroute, hatt])
  case masked => exact leaves_of_onDev hr (by rw [exec, execMsixMessage]) (by simp)

end Sys2Proof.Machine
end

section
/-! SUPPORT. The violation log, quarantine, the Trip Log's modes and replay (R455 to R470): each command where a statement's conditions choose its
branch. -/

namespace Sys2Proof.Machine
open Sys2Proof.Claims

/-! ### Writes of TL_CH (R465) -/

section TlCh
variable {c : Ctl} {d : Dev} {fn ch val : Nat}

/-- While a channel records or replays, a write that does not set OFF is dropped and logged. -/
theorem tlChWrite_of_locked {high : Bool} (hg : (checkWrite c d fn (baseTlCh ch + (if high then 4 else 0)) 4).2 = true) (hmode : d.tripMode ch ≠ 0)
    (h : high = true ∨ bits val 31 30 ≠ 0) : tlChWrite c d fn ch high val = dropWrite d 4 fn (baseTlCh ch + (if high then 4 else 0)) := by
  simp [tlChWrite, hostWrite_admitted _ _ _ _ _ _ hg, hmode, h]

/-- The second word of a channel that is OFF is written. -/
theorem tlChWrite_of_base (hg : (checkWrite c d fn (baseTlCh ch + 4) 4).2 = true) (hmode : d.tripMode ch = 0) :
    tlChWrite c d fn ch true val = writeFields d (baseTlCh ch + 4) val := by
  simp [tlChWrite, hostWrite_admitted _ _ _ _ _ _ hg, hmode]

/-- A write that sets OFF is accepted in every mode. -/
theorem tlChWrite_of_off (hg : (checkWrite c d fn (baseTlCh ch) 4).2 = true) (hval : bits val 31 30 = 0) :
    tlChWrite c d fn ch false val = writeFields d (baseTlCh ch) val := by
  simp [tlChWrite, hostWrite_admitted _ _ _ _ _ _ hg, hval]

end TlCh

/-! ### Release of a quarantined core (R464) -/

/-- What an admitted release leaves: a quarantined core is being tested. -/
def Dev.releaseStarted (d : Dev) (core : Nat) : Dev :=
  (d.setFld (baseRG + 0x200) 6 0 core).updCore core (fun k =>
    if k.quar.phase = .quarantined then { k with quar := { k.quar with phase := .testing } } else k)

theorem leaves_of_release {s : State} {fn : Fin 16} {core : Fin 128} (hr : Runs s) (hg : Grants s fn (baseRG + 0x200) 4) :
    Leaves (.release fn core) s (s.dev.releaseStarted core) :=
  leaves_of_onDev hr (by rw [exec, execRelease]) (by rw [hostWrite_admitted _ _ _ _ _ _ hg, Dev.releaseStarted])

theorem Dev.core_releaseStarted {d : Dev} {core : Nat} (h : (d.core core).quar.phase = .quarantined) :
    (d.releaseStarted core).core core = { d.core core with quar := { (d.core core).quar with phase := .testing } } :=
  (Dev.core_updCore_self _ _ _).trans (if_pos h)

/-- A core at the end of its test: one that passed comes back cleared, one that failed stays as it was, quarantined. -/
def Core.tested (k : Core) (ok : Bool) : Core :=
  { (if ok then k.cleared else k) with quar := { k.quar with phase := if ok then .none else .quarantined } }

theorem exec_releaseBistEnd_of_testing {s : State} {core : Fin 128} (hr : Runs s) (htest : (s.dev.core core).quar.phase = .testing) (ok : Bool) :
    ∃ t, exec (.releaseBistEnd core ok) s = .next t ∧ t.dev.core core = (s.dev.core core).tested ok ∧ t.dev.mem = s.dev.mem := by
  have hexec : exec (.releaseBistEnd core ok) s = _ := leavesBoth_of_onAll hr (by rw [exec, execReleaseBistEnd]) (if_neg (not_not.mpr htest))
  exact ⟨_, hexec, s.dev.core_updCore_self core (fun k => k.tested ok), rfl⟩

/-- Settles O58: each clause's conditions choose one branch of its command. -/
theorem violationsQuarantineReplay : Obligations.ViolationsQuarantineReplay := by
  intro s fn f core ch val hr
  refine ⟨fun v rest hv => ?logged, fun hg => ⟨?quarantine, fun hquar => ?release⟩, leaves_of_onTasks hr (by rw [exec, execMachineCheck]) rfl,
    fun htest => ⟨?passed, ?failed⟩, fun high hg => ⟨fun hmode hlocked => ?locked, fun hhigh hmode => ?base, fun hhigh hval => ?off⟩,
    fun hg => ⟨fun hgo => ?go, fun hno => ?refused, ?stop⟩⟩
  case logged => exact leaves_of_onDev hr (by rw [exec, execViolationLogWrite]) (by simp [hv, w32])
  case quarantine => exact leaves_of_onTasks hr (by rw [exec, execQuarantine]) (hostWrite_admitted _ _ _ _ _ _ hg)
  case release =>
    have hcore := Dev.core_releaseStarted hquar
    exact ⟨_, leaves_of_release hr hg, congrArg (·.quar.phase) hcore, rfl, congrArg (·.store) hcore⟩
  case passed =>
    obtain ⟨t, ht, hcore, hmem⟩ := exec_releaseBistEnd_of_testing hr htest true
    exact ⟨t, ht, congrArg (·.quar.phase) hcore, congrArg (·.store) hcore, congrArg (·.tlb) hcore, hmem⟩
  case failed =>
    obtain ⟨t, ht, hcore, -⟩ := exec_releaseBistEnd_of_testing hr htest false
    exact ⟨t, ht, congrArg (·.quar.phase) hcore, congrArg (·.store) hcore⟩
  case locked => exact leaves_of_onDev hr (by rw [exec, execTlChWrite]) (tlChWrite_of_locked hg hmode hlocked)
  case base =>
    subst hhigh
    exact leaves_of_onDev hr (by rw [exec, execTlChWrite]) (tlChWrite_of_base hg hmode)
  case off =>
    subst hhigh
    exact leaves_of_onDev hr (by rw [exec, execTlChWrite]) (tlChWrite_of_off hg hval)
  case go => exact leavesBoth_of_onAll hr (by rw [exec, execGo]) (by simp [hg, admit_dev _ _ _ _ _ hg, hgo])
  case refused => exact leavesBoth_of_onAll hr (by rw [exec, execGo]) (by simp [hg, admit_dev _ _ _ _ _ hg, hno])
  case stop => exact leaves_of_onDev hr (by rw [exec, execStop]) (hostWrite_admitted _ _ _ _ _ _ hg)

end Sys2Proof.Machine
end

section
/-! SUPPORT. Ranger's boot, ageing, keys and reports (R438 to R448, R482, R484): firmware that is loaded from the host, measurements, key records. -/

namespace Sys2Proof.Machine
open Sys2Proof.Claims

/-! ### A firmware image from the host (R442) -/

section FwLoad
variable {c : Ctl}

/-- The request of a load is gone once its image has come, or could not be read. -/
theorem Ctl.fwLoaded_false (h : c.fwLoad = false) (image : List Byte) : c.fwLoaded false image = { c with fwCode := 1 } := by
  cases c
  cases h
  rfl

theorem Ctl.fwLoaded_true (h : c.fwLoad = false) (image : List Byte) :
    c.fwLoaded true image =
      if fwCheck (fwImage 0 image) = 0 then c.runFirmware (fwImage 0 image) else { c with fwCode := fwCheck (fwImage 0 image) } := by
  cases c
  cases h
  rfl

theorem fwLoadWrite_of_granted {d : Dev} {fn : Nat} (hg : (checkWrite c d fn (baseBU + 0xC0) 4).2 = true) (hwait : c.stage = .romWait)
    (hidle : c.fwLoad = false) :
    fwLoadWrite c d fn 1 = ({ c with fwLoad := true }, d.hostGet (d.fld (baseBU + 0xC4) 31 12 * 4096 + d.reg (baseBU + 0xC8) * 2 ^ 32) 64) := by
  simp [fwLoadWrite, hg, admit_dev _ _ _ _ _ hg, hwait, hidle, bit]

/-- A granted write of fw_load in ROM_WAIT reads the image, which is then run or refused. -/
theorem leavesBoth_of_fwLoad {s : State} {fn : Fin 16} (hr : Runs s) (hwait : s.ctl.stage = .romWait) (hg : Grants s fn (baseBU + 0xC0) 4)
    (hidle : s.ctl.fwLoad = false) (ok : Bool) (image : List Byte) :
    LeavesBoth (.fwLoad fn ok image) s (s.ctl.fwLoaded ok image,
      s.dev.hostGet (s.dev.fld (baseBU + 0xC4) 31 12 * 4096 + s.dev.reg (baseBU + 0xC8) * 2 ^ 32) 64) := by
  refine leavesBoth_of_onAll hr (by rw [exec, execFwLoad]) ?_
  simp only [hidle, fwLoadWrite_of_granted hg hwait hidle, Bool.false_eq_true, if_false, if_true]
  rfl

end FwLoad

/-- Settles O56: each clause's conditions choose one branch of its command. -/
theorem rangerCommands : Obligations.RangerCommands := by
  intro s fn p val
  refine ⟨fun hin => ?hour, fun hr hrom => ⟨fun h0 => ?bank0, fun h0 h1 => ?bank1, fun h0 h1 => ?noBank⟩,
    fun hr hwait hg hidle image => ?fwWrite, fun hr hload ok image => ?fwPending, fun hr hstage hdone failed slack => ?bist,
    fun hr hnone => ⟨fun hstage hdone hperiod => ?periodic, fun hg => ?measure⟩, fun hr m slack ro hm hcause => ?measured,
    fun hr => ?relock, fun hr hg => ?histIndex, fun hr hg hidle => ⟨fun hload => ?keyWaits, fun hload => ?keyReads⟩,
    fun hr hphase record => ⟨fun code hcode => ?keyRefused, fun hgood => ?keyWrites⟩, fun hr slot e hphase => ⟨?slotWritten, ?slotFailed⟩,
    fun hr hg hbusy => ?attestBusy, fun hr hg hfree => ?attest, fun hr hbusy nonce => ?report⟩
  case hour => simp [exec, execPowerOnHour, hin, w32]
  case bank0 => exact leavesBoth_of_onAll hr (by rw [exec, execFirmwareBankVerify]) (by simp [hrom, h0])
  case bank1 => exact leavesBoth_of_onAll hr (by rw [exec, execFirmwareBankVerify]) (by simp [hrom, h0, h1])
  case noBank => exact leavesBoth_of_onAll hr (by rw [exec, execFirmwareBankVerify]) (by simp [hrom, h0, h1])
  case fwWrite =>
    have hread := leavesBoth_of_fwLoad hr hwait hg hidle true image
    rw [Ctl.fwLoaded_true hidle] at hread
    have hunread := leavesBoth_of_fwLoad hr hwait hg hidle false image
    rw [Ctl.fwLoaded_false hidle] at hunread
    exact ⟨fun hgood => by rwa [if_pos hgood] at hread, fun hbad => by rwa [if_neg hbad] at hread, hunread⟩
  case fwPending => exact leavesBoth_of_onAll hr (by rw [exec, execFwLoad]) (by simp [hload])
  case bist => exact leavesBoth_of_onAll hr (by rw [exec, execBistEnd]) (by simp [hstage, hdone])
  case periodic => exact leavesBoth_of_onAll hr (by rw [exec, execPeriodicMeasurement]) (by simp [hstage, hdone, hperiod, Ctl.startMeasure, hnone])
  case measure => exact leavesBoth_of_onAll hr (by rw [exec, execMeasure]) (by simp [hg, admit_dev _ _ _ _ _ hg, Ctl.startMeasure, hnone])
  case measured => exact leavesBoth_of_onAll hr (by rw [exec, execMeasurementEnd]) (by simp only [hm, if_neg hcause, Ctl.appendHist])
  case relock => exact leavesBoth_of_onAll hr (by rw [exec, execClockRelockEnd]) rfl
  case histIndex => exact leavesBoth_of_onAll hr (by rw [exec, execAgHistIndexWrite]) (by simp [histIndexWrite, hg, admit_dev _ _ _ _ _ hg])
  case keyWaits => exact leavesBoth_of_onAll hr (by rw [exec, execKeyCommand]) (by simp [hg, admit_dev _ _ _ _ _ hg, hidle, hload])
  case keyReads => exact leavesBoth_of_onAll hr (by rw [exec, execKeyCommand]) (by simp [hg, admit_dev _ _ _ _ _ hg, hidle, hload, Dev.readKeyRecord])
  case keyRefused => exact leavesBoth_of_onAll hr (by rw [exec, execKeyRecordReadDone]) (by simp [hphase, hcode])
  case keyWrites => exact leavesBoth_of_onAll hr (by rw [exec, execKeyRecordReadDone]) (by simp [hphase, hgood])
  case slotWritten => exact leavesBoth_of_onAll hr (by rw [exec, execKeySlotWriteDone]) (by simp [hphase])
  case slotFailed => exact leavesBoth_of_onAll hr (by rw [exec, execKeySlotWriteDone]) (by simp [hphase, keyRefused])
  case attestBusy => exact leavesBoth_of_onAll hr (by rw [exec, execAttest]) (by simp [hbusy, admit_dev _ _ _ _ _ hg])
  case attest => exact leavesBoth_of_onAll hr (by rw [exec, execAttest]) (by simp [hg, hfree, admit_dev _ _ _ _ _ hg])
  case report => exact leavesBoth_of_onAll hr (by rw [exec, execAttestNonceReadDone]) (by simp [hbusy, w32])

end Sys2Proof.Machine
end
